-- ==== Sys2Proof/Word.lean ====
section
/-! DEFINITION. The word types of the OLA-8M (R7): bytes, 32-bit elements, 64-bit words, lane masks and lane numbers. -/

namespace Sys2Proof

/-- One byte. -/
abbrev Byte := BitVec 8
/-- A 32-bit vector element (R31). -/
abbrev W32 := BitVec 32
/-- A 64-bit word: a scalar register, an instruction word, a literal (R33, R50). -/
abbrev W64 := BitVec 64
/-- A lane mask: bit L stands for lane L (R36). -/
abbrev LMask := BitVec 64
/-- A lane number, 0 to 63 (R6). -/
abbrev Lane := Fin 64

end Sys2Proof
end

