-- ==== Sys2Proof/Syntax.lean ====
section
/-! DEFINITION. The rows of the operation table: the encoded instructions of R66 with their decoded operands, and the
device steps that have no encoding (host accesses, engine completions, packets, events), one constructor per row. -/

namespace Sys2Proof

/-- The part of the common header (R50) that every instruction may set: E and the consumed tag TC (0 names none). -/
structure Hdr where
  e : Bool
  tc : BitVec 3
  deriving DecidableEq, Repr, Inhabited

/-- The constants of R59 other than LANE. -/
inductive UConst where
  | zero | one | half | two | negOne | allOnes
  deriving DecidableEq, Repr, Inhabited

/-- A source of kind u (R61): a scalar, a common-room register, a window entry `win n` for ^(n+1), a constant, the
literal. -/
inductive UOp where
  | s (n : BitVec 6)
  | c (n : BitVec 4)
  | win (n : BitVec 3)
  | k (x : UConst)
  | lit (x : W64)
  deriving DecidableEq, Repr, Inhabited

/-- A source of kind o (R61): any source code of R59. -/
inductive OOp where
  | v (n : BitVec 7)
  | lane
  | u (x : UOp)
  deriving DecidableEq, Repr, Inhabited

/-- A destination of kind s (R34, R61). -/
inductive SDst where
  | s (n : BitVec 6)
  | c (n : BitVec 4)
  deriving DecidableEq, Repr, Inhabited

/-- A vector register number (kind v). -/
abbrev VReg := BitVec 7

/-- A mask register of a mask instruction: m0 to m7 or EXM (R36). -/
inductive MOp where
  | m (n : BitVec 3)
  | exm
  deriving DecidableEq, Repr, Inhabited

/-- The integer types of R55. -/
inductive VTy where
  | i32 | n32 | i64 | n64
  deriving DecidableEq, Repr, Inhabited

/-- The scalar types (R173). -/
inductive STy where
  | i64 | n64
  deriving DecidableEq, Repr, Inhabited

/-- The 32- or 64-bit move types of the cross-lane instructions. -/
inductive NTy where
  | n32 | n64
  deriving DecidableEq, Repr, Inhabited

/-- Conditions 0 to 5 of R67. -/
inductive Cond where
  | eq | ne | lt | le | gt | ge
  deriving DecidableEq, Repr, Inhabited

/-- Conditions 0 to 7 of VFCMP (R218). -/
inductive FCond where
  | eq | ne | lt | le | gt | ge | un | or
  deriving DecidableEq, Repr, Inhabited

/-- The tests of BRC (R188). -/
inductive BrTest where
  | nz | z | ltz | gez | gtz | lez
  deriving DecidableEq, Repr, Inhabited

/-- The bit operations of R67; .BFX carries its position and length operands. -/
inductive BitOp (α : Type) where
  | popc | clz | ctz | brev
  | bfx (p n : α)
  deriving DecidableEq, Repr, Inhabited

/-- The deterministic rounding modes of R54. -/
inductive RM where
  | rn | rz | ru | rd
  deriving DecidableEq, Repr, Inhabited

/-- The rounding of a converting store (R57). -/
inductive SRnd where
  | det (m : RM)
  | sr
  deriving DecidableEq, Repr, Inhabited

/-- Element formats 0x0 to 0xA of R58. -/
inductive MFmt where
  | n8 | n16 | n32 | n64 | i8 | f16 | bf16 | f8e4 | f8e5 | f4 | e8
  deriving DecidableEq, Repr, Inhabited

/-- Formats of ATOM and ACAS (R333). -/
inductive AFmt where
  | n32 | n64 | i32 | i64
  deriving DecidableEq, Repr, Inhabited

/-- Scopes 1 to 6 of R313. -/
inductive Scope where
  | gp | tm | cl | die | dev | sys
  deriving DecidableEq, Repr, Inhabited

/-- ORD and SCOPE of an atomic (R333). -/
inductive AOrd where
  | plain
  | acq (s : Scope)
  | rel (s : Scope)
  | ar (s : Scope)
  deriving DecidableEq, Repr, Inhabited

/-- ORD of a FENCE (R340). -/
inductive FOrd where
  | acq | rel | ar
  deriving DecidableEq, Repr, Inhabited

/-- The operations of ATOM (R334). -/
inductive AOp where
  | add | sub | and | or | xor | min | max | xchg | inc
  deriving DecidableEq, Repr, Inhabited

/-- The returning form of an atomic: destination and tag (R333). -/
structure ARet where
  d : VReg
  ta : BitVec 3
  deriving DecidableEq, Repr, Inhabited

/-- A uniform address with its offset, as CWB, CINV and ICINV take one. -/
structure UAddr where
  a : UOp
  off : BitVec 16
  deriving DecidableEq, Repr, Inhabited

/-- The forms of VSHFL (R226). -/
inductive ShflForm where
  | idx | xor | up | down
  deriving DecidableEq, Repr, Inhabited

/-- The reductions of VRED (R228). -/
inductive RedOp where
  | add | min | max | and | or | xor
  deriving DecidableEq, Repr, Inhabited

/-- The reductions of VREDF and VSCAN (R229, R230). -/
inductive FRedOp where
  | add | min | max
  deriving DecidableEq, Repr, Inhabited

/-- The types of VSCAN (R230). -/
inductive ScanTy where
  | i32 | n32 | f32
  deriving DecidableEq, Repr, Inhabited

/-- The pairs of VFCVT (R221). -/
inductive CvtTy where
  | toF (src : VTy)
  | fromF (dst : VTy)
  deriving DecidableEq, Repr, Inhabited

/-- The special registers of R45. -/
inductive SReg where
  | lane | fpflags | amax | budget | srseed | wmdepth | privbase | cause | faultmask | txstatus
  | xpc | xexm | xaddr | xctx | cycles | retired | tier | partid
  deriving DecidableEq, Repr, Inhabited

/-- The destination of RDSR: scalar for a group-wide register, vector for a per-lane one (R181). -/
inductive RDst where
  | s (d : SDst)
  | v (d : VReg)
  deriving DecidableEq, Repr, Inhabited

/-- The transforms of CPY (R268). -/
inductive Xform where
  | lin | t2 | t4 | pad | gath | rag | exp
  deriving DecidableEq, Repr, Inhabited

/-- The batch streams of R261. -/
inductive Strm where
  | copy | matrix | gather
  deriving DecidableEq, Repr, Inhabited

/-- The operand types of MMA (R280). -/
inductive MmaTy where
  | f4 | f8e4 | f8e5 | i8 | f16 | bf16
  deriving DecidableEq, Repr, Inhabited

/-- A response code of the PCIe Page Request Interface (R149). -/
inductive PriCode where
  | success | invalid | failure
  deriving DecidableEq, Repr, Inhabited

/-- A fabric packet as it travels: the four header doublewords of R397 and the payload bytes. -/
structure Pkt where
  dw0 : W64
  dw1 : W64
  dw2 : W64
  dw3 : W64
  payload : List Byte
  deriving DecidableEq, Repr, Inhabited

/-- One end of a fabric stream: device, die, partition (R392). -/
structure Endpt where
  dev : Nat
  die : Nat
  part : Nat
  deriving DecidableEq, Repr, Inhabited

/-- A stream seen from this device: its own endpoint, the other one, and the class (R392). -/
structure StreamId where
  own : Endpt
  peer : Endpt
  tc : Nat
  deriving DecidableEq, Repr, Inhabited

/-- What an uncorrectable register error hits (R428): an element of a vector register, a window element (its high half
with `hi`), a scalar or a common-room register, of the group named. -/
inductive EccReg where
  | vec (r : VReg) (l : Lane)
  | win (n : BitVec 3) (hi : Bool) (l : Lane)
  | scalar (r : BitVec 6)
  | common (r : BitVec 4)
  deriving DecidableEq, Repr, Inhabited

/-- What an uncorrectable memory error hits (R430): a sector at its home (device memory or a team's scratchpad), a
dirty or a clean L1 copy, or a slice copy that is not the home; or a sector of host memory, which the host then returns with EP set
(R95). -/
inductive EccMem where
  | home (part : Nat) (pa : Nat)
  | scratch (team : Nat) (off : Nat)
  | l1 (core : Nat) (pa : Nat)
  | sliceCopy (pa : Nat)
  | host (sector : Nat)
  deriving DecidableEq, Repr, Inhabited

/-- Whose register file a REGISTER_WRITE names: the BAR0 of a partition's virtual function, or the physical
function's. -/
inductive BarSpace where
  | vf (part : Nat)
  | pf
  deriving DecidableEq, Repr, Inhabited

/-- One constructor per row of the operation table. The encoded instructions carry their decoded operands (`d : Option`
is none when K = 1 sends the result to the window only, R69); the device steps carry what they act on. -/
inductive Instr where
  -- control and system, R187 to R199, R419, R420
  | nop (h : Hdr)
  | br (h : Hdr) (ofs : BitVec 32)
  | brc (h : Hdr) (cond : UOp) (t : BrTest) (ofs : BitVec 32)
  | brd (h : Hdr) (c : BitVec 3) (neg : Bool) (ofs : BitVec 32)
  | join (h : Hdr)
  | loop (h : Hdr) (ofs : BitVec 32)
  | brk (h : Hdr) (c : BitVec 3) (neg : Bool) (ofs : BitVec 32)
  | call (h : Hdr) (link : SDst) (ofs : BitVec 32)
  | ret (h : Hdr) (a : UOp)
  | jmpr (h : Hdr) (a : UOp)
  | exit (h : Hdr)
  | trap (h : Hdr) (code : BitVec 16)
  | rte (h : Hdr)
  | yield (h : Hdr)
  -- scalar, R174 to R179
  | sadd (h : Hdr) (d : Option SDst) (a b : UOp) (ty : STy) (sat : Bool)
  | ssub (h : Hdr) (d : Option SDst) (a b : UOp) (ty : STy) (sat : Bool)
  | smul (h : Hdr) (d : Option SDst) (a b : UOp) (ty : STy) (sat : Bool)
  | smulh (h : Hdr) (d : Option SDst) (a b : UOp) (ty : STy)
  | sand (h : Hdr) (d : Option SDst) (a b : UOp) (ty : STy)
  | sor (h : Hdr) (d : Option SDst) (a b : UOp) (ty : STy)
  | sxor (h : Hdr) (d : Option SDst) (a b : UOp) (ty : STy)
  | sshl (h : Hdr) (d : Option SDst) (a b : UOp) (ty : STy)
  | sshr (h : Hdr) (d : Option SDst) (a b : UOp) (ty : STy)
  | ssar (h : Hdr) (d : Option SDst) (a b : UOp) (ty : STy)
  | smin (h : Hdr) (d : Option SDst) (a b : UOp) (ty : STy)
  | smax (h : Hdr) (d : Option SDst) (a b : UOp) (ty : STy)
  | scmp (h : Hdr) (d : Option SDst) (a b : UOp) (ty : STy) (c : Cond)
  | ssel (h : Hdr) (d : Option SDst) (a b c : UOp) (ty : STy)
  | smov (h : Hdr) (d : Option SDst) (a : UOp) (ty : STy)
  | sbit (h : Hdr) (d : Option SDst) (a : UOp) (op : BitOp UOp) (ty : STy)
  | sli (h : Hdr) (d : Option SDst) (imm : BitVec 32)
  | slih (h : Hdr) (d : Option SDst) (a : UOp) (imm : BitVec 32)
  -- special registers, R180 to R185
  | rdsr (h : Hdr) (d : Option RDst) (n : SReg)
  | wrsr (h : Hdr) (n : SReg) (a : OOp)
  | grow (h : Hdr) (n : BitVec 8)
  | twait (h : Hdr) (set : BitVec 7)
  | clrc (h : Hdr) (bits : BitVec 16)
  -- masks, R186
  | mmov (h : Hdr) (d a : MOp)
  | mlog (h : Hdr) (d a b : MOp) (tt : BitVec 4)
  | mpopc (h : Hdr) (d : Option SDst) (a : MOp)
  | mfirst (h : Hdr) (d : Option SDst) (a : MOp)
  | mrd (h : Hdr) (d : Option SDst) (a : MOp)
  | mwr (h : Hdr) (d : MOp) (a : UOp)
  | mtest (h : Hdr) (d : Option SDst) (a : MOp) (b : UOp)
  -- vector integer, R206 to R215
  | vadd (h : Hdr) (d : Option VReg) (a b : OOp) (sel : BitVec 3) (ty : VTy) (sat : Bool)
  | vsub (h : Hdr) (d : Option VReg) (a b : OOp) (sel : BitVec 3) (ty : VTy) (sat : Bool)
  | vmul (h : Hdr) (d : Option VReg) (a b : OOp) (sel : BitVec 3) (ty : VTy) (sat : Bool)
  | vmulh (h : Hdr) (d : Option VReg) (a b : OOp) (sel : BitVec 3) (ty : VTy)
  | vmad (h : Hdr) (d : Option VReg) (a b c : OOp) (sel : BitVec 3) (ty : VTy) (sat : Bool)
  | vaddc (h : Hdr) (d : Option VReg) (a b : OOp) (sel : BitVec 3) (ty : VTy) (k : BitVec 3)
  | vand (h : Hdr) (d : Option VReg) (a b : OOp) (sel : BitVec 3) (ty : VTy)
  | vor (h : Hdr) (d : Option VReg) (a b : OOp) (sel : BitVec 3) (ty : VTy)
  | vxor (h : Hdr) (d : Option VReg) (a b : OOp) (sel : BitVec 3) (ty : VTy)
  | vshl (h : Hdr) (d : Option VReg) (a b : OOp) (sel : BitVec 3) (ty : VTy)
  | vshr (h : Hdr) (d : Option VReg) (a b : OOp) (sel : BitVec 3) (ty : VTy)
  | vsar (h : Hdr) (d : Option VReg) (a b : OOp) (sel : BitVec 3) (ty : VTy)
  | vmin (h : Hdr) (d : Option VReg) (a b : OOp) (sel : BitVec 3) (ty : VTy)
  | vmax (h : Hdr) (d : Option VReg) (a b : OOp) (sel : BitVec 3) (ty : VTy)
  | vabsd (h : Hdr) (d : Option VReg) (a b : OOp) (sel : BitVec 3) (ty : VTy)
  | vbit (h : Hdr) (d : Option VReg) (a : OOp) (op : BitOp OOp) (sel : BitVec 3) (ty : VTy)
  | vcmp (h : Hdr) (d : BitVec 3) (a b : OOp) (sel : BitVec 3) (ty : VTy) (c : Cond)
  | vsel (h : Hdr) (d : Option VReg) (a b : OOp) (sel : BitVec 3) (ty : VTy) (k : BitVec 3)
  | vmov (h : Hdr) (d : Option VReg) (a : OOp) (sel : BitVec 3) (ty : VTy)
  | vli (h : Hdr) (d : Option VReg) (imm : BitVec 32)
  | vidx (h : Hdr) (d : Option VReg) (a b : OOp) (sel : BitVec 3) (signed : Bool)
  | vpermb (h : Hdr) (d : Option VReg) (a b : OOp) (sel : BitVec 3)
  -- vector floating point and special functions, R216 to R224
  | vfadd (h : Hdr) (d : Option VReg) (a b : OOp) (sel : BitVec 3) (rm : RM)
  | vfsub (h : Hdr) (d : Option VReg) (a b : OOp) (sel : BitVec 3) (rm : RM)
  | vfmul (h : Hdr) (d : Option VReg) (a b : OOp) (sel : BitVec 3) (rm : RM)
  | vfma (h : Hdr) (d : Option VReg) (a b c : OOp) (sel : BitVec 3) (rm : RM)
  | vfmin (h : Hdr) (d : Option VReg) (a b : OOp) (sel : BitVec 3)
  | vfmax (h : Hdr) (d : Option VReg) (a b : OOp) (sel : BitVec 3)
  | vfcmp (h : Hdr) (d : BitVec 3) (a b : OOp) (sel : BitVec 3) (c : FCond)
  | vfclass (h : Hdr) (d : Option VReg) (a : OOp) (sel : BitVec 3)
  | vfrnd (h : Hdr) (d : Option VReg) (a : OOp) (sel : BitVec 3) (rm : RM)
  | vfcvt (h : Hdr) (d : Option VReg) (a : OOp) (sel : BitVec 3) (t : CvtTy) (rm : RM)
  | vrcp (h : Hdr) (d : Option VReg) (a : OOp) (sel : BitVec 3)
  | vrsq (h : Hdr) (d : Option VReg) (a : OOp) (sel : BitVec 3)
  | vsqrt (h : Hdr) (d : Option VReg) (a : OOp) (sel : BitVec 3)
  | vexp2 (h : Hdr) (d : Option VReg) (a : OOp) (sel : BitVec 3)
  | vlog2 (h : Hdr) (d : Option VReg) (a : OOp) (sel : BitVec 3)
  | vsinpi (h : Hdr) (d : Option VReg) (a : OOp) (sel : BitVec 3)
  | vcospi (h : Hdr) (d : Option VReg) (a : OOp) (sel : BitVec 3)
  | vtanh (h : Hdr) (d : Option VReg) (a : OOp) (sel : BitVec 3)
  -- cross-lane, R226 to R231
  | vshfl (h : Hdr) (d : Option VReg) (a b : OOp) (sel : BitVec 3) (ty : NTy) (f : ShflForm)
  | vbcast (h : Hdr) (d : Option VReg) (a : OOp) (b : UOp) (sel : BitVec 3) (ty : NTy)
  | vred (h : Hdr) (d : Option SDst) (a : OOp) (sel : BitVec 3) (ty : VTy) (op : RedOp)
  | vredf (h : Hdr) (d : Option SDst) (a : OOp) (sel : BitVec 3) (op : FRedOp)
  | vscan (h : Hdr) (d : Option VReg) (a : OOp) (sel : BitVec 3) (ty : ScanTy) (op : FRedOp) (excl : Bool)
  | vcomp (h : Hdr) (d : Option VReg) (a : OOp) (sel : BitVec 3) (ty : NTy)
  | vexpd (h : Hdr) (d : Option VReg) (a : OOp) (sel : BitVec 3) (ty : NTy)
  -- memory, R249 to R260
  | vld (h : Hdr) (ta : BitVec 3) (d : VReg) (a : OOp) (off : BitVec 16) (sel : BitVec 3) (f : MFmt) (acq : Option Scope) (nt : Bool)
  | vldIndexed (h : Hdr) (ta : BitVec 3) (d : VReg) (a b : OOp) (c : BitVec 8) (sel : BitVec 3) (f : MFmt) (acq : Option Scope) (nt : Bool)
  | vldb (h : Hdr) (ta : BitVec 3) (d : VReg) (a : UOp) (off : BitVec 16) (sel : BitVec 3) (f : MFmt) (acq : Option Scope) (nt : Bool)
  | vst (h : Hdr) (d a : OOp) (off : BitVec 16) (sel : BitVec 3) (f : MFmt) (rnd : SRnd) (rel : Option Scope) (nt : Bool)
  | vstIndexed (h : Hdr) (d a b : OOp) (c : BitVec 8) (sel : BitVec 3) (f : MFmt) (rnd : SRnd) (rel : Option Scope) (nt : Bool)
  | vstAmax (h : Hdr) (d a : OOp) (off : BitVec 16) (sel : BitVec 3) (f : MFmt) (rnd : SRnd) (rel : Option Scope) (nt : Bool)
  | vstAmaxIndexed (h : Hdr) (d a b : OOp) (c : BitVec 8) (sel : BitVec 3) (f : MFmt) (rnd : SRnd) (rel : Option Scope) (nt : Bool)
  | vlds (h : Hdr) (ta : BitVec 3) (d : VReg) (a : OOp) (off : BitVec 16) (sel : BitVec 3) (f : MFmt) (acq : Option Scope)
  | vsts (h : Hdr) (d a : OOp) (off : BitVec 16) (sel : BitVec 3) (f : MFmt) (rnd : SRnd) (rel : Option Scope)
  | vldp (h : Hdr) (ta : BitVec 3) (d : VReg) (a : OOp) (off : BitVec 16) (sel : BitVec 3) (f : MFmt) (nt : Bool)
  | vstp (h : Hdr) (d a : OOp) (off : BitVec 16) (sel : BitVec 3) (f : MFmt) (rnd : SRnd) (nt : Bool)
  | sld (h : Hdr) (ta : BitVec 3) (d : BitVec 6) (a : UOp) (off : BitVec 16) (f : MFmt) (acq : Option Scope) (nt : Bool)
  | sst (h : Hdr) (d a : UOp) (off : BitVec 16) (f : MFmt) (rel : Option Scope) (nt : Bool)
  | pref (h : Hdr) (a : OOp) (off : BitVec 16) (sel : BitVec 3) (nt : Bool)
  | cwb (h : Hdr) (addr : Option UAddr) (sc : Scope)
  | cinv (h : Hdr) (addr : Option UAddr) (sc : Scope)
  | icinv (h : Hdr) (addr : Option UAddr) (dev : Bool)
  -- atomics, fences, barriers, R334 to R343
  | atom (h : Hdr) (r : Option ARet) (a b : OOp) (sel : BitVec 3) (f : AFmt) (op : AOp) (ord : AOrd)
  | acas (h : Hdr) (r : Option ARet) (a b c : OOp) (sel : BitVec 3) (f : AFmt) (ord : AOrd)
  | afadd (h : Hdr) (r : Option ARet) (a b : OOp) (sel : BitVec 3) (ord : AOrd)
  | fence (h : Hdr) (ord : FOrd) (sc : Scope) (sp : Bool)
  | bara (h : Hdr) (d : Option SDst) (a : UOp) (sc : Scope) (sp : Bool)
  | barw (h : Hdr) (a b : UOp) (sc : Scope) (sp : Bool)
  | bar (h : Hdr) (a : UOp) (sc : Scope) (sp : Bool)
  -- queues and tasks, R351 to R363
  | qpush (h : Hdr) (d : VReg) (q : BitVec 6) (sel : BitVec 3)
  | qpop (h : Hdr) (d : VReg) (q : BitVec 6) (sel : BitVec 3)
  | qtrypush (h : Hdr) (d : VReg) (q : BitVec 6) (sel : BitVec 3)
  | qtrypop (h : Hdr) (d : VReg) (q : BitVec 6) (sel : BitVec 3)
  | sqpush (h : Hdr) (d : BitVec 6) (q : BitVec 6)
  | sqpop (h : Hdr) (d : BitVec 6) (q : BitVec 6)
  | qstat (h : Hdr) (d : Option SDst) (q : BitVec 6)
  | qinit (h : Hdr) (a b c : UOp)
  | taskwait (h : Hdr) (q : BitVec 6)
  | taskdone (h : Hdr) (q : BitVec 6)
  -- engines and matrix, R262 to R305
  | cpy (h : Hdr) (a : BitVec 6) (x : Xform)
  | bclose (h : Hdr) (d : Option SDst) (st : Strm)
  | bwait (h : Hdr) (a : UOp) (st : Strm)
  | egath (h : Hdr) (d a : UOp) (b c : OOp) (sel : BitVec 3) (seg : BitVec 3)
  | escat (h : Hdr) (d a : UOp) (b : OOp) (sel : BitVec 3)
  | eswap (h : Hdr) (a b : UOp)
  | mma (h : Hdr) (d : BitVec 5) (a b : UOp) (ty : MmaTy) (pair : Bool)
  | mscale (h : Hdr) (d : BitVec 5) (a b : UOp)
  | mzero (h : Hdr) (d : BitVec 5)
  | mlda (h : Hdr) (ta : BitVec 3) (d : VReg) (a : BitVec 5) (b : UOp) (sel : BitVec 3)
  | msta (h : Hdr) (a : BitVec 5) (b c : UOp) (f : MFmt) (rnd : SRnd) (nt : Bool)
  | msave (h : Hdr) (a : UOp)
  | mresume (h : Hdr) (a : UOp)
  -- transactions and ordered speculation, R381 to R386
  | txbeg (h : Hdr) (sel : BitVec 3) (ts : Bool)
  | txend (h : Hdr) (sel : BitVec 3)
  | txabt (h : Hdr) (sel : BitVec 3)
  | txstat (h : Hdr) (d : Option VReg) (sel : BitVec 3)
  | specbeg (h : Hdr) (a : UOp) (b : OOp) (sel : BitVec 3)
  | specend (h : Hdr)
  -- device steps: regions and speculation domains
  | txRetry (gid : Nat)
  | serialTokenGrant (part : Nat)
  | specTurn (gid : Nat)
  | orderNumberRetire (part : Nat) (k : Nat)
  -- host queues, launches, placement
  | submissionPush (part page off : Nat) (data : List Byte)
  | completionPop (part page off size : Nat)
  | qsetEnable (part pair : Nat) (v : W64)
  | qsetDisable (part pair : Nat) (v : W64)
  | queuePairRelease (part pair : Nat)
  | launchCheck (part : Nat)
  | refusalPush (part pair : Nat)
  | launchEnterTable (part pair : Nat)
  | clusterPlace (part : Nat)
  | clusterWaitTimeout (part lid : Nat)
  -- eviction and readmission
  | groupEviction (gid : Nat)
  | tagDrainTimeout (gid : Nat)
  | lateSectorReturn (gid k : Nat)
  | groupReadmit (gid : Nat)
  | growEvict (core sub : Nat)
  | growStarvationTimeout (core sub : Nat)
  | yieldExpire (gid : Nat)
  | watchdog (gid : Nat)
  -- fetch and issue
  | runFetch (gid : Nat)
  | icacheFill (core line : Nat)
  | runSelect (core sub : Nat)
  -- translation and host service
  | pageRequestSend (part : Nat)
  | pageResponse (part : Nat) (page : Nat) (code : PriCode)
  | priReset (part : Nat)
  | atsInvalidate (part : Nat) (page npages : Nat)
  | atsInvalidateComplete (part : Nat)
  | pageWalk (sector : Nat) (page : Nat)
  -- memory system
  | sectorReturn (gid k : Nat)
  | storeApply (gid : Nat)
  | lineFill (part line : Nat)
  | atomicHomeApply (gid : Nat)
  | queueHomeOp (gid : Nat)
  | waiterNotify (k : Nat)
  | parkRepoll (gid : Nat)
  | coreWake (core : Nat)
  | taskDispatch (part : Nat) (q : Nat)
  -- engines
  | copyComplete (core op : Nat)
  | ringPublish (core op : Nat)
  | matrixCommandStart (core : Nat)
  | kblockComplete (core : Nat)
  | matrixCommandComplete (core : Nat)
  | pairClaim (core : Nat)
  | gatherComplete (core op : Nat)
  | scatterReadComplete (core op : Nat)
  | gatherBatchApply (core op : Nat)
  | descriptorRelease (part : Nat) (k : Nat)
  | releaseRecordPush (part pair : Nat)
  -- endings
  | groupEnd (gid : Nat)
  | teamEnd (tid : Nat)
  | launchComplete (lid : Nat)
  -- power, heat, clocks
  | tokenVisit (die : Nat)
  | powerSample (die : Nat) (milliwatt : Nat)
  | powerCapExceeded (die : Nat)
  | clockHalve (die : Nat)
  | clockRestore (die : Nat)
  | tokenRestore (die : Nat)
  | heatMark (core : Nat) (centi : Nat)
  | heatMarkClear (core : Nat)
  | droopMark (core : Nat)
  | droopMarkClear (core : Nat)
  -- boot, partitions, attestation, keys
  | bootRecordVerify (rec : List Byte) (sigOk : Bool) (fw : List Byte)
  | bootRecordLoad (rec : List Byte) (sigOk : Bool) (fw : List Byte)
  | tierReached
  | partitionCreate (p : Nat) (sectors groups : List Nat)
  | partitionDestroy (p : Nat)
  | getVersion (fn : Nat)
  | getCapabilities (fn : Nat)
  | negotiateAlgorithms (fn : Nat)
  | getDigests (fn : Nat)
  | getCertificate (fn : Nat)
  | challenge (fn : Nat) (nonce : List Byte)
  | getMeasurements (fn : Nat) (index : Nat)
  | keyExchange (fn : Nat)
  | finish (fn : Nat)
  | endSession (fn : Nat)
  | keyloadLoad (fn : Nat) (secured : Bool) (rec : List Byte)
  | keyloadErase (fn : Nat) (secured : Bool) (rec : List Byte)
  | keyEraseFinish (slot : Nat)
  -- host register writes with a behaviour of their own
  | ptrootWrite (part : Nat) (v : W64)
  | tlbInvalidateAll (part : Nat)
  | tlbInvalidateRange (part : Nat) (npages : Nat)
  | tlbInvalidateDone (part : Nat)
  | flushAll (part : Nat)
  | flushRange (part : Nat) (npages : Nat)
  | flushDone (part : Nat)
  | faberrClear (part : Nat) (v : W64)
  | portAssign (port : Nat) (v : W64)
  | registerWrite (sp : BarSpace) (off : Nat) (v : W64)
  -- the fabric
  | egressEnqueue (port : Nat) (p : Pkt)
  | egressSend (port : Nat)
  | transitForward (port : Nat) (p : Pkt)
  | wr (port : Nat) (p : Pkt)
  | wrb (port : Nat) (p : Pkt)
  | rd (port : Nat) (p : Pkt)
  | rdrsp (port : Nat) (p : Pkt)
  | atReq (port : Nat) (p : Pkt)
  | atrsp (port : Nat) (p : Pkt)
  | err (port : Nat) (p : Pkt)
  | ack (port : Nat) (p : Pkt)
  | rreq (port : Nat) (p : Pkt)
  | qop (port : Nat) (p : Pkt)
  | qrsp (port : Nat) (p : Pkt)
  | ctok (port : Nat) (p : Pkt)
  | fill (port : Nat) (p : Pkt)
  | trimmedHeader (port : Nat) (p : Pkt)
  | packetApply (sid : StreamId) (seq : Nat)
  | rreqSend (dev : Nat)
  | ackSend (sid : StreamId)
  | retransmitTimeout (sid : StreamId) (seq : Nat)
  -- errors in hardware
  | registerEccError (gid : Nat) (r : EccReg)
  | coreFence (core : Nat)
  | memoryEccError (m : EccMem)
  | channelFence (die ch : Nat) (untrained : Bool)
  | partitionFail (part : Nat) (slice : Nat)
  | correctableError (part : Nat)
  deriving DecidableEq, Repr

end Sys2Proof
end

