-- ==== Sys2Proof/WellFormed.lean ====
section
/-! DEFINITION. What a decoded instruction must satisfy to be one that an instruction word can stand for: the limits of R61 to R71
that do not depend on the state. -/

namespace Sys2Proof

/-- The literals an operand carries. -/
def UOp.lits : UOp → List W64
  | .lit x => [x]
  | _ => []

/-- The literals an operand carries. -/
def OOp.lits : OOp → List W64
  | .u x => x.lits
  | _ => []

def UOp.noLit (x : UOp) : Bool := x.lits.isEmpty
def OOp.noLit (x : OOp) : Bool := x.lits.isEmpty

def BitOp.lits {α : Type} (f : α → List W64) : BitOp α → List W64
  | .bfx p n => f p ++ f n
  | _ => []

/-- The literals named by the operand fields of an instruction: one word serves them all (R60). -/
def Instr.lits : Instr → List W64
  | .ret _ a | .jmpr _ a => a.lits
  | .sadd _ _ a b _ _ | .ssub _ _ a b _ _ | .smul _ _ a b _ _ => a.lits ++ b.lits
  | .smulh _ _ a b _ | .sand _ _ a b _ | .sor _ _ a b _ | .sxor _ _ a b _ | .sshl _ _ a b _ | .sshr _ _ a b _
  | .ssar _ _ a b _ | .smin _ _ a b _ | .smax _ _ a b _ | .scmp _ _ a b _ _ => a.lits ++ b.lits
  | .ssel _ _ a b c _ => a.lits ++ b.lits ++ c.lits
  | .smov _ _ a _ => a.lits
  | .sbit _ _ a op _ => a.lits ++ op.lits UOp.lits
  | .slih _ _ a _ => a.lits
  | .wrsr _ _ a => a.lits
  | .mwr _ _ a => a.lits
  | .mtest _ _ _ b => b.lits
  | .vadd _ _ a b _ _ _ | .vsub _ _ a b _ _ _ | .vmul _ _ a b _ _ _ => a.lits ++ b.lits
  | .vmulh _ _ a b _ _ | .vand _ _ a b _ _ | .vor _ _ a b _ _ | .vxor _ _ a b _ _ | .vshl _ _ a b _ _
  | .vshr _ _ a b _ _ | .vsar _ _ a b _ _ | .vmin _ _ a b _ _ | .vmax _ _ a b _ _ | .vabsd _ _ a b _ _ => a.lits ++ b.lits
  | .vmad _ _ a b c _ _ _ => a.lits ++ b.lits ++ c.lits
  | .vaddc _ _ a b _ _ _ => a.lits ++ b.lits
  | .vbit _ _ a op _ _ => a.lits ++ op.lits OOp.lits
  | .vcmp _ _ a b _ _ _ => a.lits ++ b.lits
  | .vsel _ _ a b _ _ _ => a.lits ++ b.lits
  | .vmov _ _ a _ _ => a.lits
  | .vidx _ _ a b _ _ => a.lits ++ b.lits
  | .vpermb _ _ a b _ => a.lits ++ b.lits
  | .vfadd _ _ a b _ _ | .vfsub _ _ a b _ _ | .vfmul _ _ a b _ _ => a.lits ++ b.lits
  | .vfma _ _ a b c _ _ => a.lits ++ b.lits ++ c.lits
  | .vfmin _ _ a b _ | .vfmax _ _ a b _ => a.lits ++ b.lits
  | .vfcmp _ _ a b _ _ => a.lits ++ b.lits
  | .vfclass _ _ a _ => a.lits
  | .vfrnd _ _ a _ _ => a.lits
  | .vfcvt _ _ a _ _ _ => a.lits
  | .vrcp _ _ a _ | .vrsq _ _ a _ | .vsqrt _ _ a _ | .vexp2 _ _ a _ | .vlog2 _ _ a _ | .vsinpi _ _ a _
  | .vcospi _ _ a _ | .vtanh _ _ a _ => a.lits
  | .vshfl _ _ a b _ _ _ => a.lits ++ b.lits
  | .vbcast _ _ a b _ _ => a.lits ++ b.lits
  | .vred _ _ a _ _ _ => a.lits
  | .vredf _ _ a _ _ => a.lits
  | .vscan _ _ a _ _ _ _ => a.lits
  | .vcomp _ _ a _ _ | .vexpd _ _ a _ _ => a.lits
  | .vld _ _ _ a _ _ _ _ _ => a.lits
  | .vldIndexed _ _ _ a b _ _ _ _ _ => a.lits ++ b.lits
  | .vldb _ _ _ a _ _ _ _ _ => a.lits
  | .vst _ d a _ _ _ _ _ _ | .vstAmax _ d a _ _ _ _ _ _ => d.lits ++ a.lits
  | .vstIndexed _ d a b _ _ _ _ _ _ | .vstAmaxIndexed _ d a b _ _ _ _ _ _ => d.lits ++ a.lits ++ b.lits
  | .vlds _ _ _ a _ _ _ _ => a.lits
  | .vsts _ d a _ _ _ _ _ => d.lits ++ a.lits
  | .vldp _ _ _ a _ _ _ _ => a.lits
  | .vstp _ d a _ _ _ _ _ => d.lits ++ a.lits
  | .sld _ _ _ a _ _ _ _ => a.lits
  | .sst _ d a _ _ _ _ => d.lits ++ a.lits
  | .pref _ a _ _ _ => a.lits
  | .cwb _ (some x) _ | .cinv _ (some x) _ | .icinv _ (some x) _ => x.a.lits
  | .atom _ _ a b _ _ _ _ => a.lits ++ b.lits
  | .acas _ _ a b c _ _ _ => a.lits ++ b.lits ++ c.lits
  | .afadd _ _ a b _ _ => a.lits ++ b.lits
  | .bara _ _ a _ _ => a.lits
  | .barw _ a b _ _ => a.lits ++ b.lits
  | .bar _ a _ _ => a.lits
  | .qinit _ a b c => a.lits ++ b.lits ++ c.lits
  | .bwait _ a _ => a.lits
  | .egath _ d a b c _ _ => d.lits ++ a.lits ++ b.lits ++ c.lits
  | .escat _ d a b _ => d.lits ++ a.lits ++ b.lits
  | .eswap _ a b => a.lits ++ b.lits
  | .mma _ _ a b _ _ => a.lits ++ b.lits
  | .mscale _ _ a b => a.lits ++ b.lits
  | .mlda _ _ _ _ b _ => b.lits
  | .msta _ _ b c _ _ _ => b.lits ++ c.lits
  | .msave _ a | .mresume _ a => a.lits
  | .specbeg _ a b _ => a.lits ++ b.lits
  | _ => []

/-- Whether all literals of a list are one word. -/
def litsAgree : List W64 → Bool
  | [] => true
  | x :: xs => xs.all (· == x)

def VTy.wide : VTy → Bool
  | .i64 | .n64 => true
  | _ => false
def VTy.signed : VTy → Bool
  | .i32 | .i64 => true
  | _ => false
def NTy.wide : NTy → Bool
  | .n64 => true
  | .n32 => false
def AFmt.wide : AFmt → Bool
  | .n64 | .i64 => true
  | _ => false

/-- An even vector register number where a pair is needed (R32). -/
def evenV (n : VReg) : Bool := n.getLsbD 0 == false
def OOp.pairOk : OOp → Bool
  | .v n => evenV n
  | _ => true
/-- A vector source at width 64 is a pair. -/
def OOp.okW (w : Bool) (x : OOp) : Bool := !w || x.pairOk
def dstOkW (w : Bool) : Option VReg → Bool
  | some n => !w || evenV n
  | none => true

/-- Whether FMT converts floating point on the store path (R242). -/
def MFmt.converts : MFmt → Bool
  | .f16 | .bf16 | .f8e4 | .f8e5 | .f4 | .e8 => true
  | _ => false
def MFmt.wide : MFmt → Bool
  | .n64 => true
  | _ => false
/-- RND is 0 unless the format converts (R57). -/
def rndOk (f : MFmt) (r : SRnd) : Bool := f.converts || r == .det .rn
/-- Formats of the scalar loads and stores (R242). -/
def MFmt.scalarOk : MFmt → Bool
  | .n8 | .n16 | .n32 | .n64 | .i8 => true
  | _ => false
/-- Formats of VST.AMAX (R242). -/
def MFmt.amaxOk (f : MFmt) : Bool := f.converts || f == .n32
/-- Formats of MSTA (R287). -/
def MFmt.mstaOk (f : MFmt) : Bool := f.amaxOk && f != .e8
/-- Scopes 1 to 3, for scratchpad accesses. -/
def Scope.local : Scope → Bool
  | .gp | .tm | .cl => true
  | _ => false
def scopeLocal : Option Scope → Bool
  | some s => s.local
  | none => true

def SReg.perLane : SReg → Bool
  | .lane | .srseed | .txstatus => true
  | _ => false
/-- The registers of R45 whose access is RW. -/
def SReg.writable : SReg → Bool
  | .fpflags | .amax | .srseed | .xpc | .xexm | .xaddr | .xctx => true
  | _ => false
def OOp.isU : OOp → Bool
  | .u _ => true
  | _ => false
def rdstOk (n : SReg) : Option RDst → Bool
  | none => true
  | some (.s _) => !n.perLane
  | some (.v _) => n.perLane
def BitOp.okAll {α : Type} (f : α → Bool) : BitOp α → Bool
  | .bfx p n => f p && f n
  | _ => true
def CvtTy.wideSrc : CvtTy → Bool
  | .toF t => t.wide
  | .fromF _ => false
def CvtTy.wideDst : CvtTy → Bool
  | .toF _ => false
  | .fromF t => t.wide
def retOk (w : Bool) : Option ARet → Bool
  | none => true
  | some r => r.ta != 0 && (!w || evenV r.d)

/-- The static limits on an instruction (R61 to R71); every device step is accepted. -/
def Instr.ok : Instr → Bool
  | .br h _ | .join h | .exit h | .trap h _ | .rte h | .yield h => h.e
  | .brc h c _ _ => h.e && c.noLit
  | .brd h _ _ _ | .brk h _ _ _ | .call h _ _ | .ret h _ | .jmpr h _ => h.e
  | .slih _ _ a _ => a.noLit
  | .rdsr _ d n => rdstOk n d
  | .wrsr _ n a => n.writable && a.noLit && (n == .srseed || a.isU)
  | .grow _ n => [48, 64, 80, 96, 112, 128].contains n.toNat
  | .vadd _ d a b _ ty _ | .vsub _ d a b _ ty _ | .vmul _ d a b _ ty _ => dstOkW ty.wide d && a.okW ty.wide && b.okW ty.wide
  | .vmulh _ d a b _ ty | .vand _ d a b _ ty | .vor _ d a b _ ty | .vxor _ d a b _ ty | .vshl _ d a b _ ty
  | .vshr _ d a b _ ty | .vsar _ d a b _ ty | .vmin _ d a b _ ty | .vmax _ d a b _ ty | .vabsd _ d a b _ ty
  | .vaddc _ d a b _ ty _ | .vsel _ d a b _ ty _ => dstOkW ty.wide d && a.okW ty.wide && b.okW ty.wide
  | .vmad _ d a b c _ ty _ => dstOkW ty.wide d && a.okW ty.wide && b.okW ty.wide && c.okW ty.wide
  | .vbit _ d a op _ ty => dstOkW ty.wide d && a.okW ty.wide && op.okAll (OOp.okW ty.wide)
  | .vcmp _ _ a b _ ty _ => a.okW ty.wide && b.okW ty.wide
  | .vmov _ d a _ ty => dstOkW ty.wide d && a.okW ty.wide
  | .vfcvt _ d a _ t _ => dstOkW t.wideDst d && a.okW t.wideSrc
  | .vshfl _ d a _ _ ty _ => dstOkW ty.wide d && a.okW ty.wide
  | .vbcast _ d a _ _ ty | .vcomp _ d a _ ty | .vexpd _ d a _ ty => dstOkW ty.wide d && a.okW ty.wide
  | .vred _ _ a _ ty _ => a.okW ty.wide
  | .vld _ ta d a _ _ f _ _ => ta != 0 && dstOkW f.wide (some d) && a.pairOk
  | .vldIndexed _ ta d a _ _ _ f _ _ => ta != 0 && dstOkW f.wide (some d) && a.pairOk
  | .vldb _ ta d _ _ _ f _ _ => ta != 0 && dstOkW f.wide (some d)
  | .vst _ d a _ _ f r _ _ => d.okW f.wide && a.pairOk && rndOk f r
  | .vstIndexed _ d a _ _ _ f r _ _ => d.okW f.wide && a.pairOk && rndOk f r
  | .vstAmax _ d a _ _ f r _ _ => d.okW f.wide && a.pairOk && rndOk f r && f.amaxOk
  | .vstAmaxIndexed _ d a _ _ _ f r _ _ => d.okW f.wide && a.pairOk && rndOk f r && f.amaxOk
  | .vlds _ ta d _ _ _ f acq => ta != 0 && dstOkW f.wide (some d) && scopeLocal acq
  | .vsts _ d _ _ _ f r rel => d.okW f.wide && rndOk f r && scopeLocal rel
  | .vldp _ ta d _ _ _ f _ => ta != 0 && dstOkW f.wide (some d) && f != .f4
  | .vstp _ d _ _ _ f r _ => d.okW f.wide && rndOk f r && f != .f4
  | .sld _ ta _ _ _ f _ _ => ta != 0 && f.scalarOk
  | .sst _ _ _ _ f _ _ => f.scalarOk
  | .pref _ a _ _ _ => a.pairOk
  | .atom _ r a b _ f _ _ => retOk f.wide r && a.pairOk && b.okW f.wide
  | .acas _ r a b c _ f _ => retOk f.wide r && a.pairOk && b.okW f.wide && c.okW f.wide
  | .afadd _ r a _ _ _ => retOk false r && a.pairOk
  | .fence _ _ sc sp | .bara _ _ _ sc sp | .barw _ _ _ sc sp | .bar _ _ sc sp => !sp || sc.local
  | .cpy _ a _ => 1 ≤ a.toNat && a.toNat ≤ 58
  | .egath _ _ _ _ _ _ seg => seg != 0
  | .mlda _ ta _ _ _ _ => ta != 0
  | .msta _ _ _ _ f r _ => f.mstaOk && rndOk f r
  | .txend h _ | .txabt h _ | .specend h => h.e
  | _ => true

/-- A well-formed instruction: the static limits hold and its literal operands are one word. -/
def Instr.wf (i : Instr) : Bool := i.ok && litsAgree i.lits

end Sys2Proof
end

