-- ==== Sys2Proof/Decode.lean ====
section
/-! DEFINITION. The decoder and the encoder of instruction words (R50 to R71): total on any word, a word that is no instruction
answered by the trap that R70 or R71 names for it. -/

namespace Sys2Proof

/-- Why a word is no instruction: the illegal-instruction trap (R70) or the illegal-operand trap (R71). -/
inductive DecErr where
  | ill
  | illop
  deriving DecidableEq, Repr, Inhabited

/-- The fields of an instruction word (R50 to R53): the header, D, A, and bits 31:0, which each format divides anew. -/
structure Raw where
  op : BitVec 8
  e : Bool
  k : Bool
  ta : BitVec 3
  tc : BitVec 3
  d : BitVec 8
  a : BitVec 8
  lo : BitVec 32
  deriving DecidableEq, Repr, Inhabited

def Raw.b (r : Raw) : BitVec 8 := r.lo.extractLsb' 24 8
def Raw.c (r : Raw) : BitVec 8 := r.lo.extractLsb' 16 8
def Raw.sel (r : Raw) : BitVec 3 := r.lo.extractLsb' 13 3
def Raw.f (r : Raw) : BitVec 13 := r.lo.extractLsb' 0 13
/-- OFF of format M (R52). -/
def Raw.off (r : Raw) : BitVec 16 := r.lo.extractLsb' 16 16
/-- TYPE, or FMT of the memory layout (R54, R57). -/
def Raw.ty (r : Raw) : BitVec 4 := r.lo.extractLsb' 9 4
/-- MODE, or SCOPE of the memory layout. -/
def Raw.mode (r : Raw) : BitVec 3 := r.lo.extractLsb' 6 3
def Raw.sub (r : Raw) : BitVec 6 := r.lo.extractLsb' 0 6
def Raw.ord (r : Raw) : BitVec 2 := r.lo.extractLsb' 4 2
def Raw.hint (r : Raw) : Bool := r.lo.getLsbD 3
def Raw.rnd (r : Raw) : BitVec 3 := r.lo.extractLsb' 0 3
/-- Bits 3:0 of the memory layout: AOP of the atomics. -/
def Raw.lo4 (r : Raw) : BitVec 4 := r.lo.extractLsb' 0 4
/-- OFS and MOD of format J (R53); COND is the field D. -/
def Raw.ofs (r : Raw) : BitVec 32 := r.a ++ (r.lo.extractLsb' 8 24)
def Raw.mod (r : Raw) : BitVec 8 := r.lo.extractLsb' 0 8
def Raw.hdr (r : Raw) : Hdr := ⟨r.e, r.tc⟩

/-- The word of a set of fields. -/
def Raw.toWord (r : Raw) : W64 :=
  r.op ++ BitVec.ofBool r.e ++ BitVec.ofBool r.k ++ r.ta ++ r.tc ++ r.d ++ r.a ++ r.lo

/-- The fields of a word. -/
def Raw.ofWord (w : W64) : Raw where
  op := w.extractLsb' 56 8
  e := w.getLsbD 55
  k := w.getLsbD 54
  ta := w.extractLsb' 51 3
  tc := w.extractLsb' 48 3
  d := w.extractLsb' 40 8
  a := w.extractLsb' 32 8
  lo := w.extractLsb' 0 32

-- operand codes (R59)

def UConst.code : UConst → BitVec 8
  | .zero => 0xD8 | .one => 0xD9 | .half => 0xDA | .two => 0xDB | .negOne => 0xDD | .allOnes => 0xDE

def UOp.code : UOp → BitVec 8
  | .s n => 0b10#2 ++ n
  | .win n => 0b11000#5 ++ n
  | .c n => 0xC8 + n.setWidth 8
  | .k x => x.code
  | .lit _ => 0xF0

def OOp.code : OOp → BitVec 8
  | .v n => 0b0#1 ++ n
  | .lane => 0xDC
  | .u x => x.code

def SDst.code : SDst → BitVec 8
  | .s n => 0b10#2 ++ n
  | .c n => 0xC8 + n.setWidth 8

def VReg.code (n : VReg) : BitVec 8 := 0b0#1 ++ n

def MOp.code : MOp → BitVec 8
  | .m n => 0b00000#5 ++ n
  | .exm => 8

/-- A constant code (R59). -/
def uconst? (x : BitVec 8) : Option UConst :=
  match x.toNat with
  | 0xD8 => some .zero | 0xD9 => some .one | 0xDA => some .half | 0xDB => some .two | 0xDD => some .negOne
  | 0xDE => some .allOnes | _ => none

/-- A source of kind u; `lit` is the literal word. -/
def parseU (lit : W64) (x : BitVec 8) : Except DecErr UOp :=
  if x.extractLsb' 6 2 = 0b10#2 then .ok (.s (x.extractLsb' 0 6))
  else if x.extractLsb' 3 5 = 0b11000#5 then .ok (.win (x.extractLsb' 0 3))
  else if 0xC8 ≤ x.toNat ∧ x.toNat ≤ 0xD7 then .ok (.c ((x - 0xC8).extractLsb' 0 4))
  else if x = 0xF0 then .ok (.lit lit)
  else match uconst? x with
    | some k => .ok (.k k)
    | none => .error .illop

/-- A source of kind u in formats I and J, which have no literal (R60). -/
def parseUn (x : BitVec 8) : Except DecErr UOp :=
  if x = 0xF0 then .error .illop else parseU 0 x

/-- A source of kind o. -/
def parseO (lit : W64) (x : BitVec 8) : Except DecErr OOp :=
  if x.getLsbD 7 = false then .ok (.v (x.extractLsb' 0 7))
  else if x = 0xDC then .ok .lane
  else (parseU lit x).map .u

def pairNeeded (w : Bool) (x : OOp) : Except DecErr OOp := if x.okW w then .ok x else .error .illop

/-- A source of kind o read at width 64 when `w` holds: a vector register is then the even one of a pair (R32). -/
def parseOw (w : Bool) (lit : W64) (x : BitVec 8) : Except DecErr OOp := (parseO lit x).bind (pairNeeded w)

/-- A vector destination of width 64 when `w` holds. -/
def parseV (w : Bool) (x : BitVec 8) : Except DecErr VReg :=
  if x.getLsbD 7 = false ∧ (w = false ∨ x.getLsbD 0 = false) then .ok (x.extractLsb' 0 7) else .error .illop

/-- A destination of kind s (R34). -/
def parseSD (x : BitVec 8) : Except DecErr SDst :=
  if x.extractLsb' 6 2 = 0b10#2 then .ok (.s (x.extractLsb' 0 6))
  else if 0xC8 ≤ x.toNat ∧ x.toNat ≤ 0xD7 then .ok (.c ((x - 0xC8).extractLsb' 0 4))
  else .error .illop

/-- s0 to s63 only, as SLD, SQPUSH, SQPOP and CPY take them (R255, R349). -/
def parseS (x : BitVec 8) : Except DecErr (BitVec 6) :=
  if x.extractLsb' 6 2 = 0b10#2 then .ok (x.extractLsb' 0 6) else .error .illop

/-- A mask field of a mask instruction; its upper bits have been checked (R36, R186). -/
def parseM (x : BitVec 8) : Except DecErr MOp :=
  if x.toNat < 8 then .ok (.m (x.extractLsb' 0 3)) else if x = 8 then .ok .exm else .error .illop

/-- A mask number 0 to 7 (kind m); its upper bits have been checked. -/
def parseM7 (x : BitVec 8) : Except DecErr (BitVec 3) :=
  if x.toNat < 8 then .ok (x.extractLsb' 0 3) else .error .illop

/-- The destination of an instruction that produces a value: none when K = 1 (R69). -/
def parseDst {α : Type} (r : Raw) (p : BitVec 8 → Except DecErr α) : Except DecErr (Option α) :=
  if r.k then .ok none else (p r.d).map some

-- enumerated fields: none is a value that R70 makes illegal

def vty? (x : BitVec 4) : Option VTy :=
  match x.toNat with | 0 => some .i32 | 1 => some .n32 | 2 => some .i64 | 3 => some .n64 | _ => none
def VTy.code : VTy → BitVec 4 | .i32 => 0 | .n32 => 1 | .i64 => 2 | .n64 => 3
def sty? (x : BitVec 4) : Option STy := match x.toNat with | 2 => some .i64 | 3 => some .n64 | _ => none
def STy.code : STy → BitVec 4 | .i64 => 2 | .n64 => 3
def nty? (x : BitVec 4) : Option NTy := match x.toNat with | 1 => some .n32 | 3 => some .n64 | _ => none
def NTy.code : NTy → BitVec 4 | .n32 => 1 | .n64 => 3
def cond? (x : BitVec 6) : Option Cond :=
  match x.toNat with
  | 0 => some .eq | 1 => some .ne | 2 => some .lt | 3 => some .le | 4 => some .gt | 5 => some .ge | _ => none
def Cond.code : Cond → BitVec 6 | .eq => 0 | .ne => 1 | .lt => 2 | .le => 3 | .gt => 4 | .ge => 5
def fcond? (x : BitVec 6) : Option FCond :=
  match x.toNat with
  | 0 => some .eq | 1 => some .ne | 2 => some .lt | 3 => some .le | 4 => some .gt | 5 => some .ge | 6 => some .un
  | 7 => some .or | _ => none
def FCond.code : FCond → BitVec 6
  | .eq => 0 | .ne => 1 | .lt => 2 | .le => 3 | .gt => 4 | .ge => 5 | .un => 6 | .or => 7
def brtest? (x : BitVec 8) : Option BrTest :=
  match x.toNat with
  | 0 => some .nz | 1 => some .z | 2 => some .ltz | 3 => some .gez | 4 => some .gtz | 5 => some .lez | _ => none
def BrTest.code : BrTest → BitVec 8 | .nz => 0 | .z => 1 | .ltz => 2 | .gez => 3 | .gtz => 4 | .lez => 5
def rm? (x : BitVec 3) : Option RM :=
  match x.toNat with | 0 => some .rn | 1 => some .rz | 2 => some .ru | 3 => some .rd | _ => none
def RM.code : RM → BitVec 3 | .rn => 0 | .rz => 1 | .ru => 2 | .rd => 3
def srnd? (x : BitVec 3) : Option SRnd := if x = 4 then some .sr else (rm? x).map .det
def SRnd.code : SRnd → BitVec 3 | .det m => m.code | .sr => 4
def sat? (x : BitVec 3) : Option Bool := if x = 0 then some false else if x = 1 then some true else none
def satCode (b : Bool) : BitVec 3 := if b then 1 else 0
def mfmt? (x : BitVec 4) : Option MFmt :=
  match x.toNat with
  | 0 => some .n8 | 1 => some .n16 | 2 => some .n32 | 3 => some .n64 | 4 => some .i8 | 5 => some .f16 | 6 => some .bf16
  | 7 => some .f8e4 | 8 => some .f8e5 | 9 => some .f4 | 10 => some .e8 | _ => none
def MFmt.code : MFmt → BitVec 4
  | .n8 => 0 | .n16 => 1 | .n32 => 2 | .n64 => 3 | .i8 => 4 | .f16 => 5 | .bf16 => 6 | .f8e4 => 7 | .f8e5 => 8
  | .f4 => 9 | .e8 => 10
def scope? (x : BitVec 3) : Option Scope :=
  match x.toNat with
  | 1 => some .gp | 2 => some .tm | 3 => some .cl | 4 => some .die | 5 => some .dev | 6 => some .sys | _ => none
def Scope.code : Scope → BitVec 3 | .gp => 1 | .tm => 2 | .cl => 3 | .die => 4 | .dev => 5 | .sys => 6
def afmt? (x : BitVec 4) : Option AFmt :=
  match x.toNat with | 2 => some .n32 | 3 => some .n64 | 11 => some .i32 | 12 => some .i64 | _ => none
def AFmt.code : AFmt → BitVec 4 | .n32 => 2 | .n64 => 3 | .i32 => 11 | .i64 => 12
def aop? (x : BitVec 4) : Option AOp :=
  match x.toNat with
  | 0 => some .add | 1 => some .sub | 2 => some .and | 3 => some .or | 4 => some .xor | 5 => some .min | 6 => some .max
  | 7 => some .xchg | 8 => some .inc | _ => none
def AOp.code : AOp → BitVec 4
  | .add => 0 | .sub => 1 | .and => 2 | .or => 3 | .xor => 4 | .min => 5 | .max => 6 | .xchg => 7 | .inc => 8
def AOrd.ordCode : AOrd → BitVec 2 | .plain => 0 | .acq _ => 1 | .rel _ => 2 | .ar _ => 3
def AOrd.scCode : AOrd → BitVec 3 | .plain => 0 | .acq s => s.code | .rel s => s.code | .ar s => s.code
def aord? (o : BitVec 2) (s : BitVec 3) : Option AOrd :=
  match o.toNat with
  | 0 => if s = 0 then some .plain else none
  | 1 => (scope? s).map .acq
  | 2 => (scope? s).map .rel
  | _ => (scope? s).map .ar
/-- ORD and SCOPE of a load: plain, or acquire at a scope (R57, R242). -/
def acq? (o : BitVec 2) (s : BitVec 3) : Option (Option Scope) :=
  if o = 0 then (if s = 0 then some none else none) else if o = 1 then (scope? s).map some else none
/-- ORD and SCOPE of a store: plain, or release at a scope. -/
def rel? (o : BitVec 2) (s : BitVec 3) : Option (Option Scope) :=
  if o = 0 then (if s = 0 then some none else none) else if o = 2 then (scope? s).map some else none
def ordCode (c : BitVec 2) : Option Scope → BitVec 2 | none => 0 | some _ => c
def scopeCode : Option Scope → BitVec 3 | none => 0 | some s => s.code
def ford? (x : BitVec 2) : Option FOrd :=
  match x.toNat with | 1 => some .acq | 2 => some .rel | 3 => some .ar | _ => none
def FOrd.code : FOrd → BitVec 2 | .acq => 1 | .rel => 2 | .ar => 3
def sreg? (x : BitVec 8) : Option SReg :=
  match x.toNat with
  | 0x00 => some .lane | 0x08 => some .fpflags | 0x09 => some .amax | 0x0A => some .budget | 0x0B => some .srseed
  | 0x0C => some .wmdepth | 0x0D => some .privbase | 0x10 => some .cause | 0x11 => some .faultmask | 0x12 => some .txstatus
  | 0x18 => some .xpc | 0x19 => some .xexm | 0x1A => some .xaddr | 0x1B => some .xctx | 0x20 => some .cycles
  | 0x21 => some .retired | 0x28 => some .tier | 0x29 => some .partid | _ => none
def SReg.code : SReg → BitVec 8
  | .lane => 0x00 | .fpflags => 0x08 | .amax => 0x09 | .budget => 0x0A | .srseed => 0x0B | .wmdepth => 0x0C
  | .privbase => 0x0D | .cause => 0x10 | .faultmask => 0x11 | .txstatus => 0x12 | .xpc => 0x18 | .xexm => 0x19
  | .xaddr => 0x1A | .xctx => 0x1B | .cycles => 0x20 | .retired => 0x21 | .tier => 0x28 | .partid => 0x29
def shfl? (x : BitVec 6) : Option ShflForm :=
  match x.toNat with | 0 => some .idx | 1 => some .xor | 2 => some .up | 3 => some .down | _ => none
def ShflForm.code : ShflForm → BitVec 6 | .idx => 0 | .xor => 1 | .up => 2 | .down => 3
def red? (x : BitVec 6) : Option RedOp :=
  match x.toNat with
  | 0 => some .add | 1 => some .min | 2 => some .max | 3 => some .and | 4 => some .or | 5 => some .xor | _ => none
def RedOp.code : RedOp → BitVec 6 | .add => 0 | .min => 1 | .max => 2 | .and => 3 | .or => 4 | .xor => 5
def fred? (x : BitVec 5) : Option FRedOp :=
  match x.toNat with | 0 => some .add | 1 => some .min | 2 => some .max | _ => none
def FRedOp.code : FRedOp → BitVec 5 | .add => 0 | .min => 1 | .max => 2
def scanty? (x : BitVec 4) : Option ScanTy :=
  match x.toNat with | 0 => some .i32 | 1 => some .n32 | 6 => some .f32 | _ => none
def ScanTy.code : ScanTy → BitVec 4 | .i32 => 0 | .n32 => 1 | .f32 => 6
/-- TYPE and SUB of VFCVT (R221). -/
def cvt? (t : BitVec 4) (sub : BitVec 6) : Option CvtTy :=
  if t = 6 then (if sub.extractLsb' 4 2 = 0#2 then (vty? (sub.extractLsb' 0 4)).map .toF else none)
  else if sub = 6 then (vty? t).map .fromF else none
def CvtTy.tyCode : CvtTy → BitVec 4 | .toF _ => 6 | .fromF t => t.code
def CvtTy.subCode : CvtTy → BitVec 6 | .toF t => 0#2 ++ t.code | .fromF _ => 6
def xform? (x : BitVec 6) : Option Xform :=
  match x.toNat with
  | 0 => some .lin | 1 => some .t2 | 2 => some .t4 | 3 => some .pad | 4 => some .gath | 5 => some .rag | 6 => some .exp
  | _ => none
def Xform.code : Xform → BitVec 6 | .lin => 0 | .t2 => 1 | .t4 => 2 | .pad => 3 | .gath => 4 | .rag => 5 | .exp => 6
def strm? (x : BitVec 6) : Option Strm :=
  match x.toNat with | 0 => some .copy | 1 => some .matrix | 2 => some .gather | _ => none
def Strm.code : Strm → BitVec 6 | .copy => 0 | .matrix => 1 | .gather => 2
def mmaty? (x : BitVec 4) : Option MmaTy :=
  match x.toNat with
  | 4 => some .i8 | 7 => some .f16 | 8 => some .bf16 | 9 => some .f8e4 | 10 => some .f8e5 | 11 => some .f4 | _ => none
def MmaTy.code : MmaTy → BitVec 4 | .i8 => 4 | .f16 => 7 | .bf16 => 8 | .f8e4 => 9 | .f8e5 => 10 | .f4 => 11

/-- Illegal instruction unless `b` (R70). -/
def need (b : Bool) : Except DecErr Unit := if b then .ok () else .error .ill
/-- The value of an enumerated field, or illegal instruction. -/
def field {α : Type} : Option α → Except DecErr α
  | some x => .ok x
  | none => .error .ill

/-- K and TA of an instruction that produces a window value and is not asynchronous (R69, R70). -/
def Raw.val (r : Raw) : Bool := r.ta == 0 && (!r.k || r.d == 0)
/-- K and TA of an instruction that produces no value and is not asynchronous. -/
def Raw.plain (r : Raw) : Bool := r.ta == 0 && !r.k
/-- K and TA of an asynchronous producer. -/
def Raw.async (r : Raw) : Bool := r.ta != 0 && !r.k
def Raw.b0 (r : Raw) : Bool := r.b == 0
def Raw.c0 (r : Raw) : Bool := r.c == 0
def hi4z (x : BitVec 8) : Bool := x.extractLsb' 4 4 == 0#4
def hi2z (x : BitVec 8) : Bool := x.extractLsb' 6 2 == 0#2
def hi3z (x : BitVec 8) : Bool := x.extractLsb' 5 3 == 0#3
/-- SUB 5:4 zero and SUB 3 zero: a mask number 0 to 7 in SUB 3:0, any other being illegal (R208, R212). -/
def subMask? (x : BitVec 6) : Option (BitVec 3) :=
  if x.extractLsb' 3 3 = 0#3 then some (x.extractLsb' 0 3) else none
def subBfx (x : BitVec 6) : Bool := x == 4

/-- Control and system, 0x01 to 0x0E. -/
def decodeCtl (r : Raw) (lit : W64) : Except DecErr Instr :=
  match r.op.toNat with
  | 0x01 => do need (r.plain && r.d == 0 && r.a == 0 && r.lo == 0); .ok (.nop r.hdr)
  | 0x02 => do need (r.plain && r.e && r.d == 0 && r.mod == 0); .ok (.br r.hdr r.ofs)
  | 0x03 => do
    let t ← field (brtest? r.mod); need (r.plain && r.e)
    let c ← parseUn r.d; .ok (.brc r.hdr c t r.ofs)
  | 0x04 => do
    need (r.plain && r.e && hi4z r.d && r.mod.extractLsb' 1 7 == 0#7)
    let c ← parseM7 r.d; .ok (.brd r.hdr c (r.mod.getLsbD 0) r.ofs)
  | 0x05 => do need (r.plain && r.e && r.d == 0 && r.a == 0 && r.lo == 0); .ok (.join r.hdr)
  | 0x06 => do need (r.plain && r.d == 0 && r.mod == 0); .ok (.loop r.hdr r.ofs)
  | 0x07 => do
    need (r.plain && r.e && hi4z r.d && r.mod.extractLsb' 1 7 == 0#7)
    let c ← parseM7 r.d; .ok (.brk r.hdr c (r.mod.getLsbD 0) r.ofs)
  | 0x08 => do need (r.plain && r.e && r.mod == 0); let d ← parseSD r.d; .ok (.call r.hdr d r.ofs)
  | 0x09 => do need (r.plain && r.e && r.d == 0 && r.lo == 0); let a ← parseU lit r.a; .ok (.ret r.hdr a)
  | 0x0A => do need (r.plain && r.e && r.d == 0 && r.lo == 0); let a ← parseU lit r.a; .ok (.jmpr r.hdr a)
  | 0x0B => do need (r.plain && r.e && r.d == 0 && r.a == 0 && r.lo == 0); .ok (.exit r.hdr)
  | 0x0C => do
    need (r.plain && r.e && r.d == 0 && r.a == 0 && r.off == 0); .ok (.trap r.hdr (r.lo.extractLsb' 0 16))
  | 0x0D => do need (r.plain && r.e && r.d == 0 && r.a == 0 && r.lo == 0); .ok (.rte r.hdr)
  | 0x0E => do need (r.plain && r.e && r.d == 0 && r.a == 0 && r.lo == 0); .ok (.yield r.hdr)
  | _ => .error .ill

/-- Whether bits 15:13 and bits 8:0 are zero: SEL, MODE and SUB. -/
def Raw.noMod (r : Raw) : Bool := r.sel == 0 && r.mode == 0 && r.sub == 0

def decodeS3 (r : Raw) (lit : W64) (mk : Option SDst → UOp → UOp → STy → Instr) : Except DecErr Instr := do
  let t ← field (sty? r.ty); need (r.val && r.c0 && r.noMod)
  let d ← parseDst r parseSD; let a ← parseU lit r.a; let b ← parseU lit r.b; .ok (mk d a b t)

def decodeS3Sat (r : Raw) (lit : W64) (mk : Option SDst → UOp → UOp → STy → Bool → Instr) : Except DecErr Instr := do
  let t ← field (sty? r.ty); let s ← field (sat? r.mode); need (r.val && r.c0 && r.sel == 0 && r.sub == 0)
  let d ← parseDst r parseSD; let a ← parseU lit r.a; let b ← parseU lit r.b; .ok (mk d a b t s)

/-- SUB, B and C of SBIT and VBIT (R178, R210): the operand fields are read by .BFX alone and zero otherwise. -/
def bitop? {α : Type} (r : Raw) (p : BitVec 8 → Except DecErr α) : Except DecErr (BitOp α) :=
  if r.sub = 4 then do let b ← p r.b; let c ← p r.c; .ok (.bfx b c)
  else .ok (if r.sub = 0 then .popc else if r.sub = 1 then .clz else if r.sub = 2 then .ctz else .brev)
def bitopOk (r : Raw) : Bool := r.sub == 4 || (r.sub.toNat < 4 && r.b0 && r.c0)

/-- Scalar, 0x10 to 0x26. -/
def decodeScalar (r : Raw) (lit : W64) : Except DecErr Instr :=
  match r.op.toNat with
  | 0x10 => decodeS3Sat r lit (.sadd r.hdr)
  | 0x11 => decodeS3Sat r lit (.ssub r.hdr)
  | 0x12 => decodeS3Sat r lit (.smul r.hdr)
  | 0x13 => decodeS3 r lit (.smulh r.hdr)
  | 0x14 => decodeS3 r lit (.sand r.hdr)
  | 0x15 => decodeS3 r lit (.sor r.hdr)
  | 0x16 => decodeS3 r lit (.sxor r.hdr)
  | 0x17 => decodeS3 r lit (.sshl r.hdr)
  | 0x18 => decodeS3 r lit (.sshr r.hdr)
  | 0x19 => decodeS3 r lit (.ssar r.hdr)
  | 0x1A => decodeS3 r lit (.smin r.hdr)
  | 0x1B => decodeS3 r lit (.smax r.hdr)
  | 0x1C => do
    let t ← field (sty? r.ty); let c ← field (cond? r.sub); need (r.val && r.c0 && r.sel == 0 && r.mode == 0)
    let d ← parseDst r parseSD; let a ← parseU lit r.a; let b ← parseU lit r.b; .ok (.scmp r.hdr d a b t c)
  | 0x1D => do
    let t ← field (sty? r.ty); need (r.val && r.noMod)
    let d ← parseDst r parseSD; let a ← parseU lit r.a; let b ← parseU lit r.b; let c ← parseU lit r.c
    .ok (.ssel r.hdr d a b c t)
  | 0x1E => do
    let t ← field (sty? r.ty); need (r.val && r.b0 && r.c0 && r.noMod)
    let d ← parseDst r parseSD; let a ← parseU lit r.a; .ok (.smov r.hdr d a t)
  | 0x1F => do
    let t ← field (sty? r.ty); need (r.val && r.sel == 0 && r.mode == 0 && bitopOk r)
    let d ← parseDst r parseSD; let a ← parseU lit r.a; let o ← bitop? r (parseU lit); .ok (.sbit r.hdr d a o t)
  | 0x20 => do need (r.val && r.a == 0); let d ← parseDst r parseSD; .ok (.sli r.hdr d r.lo)
  | 0x21 => do need r.val; let d ← parseDst r parseSD; let a ← parseUn r.a; .ok (.slih r.hdr d a r.lo)
  | 0x22 => do
    need (r.val && r.a == 0 && r.lo.extractLsb' 8 24 == 0#24)
    let n ← field (sreg? (r.lo.extractLsb' 0 8))
    let d ← parseDst r (fun x => if n.perLane then (parseV false x).map .v else (parseSD x).map .s)
    .ok (.rdsr r.hdr d n)
  | 0x23 => do
    need (r.plain && r.d == 0 && r.lo.extractLsb' 8 24 == 0#24)
    let n ← field (sreg? (r.lo.extractLsb' 0 8)); need n.writable
    let a ← if r.a = 0xF0 then .error .illop else if n = .srseed then parseO 0 r.a else (parseU 0 r.a).map .u
    .ok (.wrsr r.hdr n a)
  | 0x24 => do
    need (r.plain && r.d == 0 && r.a == 0 && r.lo.extractLsb' 8 24 == 0#24 &&
      [48, 64, 80, 96, 112, 128].contains (r.lo.extractLsb' 0 8).toNat)
    .ok (.grow r.hdr (r.lo.extractLsb' 0 8))
  | 0x25 => do
    need (r.plain && r.d == 0 && r.a == 0 && r.lo.extractLsb' 8 24 == 0#24 && r.lo.getLsbD 0 == false)
    .ok (.twait r.hdr (r.lo.extractLsb' 1 7))
  | 0x26 => do
    need (r.plain && r.d == 0 && r.a == 0 && r.off == 0); .ok (.clrc r.hdr (r.lo.extractLsb' 0 16))
  | _ => .error .ill

/-- Mask, 0x28 to 0x2E. -/
def decodeMask (r : Raw) (lit : W64) : Except DecErr Instr :=
  match r.op.toNat with
  | 0x28 => do
    need (r.plain && hi4z r.d && hi4z r.a && r.lo == 0)
    let d ← parseM r.d; let a ← parseM r.a; .ok (.mmov r.hdr d a)
  | 0x29 => do
    need (r.plain && hi4z r.d && hi4z r.a && hi4z r.b && r.c0 && r.sel == 0 && r.ty == 0 && r.mode == 0 &&
      r.sub.extractLsb' 4 2 == 0#2)
    let d ← parseM r.d; let a ← parseM r.a; let b ← parseM r.b; .ok (.mlog r.hdr d a b (r.sub.extractLsb' 0 4))
  | 0x2A => do need (r.val && hi4z r.a && r.lo == 0); let d ← parseDst r parseSD; let a ← parseM r.a; .ok (.mpopc r.hdr d a)
  | 0x2B => do need (r.val && hi4z r.a && r.lo == 0); let d ← parseDst r parseSD; let a ← parseM r.a; .ok (.mfirst r.hdr d a)
  | 0x2C => do need (r.val && hi4z r.a && r.lo == 0); let d ← parseDst r parseSD; let a ← parseM r.a; .ok (.mrd r.hdr d a)
  | 0x2D => do need (r.plain && hi4z r.d && r.lo == 0); let d ← parseM r.d; let a ← parseU lit r.a; .ok (.mwr r.hdr d a)
  | 0x2E => do
    need (r.val && hi4z r.a && r.c0 && r.f == 0 && r.sel == 0)
    let d ← parseDst r parseSD; let a ← parseM r.a; let b ← parseU lit r.b; .ok (.mtest r.hdr d a b)
  | _ => .error .ill

def decodeV3 (r : Raw) (lit : W64) (mk : Option VReg → OOp → OOp → BitVec 3 → VTy → Instr) : Except DecErr Instr := do
  let t ← field (vty? r.ty); need (r.val && r.c0 && r.mode == 0 && r.sub == 0)
  let d ← parseDst r (parseV t.wide); let a ← parseOw t.wide lit r.a; let b ← parseOw t.wide lit r.b
  .ok (mk d a b r.sel t)

def decodeV3Sat (r : Raw) (lit : W64) (mk : Option VReg → OOp → OOp → BitVec 3 → VTy → Bool → Instr) :
    Except DecErr Instr := do
  let t ← field (vty? r.ty); let s ← field (sat? r.mode); need (r.val && r.c0 && r.sub == 0)
  let d ← parseDst r (parseV t.wide); let a ← parseOw t.wide lit r.a; let b ← parseOw t.wide lit r.b
  .ok (mk d a b r.sel t s)

/-- Vector integer, 0x30 to 0x45. -/
def decodeVec (r : Raw) (lit : W64) : Except DecErr Instr :=
  match r.op.toNat with
  | 0x30 => decodeV3Sat r lit (.vadd r.hdr)
  | 0x31 => decodeV3Sat r lit (.vsub r.hdr)
  | 0x32 => decodeV3Sat r lit (.vmul r.hdr)
  | 0x33 => decodeV3 r lit (.vmulh r.hdr)
  | 0x34 => do
    let t ← field (vty? r.ty); let s ← field (sat? r.mode); need (r.val && r.sub == 0)
    let d ← parseDst r (parseV t.wide); let a ← parseOw t.wide lit r.a; let b ← parseOw t.wide lit r.b
    let c ← parseOw t.wide lit r.c; .ok (.vmad r.hdr d a b c r.sel t s)
  | 0x35 => do
    let t ← field (vty? r.ty); let k ← field (subMask? r.sub); need (r.val && r.c0 && r.mode == 0)
    let d ← parseDst r (parseV t.wide); let a ← parseOw t.wide lit r.a; let b ← parseOw t.wide lit r.b
    .ok (.vaddc r.hdr d a b r.sel t k)
  | 0x36 => decodeV3 r lit (.vand r.hdr)
  | 0x37 => decodeV3 r lit (.vor r.hdr)
  | 0x38 => decodeV3 r lit (.vxor r.hdr)
  | 0x39 => decodeV3 r lit (.vshl r.hdr)
  | 0x3A => decodeV3 r lit (.vshr r.hdr)
  | 0x3B => decodeV3 r lit (.vsar r.hdr)
  | 0x3C => decodeV3 r lit (.vmin r.hdr)
  | 0x3D => decodeV3 r lit (.vmax r.hdr)
  | 0x3E => decodeV3 r lit (.vabsd r.hdr)
  | 0x3F => do
    let t ← field (vty? r.ty); need (r.val && r.mode == 0 && bitopOk r)
    let d ← parseDst r (parseV t.wide); let a ← parseOw t.wide lit r.a; let o ← bitop? r (parseOw t.wide lit)
    .ok (.vbit r.hdr d a o r.sel t)
  | 0x40 => do
    let t ← field (vty? r.ty); let c ← field (cond? r.sub); need (r.plain && hi4z r.d && r.c0 && r.mode == 0)
    let d ← parseM7 r.d; let a ← parseOw t.wide lit r.a; let b ← parseOw t.wide lit r.b
    .ok (.vcmp r.hdr d a b r.sel t c)
  | 0x41 => do
    let t ← field (vty? r.ty); let k ← field (subMask? r.sub); need (r.val && r.c0 && r.mode == 0)
    let d ← parseDst r (parseV t.wide); let a ← parseOw t.wide lit r.a; let b ← parseOw t.wide lit r.b
    .ok (.vsel r.hdr d a b r.sel t k)
  | 0x42 => do
    let t ← field (vty? r.ty); need (r.val && r.b0 && r.c0 && r.mode == 0 && r.sub == 0)
    let d ← parseDst r (parseV t.wide); let a ← parseOw t.wide lit r.a; .ok (.vmov r.hdr d a r.sel t)
  | 0x43 => do need (r.val && r.a == 0); let d ← parseDst r (parseV false); .ok (.vli r.hdr d r.lo)
  | 0x44 => do
    let t ← field (vty? r.ty); need (r.val && !t.wide && r.c0 && r.mode == 0 && r.sub == 0)
    let d ← parseDst r (parseV false); let a ← parseO lit r.a; let b ← parseO lit r.b
    .ok (.vidx r.hdr d a b r.sel t.signed)
  | 0x45 => do
    need (r.val && r.ty == 1 && r.c0 && r.mode == 0 && r.sub == 0)
    let d ← parseDst r (parseV false); let a ← parseO lit r.a; let b ← parseO lit r.b; .ok (.vpermb r.hdr d a b r.sel)
  | _ => .error .ill

def decodeF3 (r : Raw) (lit : W64) (mk : Option VReg → OOp → OOp → BitVec 3 → RM → Instr) : Except DecErr Instr := do
  let m ← field (rm? r.mode); need (r.val && r.ty == 6 && r.c0 && r.sub == 0)
  let d ← parseDst r (parseV false); let a ← parseO lit r.a; let b ← parseO lit r.b; .ok (mk d a b r.sel m)

def decodeF2 (r : Raw) (lit : W64) (mk : Option VReg → OOp → BitVec 3 → Instr) : Except DecErr Instr := do
  need (r.val && r.ty == 6 && r.b0 && r.c0 && r.mode == 0 && r.sub == 0)
  let d ← parseDst r (parseV false); let a ← parseO lit r.a; .ok (mk d a r.sel)

/-- Vector floating point and special functions, 0x50 to 0x67. -/
def decodeFp (r : Raw) (lit : W64) : Except DecErr Instr :=
  match r.op.toNat with
  | 0x50 => decodeF3 r lit (.vfadd r.hdr)
  | 0x51 => decodeF3 r lit (.vfsub r.hdr)
  | 0x52 => decodeF3 r lit (.vfmul r.hdr)
  | 0x53 => do
    let m ← field (rm? r.mode); need (r.val && r.ty == 6 && r.sub == 0)
    let d ← parseDst r (parseV false); let a ← parseO lit r.a; let b ← parseO lit r.b; let c ← parseO lit r.c
    .ok (.vfma r.hdr d a b c r.sel m)
  | 0x54 => do
    need (r.val && r.ty == 6 && r.c0 && r.mode == 0 && r.sub == 0)
    let d ← parseDst r (parseV false); let a ← parseO lit r.a; let b ← parseO lit r.b; .ok (.vfmin r.hdr d a b r.sel)
  | 0x55 => do
    need (r.val && r.ty == 6 && r.c0 && r.mode == 0 && r.sub == 0)
    let d ← parseDst r (parseV false); let a ← parseO lit r.a; let b ← parseO lit r.b; .ok (.vfmax r.hdr d a b r.sel)
  | 0x56 => do
    let c ← field (fcond? r.sub); need (r.plain && r.ty == 6 && hi4z r.d && r.c0 && r.mode == 0)
    let d ← parseM7 r.d; let a ← parseO lit r.a; let b ← parseO lit r.b; .ok (.vfcmp r.hdr d a b r.sel c)
  | 0x57 => decodeF2 r lit (.vfclass r.hdr)
  | 0x58 => do
    let m ← field (rm? r.mode); need (r.val && r.ty == 6 && r.b0 && r.c0 && r.sub == 0)
    let d ← parseDst r (parseV false); let a ← parseO lit r.a; .ok (.vfrnd r.hdr d a r.sel m)
  | 0x59 => do
    let m ← field (rm? r.mode); let t ← field (cvt? r.ty r.sub); need (r.val && r.b0 && r.c0)
    let d ← parseDst r (parseV t.wideDst); let a ← parseOw t.wideSrc lit r.a; .ok (.vfcvt r.hdr d a r.sel t m)
  | 0x60 => decodeF2 r lit (.vrcp r.hdr)
  | 0x61 => decodeF2 r lit (.vrsq r.hdr)
  | 0x62 => decodeF2 r lit (.vsqrt r.hdr)
  | 0x63 => decodeF2 r lit (.vexp2 r.hdr)
  | 0x64 => decodeF2 r lit (.vlog2 r.hdr)
  | 0x65 => decodeF2 r lit (.vsinpi r.hdr)
  | 0x66 => decodeF2 r lit (.vcospi r.hdr)
  | 0x67 => decodeF2 r lit (.vtanh r.hdr)
  | _ => .error .ill

/-- Cross-lane, 0x70 to 0x76. -/
def decodeCross (r : Raw) (lit : W64) : Except DecErr Instr :=
  match r.op.toNat with
  | 0x70 => do
    let t ← field (nty? r.ty); let f ← field (shfl? r.sub); need (r.val && r.c0 && r.mode == 0)
    let d ← parseDst r (parseV t.wide); let a ← parseOw t.wide lit r.a; let b ← parseO lit r.b
    .ok (.vshfl r.hdr d a b r.sel t f)
  | 0x71 => do
    let t ← field (nty? r.ty); need (r.val && r.c0 && r.mode == 0 && r.sub == 0)
    let d ← parseDst r (parseV t.wide); let a ← parseOw t.wide lit r.a; let b ← parseU lit r.b
    .ok (.vbcast r.hdr d a b r.sel t)
  | 0x72 => do
    let t ← field (vty? r.ty); let o ← field (red? r.sub); need (r.val && r.b0 && r.c0 && r.mode == 0)
    let d ← parseDst r parseSD; let a ← parseOw t.wide lit r.a; .ok (.vred r.hdr d a r.sel t o)
  | 0x73 => do
    let o ← field (if r.sub.getLsbD 5 then none else fred? (r.sub.extractLsb' 0 5))
    need (r.val && r.ty == 6 && r.b0 && r.c0 && r.mode == 0)
    let d ← parseDst r parseSD; let a ← parseO lit r.a; .ok (.vredf r.hdr d a r.sel o)
  | 0x74 => do
    let t ← field (scanty? r.ty); let o ← field (fred? (r.sub.extractLsb' 0 5))
    need (r.val && r.b0 && r.c0 && r.mode == 0)
    let d ← parseDst r (parseV false); let a ← parseO lit r.a; .ok (.vscan r.hdr d a r.sel t o (r.sub.getLsbD 5))
  | 0x75 => do
    let t ← field (nty? r.ty); need (r.val && r.b0 && r.c0 && r.mode == 0 && r.sub == 0)
    let d ← parseDst r (parseV t.wide); let a ← parseOw t.wide lit r.a; .ok (.vcomp r.hdr d a r.sel t)
  | 0x76 => do
    let t ← field (nty? r.ty); need (r.val && r.b0 && r.c0 && r.mode == 0 && r.sub == 0)
    let d ← parseDst r (parseV t.wide); let a ← parseOw t.wide lit r.a; .ok (.vexpd r.hdr d a r.sel t)
  | _ => .error .ill

/-- A store's format with its rounding (R57, R242). -/
def storeFmt? (r : Raw) : Option (MFmt × SRnd) :=
  match mfmt? r.ty, srnd? r.rnd with
  | some f, some x => if rndOk f x then some (f, x) else none
  | _, _ => none

/-- ALL of CWB, CINV and ICINV: 0 with the address fields, 1 with A and OFF zero (R242). -/
def parseAddr (r : Raw) (lit : W64) : Except DecErr (Option UAddr) :=
  if r.lo.getLsbD 0 then .ok none else do let a ← parseU lit r.a; .ok (some ⟨a, r.off⟩)
def addrOk (r : Raw) : Bool :=
  r.plain && r.d == 0 && r.sel == 0 && r.ty == 2 && r.ord == 0 && !r.hint && r.lo.extractLsb' 1 2 == 0#2 &&
    (!r.lo.getLsbD 0 || (r.a == 0 && r.off == 0))

/-- Memory, 0x80 to 0x90. -/
def decodeMem (r : Raw) (lit : W64) : Except DecErr Instr :=
  match r.op.toNat with
  | 0x80 => do
    let f ← field (mfmt? r.ty); let o ← field (acq? r.ord r.mode); need (r.async && r.rnd == 0)
    let d ← parseV f.wide r.d; let a ← parseOw true lit r.a; .ok (.vld r.hdr r.ta d a r.off r.sel f o r.hint)
  | 0x81 => do
    let f ← field (mfmt? r.ty); let o ← field (acq? r.ord r.mode); need (r.async && r.rnd == 0)
    let d ← parseV f.wide r.d; let a ← parseOw true lit r.a; let b ← parseO lit r.b
    .ok (.vldIndexed r.hdr r.ta d a b r.c r.sel f o r.hint)
  | 0x82 => do
    let f ← field (storeFmt? r); let o ← field (rel? r.ord r.mode); need r.plain
    let d ← parseOw f.1.wide lit r.d; let a ← parseOw true lit r.a; .ok (.vst r.hdr d a r.off r.sel f.1 f.2 o r.hint)
  | 0x83 => do
    let f ← field (storeFmt? r); let o ← field (rel? r.ord r.mode); need r.plain
    let d ← parseOw f.1.wide lit r.d; let a ← parseOw true lit r.a; let b ← parseO lit r.b
    .ok (.vstIndexed r.hdr d a b r.c r.sel f.1 f.2 o r.hint)
  | 0x84 => do
    let f ← field (storeFmt? r); let o ← field (rel? r.ord r.mode); need (r.plain && f.1.amaxOk)
    let d ← parseOw f.1.wide lit r.d; let a ← parseOw true lit r.a; .ok (.vstAmax r.hdr d a r.off r.sel f.1 f.2 o r.hint)
  | 0x85 => do
    let f ← field (storeFmt? r); let o ← field (rel? r.ord r.mode); need (r.plain && f.1.amaxOk)
    let d ← parseOw f.1.wide lit r.d; let a ← parseOw true lit r.a; let b ← parseO lit r.b
    .ok (.vstAmaxIndexed r.hdr d a b r.c r.sel f.1 f.2 o r.hint)
  | 0x86 => do
    let f ← field (mfmt? r.ty); let o ← field (acq? r.ord r.mode); need (r.async && r.rnd == 0 && !r.hint && scopeLocal o)
    let d ← parseV f.wide r.d; let a ← parseO lit r.a; .ok (.vlds r.hdr r.ta d a r.off r.sel f o)
  | 0x87 => do
    let f ← field (storeFmt? r); let o ← field (rel? r.ord r.mode); need (r.plain && !r.hint && scopeLocal o)
    let d ← parseOw f.1.wide lit r.d; let a ← parseO lit r.a; .ok (.vsts r.hdr d a r.off r.sel f.1 f.2 o)
  | 0x88 => do
    let f ← field (mfmt? r.ty); need (r.async && r.rnd == 0 && r.mode == 0 && r.ord == 0 && f != .f4)
    let d ← parseV f.wide r.d; let a ← parseO lit r.a; .ok (.vldp r.hdr r.ta d a r.off r.sel f r.hint)
  | 0x89 => do
    let f ← field (storeFmt? r); need (r.plain && r.mode == 0 && r.ord == 0 && f.1 != .f4)
    let d ← parseOw f.1.wide lit r.d; let a ← parseO lit r.a; .ok (.vstp r.hdr d a r.off r.sel f.1 f.2 r.hint)
  | 0x8A => do
    let f ← field (mfmt? r.ty); let o ← field (acq? r.ord r.mode)
    need (r.async && r.rnd == 0 && r.sel == 0 && f.scalarOk)
    let d ← parseS r.d; let a ← parseU lit r.a; .ok (.sld r.hdr r.ta d a r.off f o r.hint)
  | 0x8B => do
    let f ← field (mfmt? r.ty); let o ← field (rel? r.ord r.mode)
    need (r.plain && r.rnd == 0 && r.sel == 0 && f.scalarOk)
    let d ← parseU lit r.d; let a ← parseU lit r.a; .ok (.sst r.hdr d a r.off f o r.hint)
  | 0x8C => do
    let f ← field (mfmt? r.ty); let o ← field (acq? r.ord r.mode); need (r.async && r.rnd == 0)
    let d ← parseV f.wide r.d; let a ← parseU lit r.a; .ok (.vldb r.hdr r.ta d a r.off r.sel f o r.hint)
  | 0x8D => do
    need (r.plain && r.d == 0 && r.ty == 2 && r.mode == 0 && r.ord == 0 && r.rnd == 0)
    let a ← parseOw true lit r.a; .ok (.pref r.hdr a r.off r.sel r.hint)
  | 0x8E => do
    let s ← field (scope? r.mode); need (addrOk r); let x ← parseAddr r lit; .ok (.cwb r.hdr x s)
  | 0x8F => do
    let s ← field (scope? r.mode); need (addrOk r); let x ← parseAddr r lit; .ok (.cinv r.hdr x s)
  | 0x90 => do
    need (addrOk r && (r.mode == 4 || r.mode == 5)); let x ← parseAddr r lit; .ok (.icinv r.hdr x (r.mode == 5))
  | _ => .error .ill

/-- TA and D of an atomic (R333). -/
def parseRet (w : Bool) (r : Raw) : Except DecErr (Option ARet) :=
  if r.ta = 0 then .ok none else do let d ← parseV w r.d; .ok (some ⟨d, r.ta⟩)
def retFieldOk (r : Raw) : Bool := !r.k && (r.ta != 0 || r.d == 0)
/-- FMT, ORD, SP and the zero fields of the barrier instructions (R342). -/
def barOk (r : Raw) (s : Scope) : Bool :=
  r.ta == 0 && r.ty == 0 && r.ord == 0 && r.lo.extractLsb' 1 3 == 0#3 && r.sel == 0 && r.c0 && (!r.lo.getLsbD 0 || s.local)

/-- Atomics, fences and barriers, 0xA0 to 0xA6. -/
def decodeSync (r : Raw) (lit : W64) : Except DecErr Instr :=
  match r.op.toNat with
  | 0xA0 => do
    let f ← field (afmt? r.ty); let o ← field (aord? r.ord r.mode); let p ← field (aop? r.lo4)
    need (retFieldOk r && r.c0)
    let x ← parseRet f.wide r; let a ← parseOw true lit r.a; let b ← parseOw f.wide lit r.b
    .ok (.atom r.hdr x a b r.sel f p o)
  | 0xA1 => do
    let f ← field (afmt? r.ty); let o ← field (aord? r.ord r.mode); need (retFieldOk r && r.lo4 == 0)
    let x ← parseRet f.wide r; let a ← parseOw true lit r.a; let b ← parseOw f.wide lit r.b
    let c ← parseOw f.wide lit r.c; .ok (.acas r.hdr x a b c r.sel f o)
  | 0xA2 => do
    let o ← field (aord? r.ord r.mode); need (retFieldOk r && r.ty == 2 && r.lo4 == 0 && r.c0)
    let x ← parseRet false r; let a ← parseOw true lit r.a; let b ← parseO lit r.b; .ok (.afadd r.hdr x a b r.sel o)
  | 0xA3 => do
    let o ← field (ford? r.ord); let s ← field (scope? r.mode)
    need (r.plain && r.ty == 0 && r.d == 0 && r.a == 0 && r.b0 && r.c0 && r.sel == 0 && r.lo.extractLsb' 1 3 == 0#3 &&
      (!r.lo.getLsbD 0 || s.local))
    .ok (.fence r.hdr o s (r.lo.getLsbD 0))
  | 0xA4 => do
    let s ← field (scope? r.mode); need (barOk r s && r.val && r.b0)
    let d ← parseDst r parseSD; let a ← parseU lit r.a; .ok (.bara r.hdr d a s (r.lo.getLsbD 0))
  | 0xA5 => do
    let s ← field (scope? r.mode); need (barOk r s && r.plain && r.d == 0)
    let a ← parseU lit r.a; let b ← parseU lit r.b; .ok (.barw r.hdr a b s (r.lo.getLsbD 0))
  | 0xA6 => do
    let s ← field (scope? r.mode); need (barOk r s && r.plain && r.d == 0 && r.b0)
    let a ← parseU lit r.a; .ok (.bar r.hdr a s (r.lo.getLsbD 0))
  | _ => .error .ill

/-- The slot field of a queue instruction with everything else zero but D and SEL (R61, R350). -/
def qOk (r : Raw) : Bool := hi2z r.a && r.b0 && r.c0 && r.f == 0
def Raw.q (r : Raw) : BitVec 6 := r.a.extractLsb' 0 6

/-- Queues and tasks, 0xB0 to 0xB9. -/
def decodeQueue (r : Raw) (lit : W64) : Except DecErr Instr :=
  match r.op.toNat with
  | 0xB0 => do need (r.plain && qOk r); let d ← parseV false r.d; .ok (.qpush r.hdr d r.q r.sel)
  | 0xB1 => do need (r.plain && qOk r); let d ← parseV false r.d; .ok (.qpop r.hdr d r.q r.sel)
  | 0xB2 => do need (r.plain && qOk r); let d ← parseV false r.d; .ok (.qtrypush r.hdr d r.q r.sel)
  | 0xB3 => do need (r.plain && qOk r); let d ← parseV false r.d; .ok (.qtrypop r.hdr d r.q r.sel)
  | 0xB4 => do need (r.plain && qOk r && r.sel == 0); let d ← parseS r.d; .ok (.sqpush r.hdr d r.q)
  | 0xB5 => do need (r.plain && qOk r && r.sel == 0); let d ← parseS r.d; .ok (.sqpop r.hdr d r.q)
  | 0xB6 => do need (r.val && qOk r && r.sel == 0); let d ← parseDst r parseSD; .ok (.qstat r.hdr d r.q)
  | 0xB7 => do
    need (r.plain && r.d == 0 && r.sel == 0 && r.f == 0)
    let a ← parseU lit r.a; let b ← parseU lit r.b; let c ← parseU lit r.c; .ok (.qinit r.hdr a b c)
  | 0xB8 => do need (r.plain && r.d == 0 && qOk r && r.sel == 0); .ok (.taskwait r.hdr r.q)
  | 0xB9 => do need (r.plain && r.d == 0 && qOk r && r.sel == 0); .ok (.taskdone r.hdr r.q)
  | _ => .error .ill

def Raw.tile (x : BitVec 8) : BitVec 5 := x.extractLsb' 0 5

/-- Engines and the matrix pipeline, 0xC0 to 0xC5 and 0xD0 to 0xD6. -/
def decodeEngine (r : Raw) (lit : W64) : Except DecErr Instr :=
  match r.op.toNat with
  | 0xC0 => do
    let x ← field (xform? r.sub); need (r.plain && r.d == 0 && r.b0 && r.c0 && r.sel == 0 && r.ty == 0 && r.mode == 0)
    let a ← parseS r.a; if 1 ≤ a.toNat ∧ a.toNat ≤ 58 then .ok (.cpy r.hdr a x) else .error .illop
  | 0xC1 => do
    let x ← field (strm? r.sub); need (r.val && r.a == 0 && r.b0 && r.c0 && r.sel == 0 && r.ty == 0 && r.mode == 0)
    let d ← parseDst r parseSD; .ok (.bclose r.hdr d x)
  | 0xC2 => do
    let x ← field (strm? r.sub); need (r.plain && r.d == 0 && r.b0 && r.c0 && r.sel == 0 && r.ty == 0 && r.mode == 0)
    let a ← parseU lit r.a; .ok (.bwait r.hdr a x)
  | 0xC3 => do
    let k ← field (subMask? r.sub); need (r.plain && k != 0 && r.ty == 0 && r.mode == 0)
    let d ← parseU lit r.d; let a ← parseU lit r.a; let b ← parseO lit r.b; let c ← parseO lit r.c
    .ok (.egath r.hdr d a b c r.sel k)
  | 0xC4 => do
    need (r.plain && r.c0 && r.f == 0)
    let d ← parseU lit r.d; let a ← parseU lit r.a; let b ← parseO lit r.b; .ok (.escat r.hdr d a b r.sel)
  | 0xC5 => do
    need (r.plain && r.d == 0 && r.c0 && r.sel == 0 && r.f == 0)
    let a ← parseU lit r.a; let b ← parseU lit r.b; .ok (.eswap r.hdr a b)
  | 0xD0 => do
    let t ← field (mmaty? r.ty)
    need (r.plain && hi3z r.d && r.c0 && r.sel == 0 && r.mode == 0 && r.sub.extractLsb' 1 5 == 0#5)
    let a ← parseU lit r.a; let b ← parseU lit r.b; .ok (.mma r.hdr (Raw.tile r.d) a b t (r.sub.getLsbD 0))
  | 0xD1 => do
    need (r.plain && hi3z r.d && r.c0 && r.sel == 0 && r.ty == 12 && r.mode == 0 && r.sub == 0)
    let a ← parseU lit r.a; let b ← parseU lit r.b; .ok (.mscale r.hdr (Raw.tile r.d) a b)
  | 0xD2 => do need (r.plain && hi3z r.d && r.a == 0 && r.lo == 0); .ok (.mzero r.hdr (Raw.tile r.d))
  | 0xD3 => do
    need (r.async && hi3z r.a && r.c0 && r.f == 0)
    let d ← parseV false r.d; let b ← parseU lit r.b; .ok (.mlda r.hdr r.ta d (Raw.tile r.a) b r.sel)
  | 0xD4 => do
    let f ← field (storeFmt? r)
    need (r.plain && r.d == 0 && hi3z r.a && r.sel == 0 && r.mode == 0 && r.ord == 0 && f.1.mstaOk)
    let b ← parseU lit r.b; let c ← parseU lit r.c; .ok (.msta r.hdr (Raw.tile r.a) b c f.1 f.2 r.hint)
  | 0xD5 => do need (r.plain && r.d == 0 && r.lo == 0); let a ← parseU lit r.a; .ok (.mresume r.hdr a)
  | 0xD6 => do need (r.plain && r.d == 0 && r.lo == 0); let a ← parseU lit r.a; .ok (.msave r.hdr a)
  | _ => .error .ill

/-- Transactions and ordered speculation, 0xE0 to 0xE5. -/
def decodeTx (r : Raw) (lit : W64) : Except DecErr Instr :=
  match r.op.toNat with
  | 0xE0 => do
    need (r.plain && r.d == 0 && r.a == 0 && r.b0 && r.c0 && r.ty == 0 && r.mode == 0 && r.sub.extractLsb' 1 5 == 0#5)
    .ok (.txbeg r.hdr r.sel (r.sub.getLsbD 0))
  | 0xE1 => do need (r.plain && r.e && r.d == 0 && r.a == 0 && r.b0 && r.c0 && r.f == 0); .ok (.txend r.hdr r.sel)
  | 0xE2 => do need (r.plain && r.e && r.d == 0 && r.a == 0 && r.b0 && r.c0 && r.f == 0); .ok (.txabt r.hdr r.sel)
  | 0xE3 => do
    need (r.val && r.a == 0 && r.b0 && r.c0 && r.f == 0); let d ← parseDst r (parseV false); .ok (.txstat r.hdr d r.sel)
  | 0xE4 => do
    need (r.plain && r.d == 0 && r.c0 && r.f == 0)
    let a ← parseU lit r.a; let b ← parseO lit r.b; .ok (.specbeg r.hdr a b r.sel)
  | 0xE5 => do need (r.plain && r.e && r.d == 0 && r.a == 0 && r.lo == 0); .ok (.specend r.hdr)
  | _ => .error .ill

/-- The instruction of a set of fields and the literal word that follows it. -/
def decodeRaw (r : Raw) (lit : W64) : Except DecErr Instr :=
  let o := r.op.toNat
  if o < 0x10 then decodeCtl r lit
  else if o < 0x28 then decodeScalar r lit
  else if o < 0x30 then decodeMask r lit
  else if o < 0x50 then decodeVec r lit
  else if o < 0x70 then decodeFp r lit
  else if o < 0x80 then decodeCross r lit
  else if o < 0xA0 then decodeMem r lit
  else if o < 0xB0 then decodeSync r lit
  else if o < 0xC0 then decodeQueue r lit
  else if o < 0xE0 then decodeEngine r lit
  else decodeTx r lit

/-- The instruction that a word and the literal word after it stand for. -/
def decode (w lit : W64) : Except DecErr Instr := decodeRaw (Raw.ofWord w) lit

/-- Which of the fields D, A, B, C the opcode map lists with a kind of v, s, u or o: 0xF0 in one of them makes the next word
the literal (R60). -/
def operandFields (op : Nat) : Bool × Bool × Bool × Bool :=
  if op = 0x09 ∨ op = 0x0A then (false, true, false, false)
  else if 0x10 ≤ op ∧ op ≤ 0x1C then (true, true, true, false)
  else if op = 0x1D ∨ op = 0x1F then (true, true, true, true)
  else if op = 0x1E then (true, true, false, false)
  else if 0x2A ≤ op ∧ op ≤ 0x2C then (true, false, false, false)
  else if op = 0x2D then (false, true, false, false)
  else if op = 0x2E then (true, false, true, false)
  else if op = 0x34 ∨ op = 0x3F ∨ op = 0x53 then (true, true, true, true)
  else if op = 0x40 ∨ op = 0x56 then (false, true, true, false)
  else if op = 0x42 ∨ op = 0x57 ∨ op = 0x58 ∨ op = 0x59 ∨ (0x60 ≤ op ∧ op ≤ 0x67) then (true, true, false, false)
  else if op = 0x43 then (false, false, false, false)
  else if 0x30 ≤ op ∧ op ≤ 0x45 then (true, true, true, false)
  else if 0x50 ≤ op ∧ op ≤ 0x55 then (true, true, true, false)
  else if op = 0x70 ∨ op = 0x71 then (true, true, true, false)
  else if 0x72 ≤ op ∧ op ≤ 0x76 then (true, true, false, false)
  else if op = 0x81 ∨ op = 0x83 ∨ op = 0x85 then (true, true, true, false)
  else if 0x80 ≤ op ∧ op ≤ 0x8C then (true, true, false, false)
  else if 0x8D ≤ op ∧ op ≤ 0x90 then (false, true, false, false)
  else if op = 0xA0 ∨ op = 0xA2 then (true, true, true, false)
  else if op = 0xA1 then (true, true, true, true)
  else if op = 0xA4 then (true, true, false, false)
  else if op = 0xA5 then (false, true, true, false)
  else if op = 0xA6 then (false, true, false, false)
  else if 0xB0 ≤ op ∧ op ≤ 0xB6 then (true, false, false, false)
  else if op = 0xB7 then (false, true, true, true)
  else if op = 0xC0 ∨ op = 0xC2 then (false, true, false, false)
  else if op = 0xC1 then (true, false, false, false)
  else if op = 0xC3 then (true, true, true, true)
  else if op = 0xC4 then (true, true, true, false)
  else if op = 0xC5 ∨ op = 0xD0 ∨ op = 0xD1 ∨ op = 0xE4 then (false, true, true, false)
  else if op = 0xD3 then (true, false, true, false)
  else if op = 0xD4 then (false, false, true, true)
  else if op = 0xD5 ∨ op = 0xD6 then (false, true, false, false)
  else if op = 0xE3 then (true, false, false, false)
  else (false, false, false, false)

/-- Whether a literal word follows the word `w` (R60). -/
def hasLiteral (w : W64) : Bool :=
  let r := Raw.ofWord w
  let (d, a, b, c) := operandFields r.op.toNat
  (d && r.d == 0xF0) || (a && r.a == 0xF0) || (b && r.b == 0xF0) || (c && r.c == 0xF0)

/-- Whether the word's E bit is set. -/
def wordE (w : W64) : Bool := (Raw.ofWord w).e

-- the encoder

def fR (b c : BitVec 8) (sel : BitVec 3) (f : BitVec 13) : BitVec 32 := b ++ c ++ sel ++ f
/-- F of R54. -/
def fA (ty : BitVec 4) (mode : BitVec 3) (sub : BitVec 6) : BitVec 13 := ty ++ mode ++ sub
/-- F of R57. -/
def fM (fmt : BitVec 4) (sc : BitVec 3) (ord : BitVec 2) (hint : Bool) (rnd : BitVec 3) : BitVec 13 :=
  fmt ++ sc ++ ord ++ BitVec.ofBool hint ++ rnd
/-- F of R57 with bits 3:0 as one field. -/
def fM4 (fmt : BitVec 4) (sc : BitVec 3) (ord : BitVec 2) (x : BitVec 4) : BitVec 13 := fmt ++ sc ++ ord ++ x
def lowM (off : BitVec 16) (sel : BitVec 3) (f : BitVec 13) : BitVec 32 := off ++ sel ++ f

/-- A word of a non-asynchronous instruction that produces no value. -/
def eN (op : BitVec 8) (h : Hdr) (d a : BitVec 8) (lo : BitVec 32) : Raw := ⟨op, h.e, false, 0, h.tc, d, a, lo⟩
/-- A word of an instruction with a value: K = 1 and D = 0 for none. -/
def eV (op : BitVec 8) (h : Hdr) (d : Option (BitVec 8)) (a : BitVec 8) (lo : BitVec 32) : Raw :=
  match d with
  | some x => ⟨op, h.e, false, 0, h.tc, x, a, lo⟩
  | none => ⟨op, h.e, true, 0, h.tc, 0, a, lo⟩
/-- A word of an asynchronous producer. -/
def eT (op : BitVec 8) (h : Hdr) (ta : BitVec 3) (d a : BitVec 8) (lo : BitVec 32) : Raw := ⟨op, h.e, false, ta, h.tc, d, a, lo⟩
def eJ (op : BitVec 8) (h : Hdr) (c : BitVec 8) (ofs : BitVec 32) (m : BitVec 8) : Raw :=
  ⟨op, h.e, false, 0, h.tc, c, ofs.extractLsb' 24 8, ofs.extractLsb' 0 24 ++ m⟩
def sdc : Option SDst → Option (BitVec 8) := Option.map SDst.code
def vdc : Option VReg → Option (BitVec 8) := Option.map VReg.code
def eS3 (op : BitVec 8) (h : Hdr) (d : Option SDst) (a b : UOp) (t : STy) (m : BitVec 3) (sub : BitVec 6) : Raw :=
  eV op h (sdc d) a.code (fR b.code 0 0 (fA t.code m sub))
def eV3 (op : BitVec 8) (h : Hdr) (d : Option VReg) (a b : OOp) (sel : BitVec 3) (t : VTy) (m : BitVec 3) (sub : BitVec 6) : Raw :=
  eV op h (vdc d) a.code (fR b.code 0 sel (fA t.code m sub))
def eF3 (op : BitVec 8) (h : Hdr) (d : Option VReg) (a b : OOp) (sel : BitVec 3) (m : BitVec 3) : Raw :=
  eV op h (vdc d) a.code (fR b.code 0 sel (fA 6 m 0))
def eF2 (op : BitVec 8) (h : Hdr) (d : Option VReg) (a : OOp) (sel : BitVec 3) : Raw :=
  eV op h (vdc d) a.code (fR 0 0 sel (fA 6 0 0))
def negMod (n : Bool) : BitVec 8 := if n then 1 else 0
def m3c (c : BitVec 3) : BitVec 8 := 0#5 ++ c
def k5c (c : BitVec 5) : BitVec 8 := 0#3 ++ c
def q6c (c : BitVec 6) : BitVec 8 := 0#2 ++ c
def s6c (c : BitVec 6) : BitVec 8 := 0b10#2 ++ c
def BitOp.sub {α : Type} : BitOp α → BitVec 6 | .popc => 0 | .clz => 1 | .ctz => 2 | .brev => 3 | .bfx _ _ => 4
def BitOp.bc {α : Type} (f : α → BitVec 8) : BitOp α → BitVec 8 × BitVec 8
  | .bfx p n => (f p, f n)
  | _ => (0, 0)
def RDst.code : RDst → BitVec 8 | .s d => d.code | .v d => VReg.code d
def addrRaw (op : BitVec 8) (h : Hdr) (x : Option UAddr) (sc : BitVec 3) : Raw :=
  match x with
  | some u => eN op h 0 u.a.code (lowM u.off 0 (fM4 2 sc 0 0))
  | none => eN op h 0 0 (lowM 0 0 (fM4 2 sc 0 1))
def eA (op : BitVec 8) (h : Hdr) (r : Option ARet) (a : OOp) (b c : BitVec 8) (sel : BitVec 3) (f : BitVec 13) : Raw :=
  match r with
  | some x => eT op h x.ta (VReg.code x.d) a.code (fR b c sel f)
  | none => eN op h 0 a.code (fR b c sel f)
def spBit (b : Bool) : BitVec 4 := if b then 1 else 0

/-- The fields of an encoded instruction; none for a device step, which has no encoding. -/
def encodeRaw : Instr → Option Raw
  | .nop h => some (eN 0x01 h 0 0 0)
  | .br h o => some (eJ 0x02 h 0 o 0)
  | .brc h c t o => some (eJ 0x03 h c.code o t.code)
  | .brd h c n o => some (eJ 0x04 h (m3c c) o (negMod n))
  | .join h => some (eN 0x05 h 0 0 0)
  | .loop h o => some (eJ 0x06 h 0 o 0)
  | .brk h c n o => some (eJ 0x07 h (m3c c) o (negMod n))
  | .call h l o => some (eJ 0x08 h l.code o 0)
  | .ret h a => some (eN 0x09 h 0 a.code 0)
  | .jmpr h a => some (eN 0x0A h 0 a.code 0)
  | .exit h => some (eN 0x0B h 0 0 0)
  | .trap h c => some (eN 0x0C h 0 0 (0#16 ++ c))
  | .rte h => some (eN 0x0D h 0 0 0)
  | .yield h => some (eN 0x0E h 0 0 0)
  | .sadd h d a b t s => some (eS3 0x10 h d a b t (satCode s) 0)
  | .ssub h d a b t s => some (eS3 0x11 h d a b t (satCode s) 0)
  | .smul h d a b t s => some (eS3 0x12 h d a b t (satCode s) 0)
  | .smulh h d a b t => some (eS3 0x13 h d a b t 0 0)
  | .sand h d a b t => some (eS3 0x14 h d a b t 0 0)
  | .sor h d a b t => some (eS3 0x15 h d a b t 0 0)
  | .sxor h d a b t => some (eS3 0x16 h d a b t 0 0)
  | .sshl h d a b t => some (eS3 0x17 h d a b t 0 0)
  | .sshr h d a b t => some (eS3 0x18 h d a b t 0 0)
  | .ssar h d a b t => some (eS3 0x19 h d a b t 0 0)
  | .smin h d a b t => some (eS3 0x1A h d a b t 0 0)
  | .smax h d a b t => some (eS3 0x1B h d a b t 0 0)
  | .scmp h d a b t c => some (eS3 0x1C h d a b t 0 c.code)
  | .ssel h d a b c t => some (eV 0x1D h (sdc d) a.code (fR b.code c.code 0 (fA t.code 0 0)))
  | .smov h d a t => some (eV 0x1E h (sdc d) a.code (fR 0 0 0 (fA t.code 0 0)))
  | .sbit h d a o t => some (eV 0x1F h (sdc d) a.code (fR (o.bc UOp.code).1 (o.bc UOp.code).2 0 (fA t.code 0 o.sub)))
  | .sli h d i => some (eV 0x20 h (sdc d) 0 i)
  | .slih h d a i => some (eV 0x21 h (sdc d) a.code i)
  | .rdsr h d n => some (eV 0x22 h (d.map RDst.code) 0 (0#24 ++ n.code))
  | .wrsr h n a => some (eN 0x23 h 0 a.code (0#24 ++ n.code))
  | .grow h n => some (eN 0x24 h 0 0 (0#24 ++ n))
  | .twait h x => some (eN 0x25 h 0 0 (0#24 ++ x ++ 0#1))
  | .clrc h x => some (eN 0x26 h 0 0 (0#16 ++ x))
  | .mmov h d a => some (eN 0x28 h d.code a.code 0)
  | .mlog h d a b t => some (eN 0x29 h d.code a.code (fR b.code 0 0 (fA 0 0 (0#2 ++ t))))
  | .mpopc h d a => some (eV 0x2A h (sdc d) a.code 0)
  | .mfirst h d a => some (eV 0x2B h (sdc d) a.code 0)
  | .mrd h d a => some (eV 0x2C h (sdc d) a.code 0)
  | .mwr h d a => some (eN 0x2D h d.code a.code 0)
  | .mtest h d a b => some (eV 0x2E h (sdc d) a.code (fR b.code 0 0 0))
  | .vadd h d a b s t x => some (eV3 0x30 h d a b s t (satCode x) 0)
  | .vsub h d a b s t x => some (eV3 0x31 h d a b s t (satCode x) 0)
  | .vmul h d a b s t x => some (eV3 0x32 h d a b s t (satCode x) 0)
  | .vmulh h d a b s t => some (eV3 0x33 h d a b s t 0 0)
  | .vmad h d a b c s t x => some (eV 0x34 h (vdc d) a.code (fR b.code c.code s (fA t.code (satCode x) 0)))
  | .vaddc h d a b s t k => some (eV3 0x35 h d a b s t 0 (0#3 ++ k))
  | .vand h d a b s t => some (eV3 0x36 h d a b s t 0 0)
  | .vor h d a b s t => some (eV3 0x37 h d a b s t 0 0)
  | .vxor h d a b s t => some (eV3 0x38 h d a b s t 0 0)
  | .vshl h d a b s t => some (eV3 0x39 h d a b s t 0 0)
  | .vshr h d a b s t => some (eV3 0x3A h d a b s t 0 0)
  | .vsar h d a b s t => some (eV3 0x3B h d a b s t 0 0)
  | .vmin h d a b s t => some (eV3 0x3C h d a b s t 0 0)
  | .vmax h d a b s t => some (eV3 0x3D h d a b s t 0 0)
  | .vabsd h d a b s t => some (eV3 0x3E h d a b s t 0 0)
  | .vbit h d a o s t => some (eV 0x3F h (vdc d) a.code (fR (o.bc OOp.code).1 (o.bc OOp.code).2 s (fA t.code 0 o.sub)))
  | .vcmp h d a b s t c => some (eN 0x40 h (m3c d) a.code (fR b.code 0 s (fA t.code 0 c.code)))
  | .vsel h d a b s t k => some (eV3 0x41 h d a b s t 0 (0#3 ++ k))
  | .vmov h d a s t => some (eV 0x42 h (vdc d) a.code (fR 0 0 s (fA t.code 0 0)))
  | .vli h d i => some (eV 0x43 h (vdc d) 0 i)
  | .vidx h d a b s g => some (eV3 0x44 h d a b s (if g then .i32 else .n32) 0 0)
  | .vpermb h d a b s => some (eV 0x45 h (vdc d) a.code (fR b.code 0 s (fA 1 0 0)))
  | .vfadd h d a b s m => some (eF3 0x50 h d a b s m.code)
  | .vfsub h d a b s m => some (eF3 0x51 h d a b s m.code)
  | .vfmul h d a b s m => some (eF3 0x52 h d a b s m.code)
  | .vfma h d a b c s m => some (eV 0x53 h (vdc d) a.code (fR b.code c.code s (fA 6 m.code 0)))
  | .vfmin h d a b s => some (eF3 0x54 h d a b s 0)
  | .vfmax h d a b s => some (eF3 0x55 h d a b s 0)
  | .vfcmp h d a b s c => some (eN 0x56 h (m3c d) a.code (fR b.code 0 s (fA 6 0 c.code)))
  | .vfclass h d a s => some (eF2 0x57 h d a s)
  | .vfrnd h d a s m => some (eV 0x58 h (vdc d) a.code (fR 0 0 s (fA 6 m.code 0)))
  | .vfcvt h d a s t m => some (eV 0x59 h (vdc d) a.code (fR 0 0 s (fA t.tyCode m.code t.subCode)))
  | .vrcp h d a s => some (eF2 0x60 h d a s)
  | .vrsq h d a s => some (eF2 0x61 h d a s)
  | .vsqrt h d a s => some (eF2 0x62 h d a s)
  | .vexp2 h d a s => some (eF2 0x63 h d a s)
  | .vlog2 h d a s => some (eF2 0x64 h d a s)
  | .vsinpi h d a s => some (eF2 0x65 h d a s)
  | .vcospi h d a s => some (eF2 0x66 h d a s)
  | .vtanh h d a s => some (eF2 0x67 h d a s)
  | .vshfl h d a b s t f => some (eV 0x70 h (vdc d) a.code (fR b.code 0 s (fA t.code 0 f.code)))
  | .vbcast h d a b s t => some (eV 0x71 h (vdc d) a.code (fR b.code 0 s (fA t.code 0 0)))
  | .vred h d a s t o => some (eV 0x72 h (sdc d) a.code (fR 0 0 s (fA t.code 0 o.code)))
  | .vredf h d a s o => some (eV 0x73 h (sdc d) a.code (fR 0 0 s (fA 6 0 (0#1 ++ o.code))))
  | .vscan h d a s t o x => some (eV 0x74 h (vdc d) a.code (fR 0 0 s (fA t.code 0 (BitVec.ofBool x ++ o.code))))
  | .vcomp h d a s t => some (eV 0x75 h (vdc d) a.code (fR 0 0 s (fA t.code 0 0)))
  | .vexpd h d a s t => some (eV 0x76 h (vdc d) a.code (fR 0 0 s (fA t.code 0 0)))
  | .vld h ta d a off s f o nt => some (eT 0x80 h ta (VReg.code d) a.code (lowM off s (fM f.code (scopeCode o) (ordCode 1 o) nt 0)))
  | .vldIndexed h ta d a b c s f o nt =>
    some (eT 0x81 h ta (VReg.code d) a.code (fR b.code c s (fM f.code (scopeCode o) (ordCode 1 o) nt 0)))
  | .vldb h ta d a off s f o nt => some (eT 0x8C h ta (VReg.code d) a.code (lowM off s (fM f.code (scopeCode o) (ordCode 1 o) nt 0)))
  | .vst h d a off s f x o nt => some (eN 0x82 h d.code a.code (lowM off s (fM f.code (scopeCode o) (ordCode 2 o) nt x.code)))
  | .vstIndexed h d a b c s f x o nt =>
    some (eN 0x83 h d.code a.code (fR b.code c s (fM f.code (scopeCode o) (ordCode 2 o) nt x.code)))
  | .vstAmax h d a off s f x o nt =>
    some (eN 0x84 h d.code a.code (lowM off s (fM f.code (scopeCode o) (ordCode 2 o) nt x.code)))
  | .vstAmaxIndexed h d a b c s f x o nt =>
    some (eN 0x85 h d.code a.code (fR b.code c s (fM f.code (scopeCode o) (ordCode 2 o) nt x.code)))
  | .vlds h ta d a off s f o => some (eT 0x86 h ta (VReg.code d) a.code (lowM off s (fM f.code (scopeCode o) (ordCode 1 o) false 0)))
  | .vsts h d a off s f x o => some (eN 0x87 h d.code a.code (lowM off s (fM f.code (scopeCode o) (ordCode 2 o) false x.code)))
  | .vldp h ta d a off s f nt => some (eT 0x88 h ta (VReg.code d) a.code (lowM off s (fM f.code 0 0 nt 0)))
  | .vstp h d a off s f x nt => some (eN 0x89 h d.code a.code (lowM off s (fM f.code 0 0 nt x.code)))
  | .sld h ta d a off f o nt => some (eT 0x8A h ta (s6c d) a.code (lowM off 0 (fM f.code (scopeCode o) (ordCode 1 o) nt 0)))
  | .sst h d a off f o nt => some (eN 0x8B h d.code a.code (lowM off 0 (fM f.code (scopeCode o) (ordCode 2 o) nt 0)))
  | .pref h a off s nt => some (eN 0x8D h 0 a.code (lowM off s (fM 2 0 0 nt 0)))
  | .cwb h x s => some (addrRaw 0x8E h x s.code)
  | .cinv h x s => some (addrRaw 0x8F h x s.code)
  | .icinv h x dv => some (addrRaw 0x90 h x (if dv then 5 else 4))
  | .atom h r a b s f p o => some (eA 0xA0 h r a b.code 0 s (fM4 f.code o.scCode o.ordCode p.code))
  | .acas h r a b c s f o => some (eA 0xA1 h r a b.code c.code s (fM4 f.code o.scCode o.ordCode 0))
  | .afadd h r a b s o => some (eA 0xA2 h r a b.code 0 s (fM4 2 o.scCode o.ordCode 0))
  | .fence h o s p => some (eN 0xA3 h 0 0 (lowM 0 0 (fM4 0 s.code o.code (spBit p))))
  | .bara h d a s p => some (eV 0xA4 h (sdc d) a.code (fR 0 0 0 (fM4 0 s.code 0 (spBit p))))
  | .barw h a b s p => some (eN 0xA5 h 0 a.code (fR b.code 0 0 (fM4 0 s.code 0 (spBit p))))
  | .bar h a s p => some (eN 0xA6 h 0 a.code (fR 0 0 0 (fM4 0 s.code 0 (spBit p))))
  | .qpush h d q s => some (eN 0xB0 h (VReg.code d) (q6c q) (fR 0 0 s 0))
  | .qpop h d q s => some (eN 0xB1 h (VReg.code d) (q6c q) (fR 0 0 s 0))
  | .qtrypush h d q s => some (eN 0xB2 h (VReg.code d) (q6c q) (fR 0 0 s 0))
  | .qtrypop h d q s => some (eN 0xB3 h (VReg.code d) (q6c q) (fR 0 0 s 0))
  | .sqpush h d q => some (eN 0xB4 h (s6c d) (q6c q) 0)
  | .sqpop h d q => some (eN 0xB5 h (s6c d) (q6c q) 0)
  | .qstat h d q => some (eV 0xB6 h (sdc d) (q6c q) 0)
  | .qinit h a b c => some (eN 0xB7 h 0 a.code (fR b.code c.code 0 0))
  | .taskwait h q => some (eN 0xB8 h 0 (q6c q) 0)
  | .taskdone h q => some (eN 0xB9 h 0 (q6c q) 0)
  | .cpy h a x => some (eN 0xC0 h 0 (s6c a) (fR 0 0 0 (fA 0 0 x.code)))
  | .bclose h d x => some (eV 0xC1 h (sdc d) 0 (fR 0 0 0 (fA 0 0 x.code)))
  | .bwait h a x => some (eN 0xC2 h 0 a.code (fR 0 0 0 (fA 0 0 x.code)))
  | .egath h d a b c s k => some (eN 0xC3 h d.code a.code (fR b.code c.code s (fA 0 0 (0#3 ++ k))))
  | .escat h d a b s => some (eN 0xC4 h d.code a.code (fR b.code 0 s 0))
  | .eswap h a b => some (eN 0xC5 h 0 a.code (fR b.code 0 0 0))
  | .mma h d a b t p => some (eN 0xD0 h (k5c d) a.code (fR b.code 0 0 (fA t.code 0 (0#5 ++ BitVec.ofBool p))))
  | .mscale h d a b => some (eN 0xD1 h (k5c d) a.code (fR b.code 0 0 (fA 12 0 0)))
  | .mzero h d => some (eN 0xD2 h (k5c d) 0 0)
  | .mlda h ta d a b s => some (eT 0xD3 h ta (VReg.code d) (k5c a) (fR b.code 0 s 0))
  | .msta h a b c f x nt => some (eN 0xD4 h 0 (k5c a) (fR b.code c.code 0 (fM f.code 0 0 nt x.code)))
  | .mresume h a => some (eN 0xD5 h 0 a.code 0)
  | .msave h a => some (eN 0xD6 h 0 a.code 0)
  | .txbeg h s t => some (eN 0xE0 h 0 0 (fR 0 0 s (fA 0 0 (0#5 ++ BitVec.ofBool t))))
  | .txend h s => some (eN 0xE1 h 0 0 (fR 0 0 s 0))
  | .txabt h s => some (eN 0xE2 h 0 0 (fR 0 0 s 0))
  | .txstat h d s => some (eV 0xE3 h (vdc d) 0 (fR 0 0 s 0))
  | .specbeg h a b s => some (eN 0xE4 h 0 a.code (fR b.code 0 s 0))
  | .specend h => some (eN 0xE5 h 0 0 0)
  | _ => none

/-- The words of an encoded instruction: its own word and, when an operand is a literal, the literal word (R60). -/
def encode (i : Instr) : Option (List W64) :=
  (encodeRaw i).map fun r => r.toWord :: i.lits.take 1

/-- The instruction at the start of a list of words: what it is and how many words it takes. -/
def decodeWords : List W64 → Except DecErr (Instr × Nat)
  | [] => .error .ill
  | w :: rest => (decode w (rest.headD 0)).map fun i => (i, if hasLiteral w then 2 else 1)

/-- The instruction the decoder reads from an instruction whose bits are `w`, the first word in bits 63:0 and its literal
word in bits 127:64. -/
def decodeTableWord (_nbits w : Nat) : Option Instr :=
  match decode (BitVec.ofNat 64 w) (BitVec.ofNat 64 (w / 2 ^ 64)) with
  | .ok i => some i
  | .error _ => none

end Sys2Proof
end

