-- ==== Sys2Proof/Config.lean ====
section
/-! DEFINITION. What the spec leaves open: constants and functions with no body, so that nothing can be proved of their values. -/

namespace Sys2Proof.Config

/-- The n-th open choice among several outcomes the spec allows (which ready group acts next, which store of a buffer is applied,
which frame is taken, which line is replaced). Taken modulo the number of outcomes. Log 1 (DESIGN CHOICE). -/
opaque choice : Nat → Nat

/-- The special functions of R222: `f` numbers the function, `x` is its reduced argument (R440). Only the place inside the error
bound is taken from it. Log 25 (DESIGN CHOICE). -/
opaque special (f x : Nat) : Nat

/-- Bytes a device names itself: keys it generates, nonces, response payloads the spec gives no contents. Log 27 (DESIGN CHOICE). -/
opaque random : Nat → Byte

/-- The certificate chain and signatures of the SPDM responder (R109). Log 27 (DESIGN CHOICE). -/
opaque spdmBlob : Nat → Nat → Byte

/-- Whether a lookup at a moment takes a translation that is held, where the tables have changed since (R147): the moment, and the page and
lane that look. Log 17 (DESIGN CHOICE). -/
opaque stale (now who : Nat) : Bool

/-- The Page Request Group Index of a request (R148). Log 28 (DESIGN CHOICE). -/
opaque pageGroup : Nat → Nat

end Sys2Proof.Config
end

