-- ==== Sys2Proof/Machine/Aes.lean ====
section
/-! DEFINITION. AES-256 (FIPS 197) and its XTS mode (IEEE 1619) over one 32-byte sector, as R105 names them. -/

namespace Sys2Proof.Machine.Aes

open Sys2Proof

/-- The S-box: entry i in bits 8(i mod 32) + 7 to 8(i mod 32) of number i / 32. -/
def sbox : List Nat :=
  [0xc072a49cafa2d4adf04759fa7dc982ca76abd7fe2b670130c56f6bf27b777c63,
   0x75b227ebe28012079a059618c323c7041531d871f1e5a534ccf73f362693fdb7,
   0xcf584c4a39becb6a5bb1fc20ed00d153842fe329b3d63b52a05a6e1b1a2c8309,
   0xd2f3ff1021dab6bcf5389d928f40a351a89f3c507f02f94585334d43fbaaefd0,
   0xdb0b5ede14b8ee4688902a22dc4f816073195d643d7ea7c41744975fec130ccd,
   0x8ae7a65eaf4566ca94ed58d6d37c8e779e4959162acd3c25c2406490a3a32e0,
   0x9e1dc186b95735610ef6034866b53e708a8bbd4b1f74dde8c6b4a61c2e2578ba,
   0x16bb54b00f2d99416842e6bf0d89a18cdf2855cee9871e9b948ed9691198f8e1]

/-- Its inverse. -/
def sboxInv : List Nat :=
  [0xcbe9dec444438e3487ff2f9b8239e37cfbd7f3819ea340bf38a53630d56a0952,
   0x25d18b6d49a25b76b224d92866a12e084ec3fa420b954cee3d23c2a632947b54,
   0x849d8da75746155edab9edfd5048706c92b6655dcc5ca4d41698688664f6f872,
   0x6b8a130103bdafc1020f3fca8f1e2cd00645b3b80558e4f70ad3bc8c00abd890,
   0x6edf751ce837f9e28535ade72274ac9673e6b4f0cecff297eadc674f4111913a,
   0xf45acd78fec0db9a2079d2c64b3e56fc1bbe18aa0e62b76f89c5291d711af147,
   0xef9cc9939f7ae52d0d4ab519a97f51605fec8027591012b131c7078833a8dd1f,
   0x7d0c2155631469e126d677ba7e042b17619953833cbbebc8b0f52aae4d3be0a0]

def subByte (x : Nat) : Nat := sbox.getD (x / 32) 0 >>> (8 * (x % 32)) % 256
def subByteInv (x : Nat) : Nat := sboxInv.getD (x / 32) 0 >>> (8 * (x % 32)) % 256

/-- Multiplication by x in GF(2^8). -/
def xtime (a : Nat) : Nat := if a < 128 then 2 * a else (2 * a) ^^^ 0x11B

/-- Multiplication in GF(2^8) by a number of at most four bits. -/
def mulN (k a : Nat) : Nat :=
  let b := xtime a
  let c := xtime b
  let d := xtime c
  (if k % 2 = 1 then a else 0) ^^^ (if k / 2 % 2 = 1 then b else 0) ^^^ (if k / 4 % 2 = 1 then c else 0) ^^^ (if k / 8 % 2 = 1 then d else 0)

def xorList (a b : List Nat) : List Nat := List.zipWith (· ^^^ ·) a b

-- the key schedule

/-- The round constant of key word i. -/
def rcon : Nat → Nat
  | 0 => 0
  | 1 => 1
  | n + 1 => xtime (rcon n)

/-- The next key word, from the words so far, last first. -/
def nextWord (i : Nat) (ws : List (List Nat)) : List Nat :=
  let t := ws.headD []
  let t := if i % 8 = 0 then
      match (t.tail ++ t.take 1).map subByte with
      | b :: bs => (b ^^^ rcon (i / 8)) :: bs
      | [] => []
    else if i % 8 = 4 then t.map subByte else t
  xorList (ws.getD 7 []) t

def expand : Nat → Nat → List (List Nat) → List (List Nat)
  | 0, _, ws => ws
  | n + 1, i, ws => expand n (i + 1) (nextWord i ws :: ws)

def words4 : Nat → List Nat → List (List Nat)
  | 0, _ => []
  | n + 1, l => l.take 4 :: words4 n (l.drop 4)

def roundsOf : Nat → List (List Nat) → List (List Nat)
  | 0, _ => []
  | n + 1, ws => (ws.take 4).flatten :: roundsOf n (ws.drop 4)

/-- The 15 round keys of a 256-bit key. -/
def schedule (key : List Nat) : List (List Nat) := roundsOf 15 (expand 52 8 (words4 8 key).reverse).reverse

-- the rounds

def shiftRows (s : List Nat) : List Nat := (List.range 16).map fun i => s.getD ((i + 4 * (i % 4)) % 16) 0
def shiftRowsInv (s : List Nat) : List Nat := (List.range 16).map fun i => s.getD ((i + 12 * (i % 4)) % 16) 0

/-- A column through the circulant matrix of four coefficients. -/
def mixCol (k : List Nat) (c : List Nat) : List Nat :=
  (List.range 4).map fun r => (List.range 4).foldl (fun x j => x ^^^ mulN (k.getD ((j + 4 - r) % 4) 0) (c.getD j 0)) 0

def mixWith (k : List Nat) (s : List Nat) : List Nat := ((words4 4 s).map (mixCol k)).flatten

def encRounds : List (List Nat) → List Nat → List Nat
  | [], s => s
  | [k], s => xorList (shiftRows (s.map subByte)) k
  | k :: ks, s => encRounds ks (xorList (mixWith [2, 3, 1, 1] (shiftRows (s.map subByte))) k)

/-- AES-256 of a block under a schedule. -/
def encrypt (ks : List (List Nat)) (s : List Nat) : List Nat :=
  match ks with
  | k :: t => encRounds t (xorList s k)
  | [] => s

def decRounds : List (List Nat) → List Nat → List Nat
  | [], s => s
  | [k], s => xorList ((shiftRowsInv s).map subByteInv) k
  | k :: ks, s => decRounds ks (mixWith [14, 11, 13, 9] (xorList ((shiftRowsInv s).map subByteInv) k))

/-- Its inverse. -/
def decrypt (ks : List (List Nat)) (s : List Nat) : List Nat :=
  match ks.reverse with
  | k :: t => decRounds t (xorList s k)
  | [] => s

-- XTS (R105)

def ofLe : List Nat → Nat
  | [] => 0
  | b :: bs => b + 256 * ofLe bs
def toLe : Nat → Nat → List Nat
  | 0, _ => []
  | n + 1, x => x % 256 :: toLe n (x / 256)

/-- The tweak of the next block. -/
def nextTweak (t : List Nat) : List Nat :=
  let n := 2 * ofLe t
  toLe 16 (if n < 2 ^ 128 then n else (n - 2 ^ 128) ^^^ 0x87)

/-- A sector under a key pair (data key, then tweak key) with its address as the tweak; `f` is the cipher or its inverse. -/
def xts (f : List (List Nat) → List Nat → List Nat) (key : List Byte) (addr : Nat) (sector : List Byte) : List Byte :=
  let k := key.map (·.toNat)
  let k1 := schedule (k.take 32)
  let t0 := encrypt (schedule (k.drop 32)) (toLe 16 addr)
  let t1 := nextTweak t0
  let p := sector.map (·.toNat)
  let block := fun (t b : List Nat) => xorList (f k1 (xorList b t)) t
  (block t0 (p.take 16) ++ block t1 (p.drop 16)).map (BitVec.ofNat 8)

def encSector (key : List Byte) (addr : Nat) (sector : List Byte) : List Byte := xts encrypt key addr sector
def decSector (key : List Byte) (addr : Nat) (sector : List Byte) : List Byte := xts decrypt key addr sector

end Sys2Proof.Machine.Aes
end

