-- ==== Sys2Proof/Machine/State.lean ====
section
/-! DEFINITION. The machine's state as plain data: groups, teams, launches, partitions, cores, dies, memories, the fabric and the
device's own bookkeeping, with the reasons a step can stop and the state after reset. -/

namespace Sys2Proof.Machine

open Sys2Proof

/-- Why a step stops with a fault. -/
inductive Fault where
  /-- Raised by `exec` of an encoded instruction when the state delivers no group (`State.cur` names none). Safe: `step` never
  asks for it. -/
  | noCurrentGroup
  deriving DecidableEq, Repr

/-- Why an instruction is refused. -/
inductive Refusal where
  /-- An instruction without a meaning, named as spec/opcode_table.json names it. Raised by `exec` only. Safe. -/
  | notModelled (mnemonic : String)
  deriving DecidableEq, Repr

/-- A table by number: strictly rising keys, and no entry that holds the table's default value. -/
abbrev Tab (α : Type) := List (Nat × α)

/-- Bytes by address, an unlisted byte reading 0 (Host.Cell pairs). -/
abbrev Mem := List Host.Cell

/-- The key pair a sector stands under (R105, R106, R122): none for plaintext (vaults, CLEAR, scratchpad), a load of a slot, the key a
launch's image is held under, the die-link key of a partition. `dev` is the device id of the sector's device-global address (R140), which is
the cipher's tweak. Log 99 (DEDUCED). -/
inductive KeyTag where
  | clear
  | slot (n load : Nat) (key : List Byte) (dev : Nat)
  | image (key : List Byte) (dev : Nat)
  | link (key : List Byte) (dev : Nat)
  deriving DecidableEq, Repr

/-- A memory with 32-byte sector poison (R91) and, where it holds ciphertext, the key each sector was written under (R105): what stands
in it is that key's ciphertext of `bytes`. -/
structure Store where
  bytes : Mem
  /-- Poisoned sectors, by sector number, rising. -/
  pois : List Nat
  /-- The key of each sector that has been written under one. -/
  keys : Tab KeyTag
  /-- What an unlisted sector holds are the bytes on the bus (host memory, where others write too); elsewhere nothing has been written
  there under a key. -/
  raw : Bool
  deriving DecidableEq, Repr

/-- Log 7 (DESIGN CHOICE). -/
def Store.empty : Store := ⟨[], [], [], false⟩

/-- The tiers of R142. -/
inductive Tier where
  | hbm | vault | host | remote
  deriving DecidableEq, Repr

/-- The coherence attributes of R236. -/
inductive Coh where
  | hw | sw | priv
  deriving DecidableEq, Repr

/-- Where a checked access goes: the outcome of translation (R142 to R144), or a scratchpad. -/
inductive Route where
  | glob (tier : Tier) (coh : Coh) (key : KeyTag) (keyId : Nat) (dev : Nat)
  | scratch (team : Nat)
  deriving DecidableEq, Repr

/-- One byte of a store: the bits of `mask` take `val`. A nibble store (R246) has mask 0x0F or 0xF0. -/
structure ByteWr where
  route : Route
  addr : Nat
  mask : Byte
  val : Byte
  deriving DecidableEq, Repr

/-- The function an atomic applies to each lane's location (R334 to R336). -/
inductive AFun where
  | op (o : AOp) (signed : Bool)
  | cas
  | fadd
  deriving DecidableEq, Repr

/-- One lane of an atomic. -/
structure AtomLane where
  lane : Lane
  route : Route
  addr : Nat
  b : W64
  c : W64
  deriving DecidableEq, Repr

/-- An entry of a group's store buffer (R166, R246, R337), in program order: a store with the sectors its conversions poison, or
an atomic with the tag and register its old values return to. -/
inductive BufOp where
  | store (writes : List ByteWr) (pois : List (Route × Nat)) (rel : Option Scope) (nt : Bool)
  | atomic (lanes : List AtomLane) (f : AFun) (wide : Bool) (ret : Option ARet) (ord : AOrd)
  deriving DecidableEq, Repr

/-- A waymark (R46). `loop` is KIND 1. -/
structure Waymark where
  loop : Bool
  phase : Bool
  rpc : W64
  pmask : LMask
  fmask : LMask
  deriving DecidableEq, Repr

/-- An entry of the operand window (R41, R42): an instruction without a value, an asynchronous producer, a scalar result with
its poison mark, or a vector result with the marks of its low and high halves. -/
inductive WinEntry where
  | none
  | async
  | scalar (v : W64) (p : Bool)
  | vec (v : Vector W64 64) (plo phi : LMask)
  deriving DecidableEq, Repr

/-- An element that a returning sector brings (R39, R40). -/
structure VElem where
  reg : VReg
  lane : Lane
  val : W32
  pois : Bool
  deriving DecidableEq, Repr

/-- One delivery: the vector elements of a sector, SLD's scalar, or what an engine's remote read brings (a sector of a device with its
bytes and poison, or its refusal). -/
inductive Landing where
  | vec (es : List VElem)
  | scal (d : BitVec 6) (v : W64) (p : Bool)
  | sect (dev sec : Nat) (bs : List Byte) (p : Bool)
  | refused (dev sec : Nat)
  deriving DecidableEq, Repr

/-- A pending tag (R38): its destinations, its lanes, the deliveries that have returned and not landed, and how many requests
are unanswered (atomics, MLDA, remote reads). A destination that a younger instruction has renamed no longer lands (R168). -/
structure TagSt where
  regs : List VReg
  sreg : Option (BitVec 6)
  lanes : LMask
  await : Nat
  sects : List Landing
  deadV : List VReg
  deadS : Bool
  /-- Allocated inside the attempt that is open (R373). -/
  att : Bool
  deriving DecidableEq, Repr

/-- The vector, scalar and mask registers with their poison marks (R31 to R37, R428). -/
structure Regs where
  v : Vector (Vector W32 64) 128
  vp : Vector LMask 128
  s : Vector W64 64
  sp : W64
  m : Vector LMask 8
  exm : LMask
  deriving DecidableEq, Repr

/-- The special registers of R45 that a group holds besides its trap context. -/
structure SpecRegs where
  fpflags : BitVec 5
  amax : W32
  budget : Nat
  srseed : Vector W32 64
  privbase : W64
  cause : BitVec 16
  faultmask : W64
  txstatus : Vector W32 64
  /-- Half issue clocks since group start, while resident; CYCLES is its half. -/
  clk2 : Nat
  retired : W64
  deriving DecidableEq, Repr

/-- The trap context (R411), the saved window of the interrupted run (R43, R410) and the arming of R416. -/
structure TrapCtx where
  xpc : W64
  xexm : W64
  xaddr : W64
  stepen : Bool
  pn : Bool
  inh : Bool
  wv : Bool
  rcnt : Nat
  tcode : BitVec 16
  saved : List WinEntry
  /-- R416: armed by RTE or readmission, and whether one instruction has retired since. -/
  armed : Bool
  stepped : Bool
  deriving DecidableEq, Repr

/-- What a group waits for between instructions, or inside one (R154, R356). Log 34 (DEDUCED). -/
inductive Wait where
  | none
  /-- Parked on an object (R356): its route and address; `notified` once its home has notified the core. -/
  | parked (route : Route) (addr : Nat) (notified : Bool)
  /-- A command waiting for entries of the engine queue (R273), or range locks (R266). -/
  | engine
  /-- After YIELD (R192): ready once clk2 reaches the number. -/
  | yielded (till : Nat)
  /-- Blocked in GROW (R169). -/
  | grow (n : Nat)
  /-- A stopover (R149) for the instruction's words, or for its accesses. -/
  | stopover (fetch : Bool)
  /-- The wait of R379 between two attempts. -/
  | retry
  deriving DecidableEq, Repr

/-- The states of a region record (R366). -/
inductive RState where
  | none | open | irrev | wait
  deriving DecidableEq, Repr

/-- A sector a lane has read in its attempt (R368): its bytes and poison at the first read, and its line's version. -/
structure RLog where
  lane : Nat
  route : Route
  sector : Nat
  data : List Byte
  pois : Bool
  deriving DecidableEq, Repr

/-- A byte a lane has written in its attempt, with the poison its conversion created for the sector, and its store's hint (R57). -/
structure WLog where
  lane : Nat
  wr : ByteWr
  pois : Bool
  nt : Bool
  deriving DecidableEq, Repr

/-- The region record (R366) and the logs of the open attempt (R368, R369). -/
structure Region where
  state : RState
  spec : Bool
  ts : Bool
  rpc : W64
  rdepth : Nat
  rfmask : LMask
  rlanes : LMask
  done : LMask
  left : LMask
  pend : LMask
  domain : W64
  domRoute : Option (Route × Nat)
  aborts : Vector Nat 64
  irr : LMask
  due : Vector Nat 64
  start : Vector Nat 64
  order : Vector W32 64
  /-- The lane R379 chose alone, its next attempt being irrevocable. -/
  alone : Option Nat
  /-- Lanes of this attempt: those live at its begin, and those that left through TXABT since. -/
  alive : LMask
  gone : LMask
  /-- The lanes whose turns SPECEND has still to take, in the order it found when it began (R386). -/
  turns : Option (List Nat)
  rlog : List RLog
  wlog : List WLog
  deriving DecidableEq, Repr

/-- A failure of an engine operation (R265): the operation (numbered in order of issue), its batch, its causes, its first address. -/
structure EngFail where
  op : Nat
  batch : Nat
  causes : BitVec 16
  addr : W64
  deriving DecidableEq, Repr

/-- Remote writes of an engine operation (R265): its core, group and stream, its failure, whether its work is over, the writes not yet
acknowledged or refused, by stream and sequence number, with their addresses, and those not yet sent (R403): bytes with their poison and
addresses. -/
structure EngOut where
  op : Nat
  core : Nat
  gid : Nat
  strm : Strm
  fail : Option (BitVec 16 × W64)
  ended : Bool
  writes : List (StreamId × Nat × W64)
  pend : List (ByteWr × Bool × Nat)
  deriving DecidableEq, Repr

/-- A batch stream (R261): CLOSED, the operations of the open set and of closed batches that are not complete (operation and
batch number; the open set's is CLOSED + 1), and the failures not reported. -/
structure Stream where
  closed : Nat
  ops : List (Nat × Nat)
  fails : List EngFail
  deriving DecidableEq, Repr

/-- Why a fetched run ends early (R139): the address of the first word not fetched, and whether the host may serve it. -/
structure FetchStop where
  addr : W64
  stopover : Bool
  deriving DecidableEq, Repr

/-- What an instruction has read before the older ones have retired (R163): the scalar and the vector registers it names, and their values
and the common room's then. -/
structure EarlyRead where
  s : List (BitVec 6)
  v : List (BitVec 7)
  regs : Regs
  c : Vector W64 16
  cp : BitVec 16
  deriving DecidableEq, Repr

/-- An entry of the reorder buffer (R156, R159, R160, R164): a delivered instruction that has not retired, by its words, or the fault of
a word that could not be fetched; whether it fails the checks of R72 (its stop flag); the physical vector and mask registers its
renamed results hold; whether it was delivered in place; what it has read already of registers, and, a load, of memory (R163, R167). Its
completed and faulted masks are those of the one step that executes and retires it. Log 88 (DEDUCED). -/
structure RobEnt where
  words : List W64
  fault : Option FetchStop
  stop : Bool
  vregs : Nat
  mregs : Nat
  inPlace : Bool
  early : Option EarlyRead
  /-- Sectors with their bytes and poison. -/
  got : List ((Route × Nat) × List Byte × Bool)
  deriving DecidableEq, Repr

/-- How far an instruction on records of other devices is: REFCNT's increment has been sent, or has been acknowledged; CUR's replacement has been
sent, or has been made and RETIRED is to be set. -/
inductive RecStage where
  | pinning | pinned | swapping | swapped
  deriving DecidableEq, Repr

/-- The gather instruction of a group whose records lie on other devices, part of it done (R297, R305): its handle, the descriptor pinned and
the place of each; of an ESWAP, the old descriptor, and how far it is. -/
structure RecStep where
  handle : W64
  home : Route × Nat
  cur : W64
  desc : Route × Nat
  stage : RecStage
  deriving DecidableEq, Repr

/-- The merged gradient of one row in a group's gather set (R302, R304). -/
structure MergeRow where
  batch : Nat
  desc : Nat
  row : Nat
  rowVa : Nat
  fmt : MFmt
  g : List W32
  /-- Held in a merge entry of the row's home slice, not in the core's buffer. -/
  atSlice : Bool
  /-- The operation that contributed first, and the order of first contributions (R304). -/
  op : Nat
  age : Nat
  /-- The page a request has been sent for, and whether it has failed. -/
  await : Option (Nat × Bool)
  deriving DecidableEq, Repr

/-- A page a stopover awaits (R149, R151): none while unanswered. -/
abbrev PageWait := Nat × Option PriCode

/-- A remote write of a group that no ACK covers yet (R407): its stream and number, how many system releases of the store buffer it has
passed, whether its stream broke (R405). -/
structure RemWr where
  sid : StreamId
  seq : Nat
  after : Nat
  lost : Bool
  deriving DecidableEq, Repr

/-- A group (R31 to R49, R366, R424). -/
structure Group where
  gid : Nat
  part : Nat
  lid : Nat
  tid : Nat
  /-- Index j in the team. -/
  idx : Nat
  core : Nat
  sub : Nat
  slot : Nat
  privSlot : Nat
  /-- Order of admission to the sub-core: the age of R169. -/
  born : Nat
  regs : Regs
  sr : SpecRegs
  trap : TrapCtx
  /-- t1 to t7 at 1 to 7; none is free. -/
  tags : Vector (Option TagSt) 8
  win : List WinEntry
  pc : W64
  /-- Instructions of the run before pc (RCNT). -/
  runPos : Nat
  /-- Delivered instructions that have not retired, oldest first. -/
  rob : List RobEnt
  /-- The run buffer (R137): the words that are fetched and not delivered, what stopped the fetch, whether it is filled, how many
  instructions of its run come before it, whether its run's delivery has begun. -/
  buf : List W64
  bufStop : Option FetchStop
  fetched : Bool
  bufRun : Nat
  begun : Bool
  /-- The sub-core is delivering this group's run (R155, R156). -/
  delivering : Bool
  /-- The group is ready, and since when (R154). -/
  ready : Bool
  readySince : Nat
  /-- Since when the start of the run it is to fetch has been known (R438). -/
  startKnown : Option Nat
  /-- When its instruction was parked (R356), and its clk2 then (R357). -/
  parkedAt : Nat
  parkedClk : Nat
  wait : Wait
  /-- clk2 when the wait of the oldest instruction began (R417, R357). -/
  waitFrom : Option Nat
  pages : List PageWait
  /-- A stopover has been served once for the instruction's accesses (R149), and the pages of its words that have been served. -/
  served : Bool
  codeServed : List Nat
  /-- The object of the parked instruction was found corrupt: its notification says so (R361). -/
  spoilt : Bool
  wmHw : List Waymark
  wmDepth : Nat
  copyS : Stream
  matrixS : Stream
  gatherS : Stream
  f4 : Option (BitVec 5 × W64 × Bool)
  barTok : Option Bool
  /-- The held task entry: the queue's block and the entry's number in its in-flight table (R362). -/
  task : Option (Route × Nat × Nat)
  region : Region
  stbuf : List BufOp
  /-- Remote writes not yet covered by an ACK (R407). -/
  remWr : List RemWr
  /-- An operation sent to an object of another device: its stream and tag, and the answer: the token (0, 1), 2 the wait is over, 3 a corrupt
  object, 4 an answer lost or refused. -/
  remOp : Option (StreamId × Nat × Option Nat)
  /-- The operation under which its instruction has asked another device for spilled waymarks (R47) or for records (R299). -/
  markOp : Option Nat
  recStep : Option RecStep
  merge : List MergeRow
  /-- Ended through EXIT and awaiting R433, and whether its region, task entry and gather set have been dealt with. -/
  exiting : Bool
  closing : Bool
  killed : Bool
  /-- Chosen for eviction (R421, R422); true under the GROW rules. -/
  evict : Option Bool
  /-- Its clk2 when its tags began to drain for the eviction (R423). -/
  drainFrom : Option Nat
  /-- Readmitted with PN = 1: it stops before it delivers anything (R418). -/
  preempt : Bool
  deriving DecidableEq, Repr

/-- A team (R34, R44, R49, R233, R434). -/
structure Team where
  tid : Nat
  lid : Nat
  part : Nat
  /-- Linear index t, rank i in the cluster, cluster c. -/
  t : Nat
  rank : Nat
  cluster : Nat
  core : Nat
  c : Vector W64 16
  cp : BitVec 16
  /-- The issue clock (counted from 1) and the sub-core of each register's last write (R35). -/
  cLast : Vector (Nat × Nat) 16
  /-- What the register held before the writes of that issue clock, with its poison mark, and the groups that wrote it then. -/
  cPrev : Vector (W64 × Bool × List Nat) 16
  scratchSize : Nat
  scratch : Store
  /-- The scratchpad is allocated on the core (it is saved while the team is evicted). -/
  resident : Bool
  ntiles : Nat
  /-- Accumulator elements by 32768 × tile + 256 × row + column, +0.0 unlisted; poisoned ones rising. -/
  acc : Tab W32
  accP : List Nat
  /-- Groups that have not ended. -/
  live : List Nat
  /-- CAUSE of the first killed group (R415). -/
  killCause : Option (BitVec 16)
  lost : Bool
  ended : Bool
  deriving DecidableEq, Repr

/-- A section of a launch's image with the permissions of its flags (R17). -/
structure Section where
  base : Nat
  size : Nat
  r : Bool
  w : Bool
  x : Bool
  deriving DecidableEq, Repr

/-- A launch in its table: its image, shape and what is in force (R17, R22, R26, R114, R116, R129). -/
structure Launch where
  lid : Nat
  part : Nat
  pair : Nat
  launchId : Nat
  prio : Nat
  resident : Bool
  team : Nat
  clw : Nat
  clh : Nat
  grid : Nat × Nat × Nat
  budget : Nat
  growCeil : Nat
  scratch : Nat
  accum : Nat
  /-- P, private bytes per lane. -/
  priv : Nat
  privVa : Nat
  argAddr : Nat
  entry : Nat
  handler : Option Nat
  pairOk : Bool
  caps : List (W64 × W64)
  keymask : List (Nat × Nat)
  imageBase : Nat
  imageLen : Nat
  /-- The bytes of the loaded sections until the launch is in the table; then they stand in these HBM frames, page by page, under a
  key of the launch's own (R122). -/
  image : Mem
  frames : List Nat
  imageKey : List Byte
  sections : List Section
  rranges : List (Nat × Nat)
  wranges : List (Nat × Nat)
  /-- The object's measurement and BUILDID (R29, R109), and the tier it waits for (R21). -/
  meas : List Byte
  buildId : List Byte
  needTier : Nat
  nextCluster : Nat
  /-- When the lowest unplaced cluster began to wait, and whether it has waited 1 ms (R130). -/
  waitSince : Option Nat
  starved : Bool
  /-- Teams that have ended: linear index, status, cause. -/
  results : List (Nat × Nat × Nat)
  tstart : Option Nat
  startTier : Nat
  hotHalf : Bool
  deriving DecidableEq, Repr

/-- A line that an L1 or a slice copies (R236, R238): tier, line number (physical address / 128), the attribute it came in under, its
bytes, dirty bytes and sector poison, and whether a non-temporal access brought it (R57). A copy of an HW-coherent line is kept equal to
its home and holds no bytes of its own. -/
structure L1Line where
  tier : Tier
  line : Nat
  coh : Coh
  key : KeyTag
  part : Nat
  data : List Byte
  dirty : BitVec 128
  pois : BitVec 4
  nt : Bool
  deriving DecidableEq, Repr

/-- A line that its home slice or vault controller holds (R372, R445): its version, and whether a non-temporal access brought it (R57). -/
structure HeldLine where
  ver : Nat
  nt : Bool
  deriving DecidableEq, Repr

/-- A cached translation (R145): partition, page number (VA / 64 KiB) and the leaf entry used for it. -/
structure TlbEnt where
  part : Nat
  page : Nat
  leaf : W64
  big : Bool
  deriving DecidableEq, Repr

/-- An entry of a walk cache (R145): the level-1 or level-2 entry that walks of a region of addresses read. -/
structure NodeEnt where
  part : Nat
  level : Nat
  index : Nat
  entry : W64
  deriving DecidableEq, Repr

/-- The second-level TLB of a die sector and its walk cache (R145), by sector number. -/
structure SectorTlb where
  ents : List TlbEnt
  nodes : List NodeEnt
  deriving DecidableEq, Repr

/-- An instruction-cache line (R137): its route, line number and words. -/
structure ILine where
  route : Route
  line : Nat
  data : List Byte
  deriving DecidableEq, Repr

/-- A range lock (R266). -/
structure Lock where
  scratch : Option Nat
  first : Nat
  last : Nat
  owner : Nat
  deriving DecidableEq, Repr

/-- An engine command (R273, R290), with the operation, group and tag it answers to and the SRSEED snapshot of MSTA. -/
structure Cmd where
  op : BitVec 8
  tile : BitVec 5
  grp : Nat
  f : BitVec 13
  aval : W64
  bval : W64
  cval : W64
  opId : Nat
  gid : Nat
  tid : Nat
  tag : BitVec 3
  dreg : VReg
  lanes : LMask
  seed : List W32
  /-- The unit's scale operand once its MSCALE has been pushed (R282), and that MSCALE's operation. -/
  scale : Option W64
  scaleOp : Nat
  /-- Where a resumed unit goes on: M-half, K-block, partial sums (R292, R442). -/
  start : Option (Nat × Nat × Option (Tab Int))
  deriving DecidableEq, Repr

/-- The command in execution (R278, R289): next M-half and K-block, tokens taken, the partial P of an F4 block (scaled by 4), and the
commands MRESUME has still to run from its save area. -/
structure Exec where
  cmd : Cmd
  mh : Nat
  kb : Nat
  tokens : Nat
  partialP : Option (Tab Int)
  /-- A page request the engine has sent, and whether it has failed (R265). -/
  await : Option (Nat × Bool)
  deriving DecidableEq, Repr

/-- A tile the operand cache holds (R277). Log 54 (DEDUCED). -/
structure OTile where
  tid : Nat
  handle : Nat
  gen : Nat
  data : List Byte
  pois : List Bool
  deriving DecidableEq, Repr

/-- A copy in flight (R268 to R272). -/
structure CopyOp where
  opId : Nat
  gid : Nat
  tid : Nat
  x : Xform
  desc : List W64
  /-- Ring block offset and the slot's counter when DRING = 1, until a QINIT discards the reservation. -/
  ring : Option (Nat × Nat)
  /-- The scratchpad offset of the reserved slot. -/
  base : Option Nat
  /-- Its batch, and the ring's block where the home has found it corrupt (R361). -/
  batch : Nat
  spoilt : Option W64
  finished : Bool
  /-- A page request the engine has sent, and whether it has failed (R265). -/
  await : Option (Nat × Bool)
  deriving DecidableEq, Repr

/-- A gather-unit operation in flight (R297 to R305). -/
structure GatherOp where
  opId : Nat
  gid : Nat
  tid : Nat
  scatter : Bool
  batch : Nat
  descVa : W64
  descRoute : Route
  descPa : Nat
  desc : List W64
  /-- The team whose scratchpad it names, and the offset there. -/
  scr : Nat
  out : Nat
  /-- Lane, index, weight, and whether the lane begins a bag. -/
  lanes : List (Nat × W32 × W32 × Bool)
  /-- The lanes whose gradient rows have been read. -/
  taken : Nat
  await : Option (Nat × Bool)
  deriving DecidableEq, Repr

/-- A core (R2, R132, R135, R137, R145, R236, R266, R273, R304, R358, R429). -/
structure CoreSt where
  fenced : Bool
  l1 : List L1Line
  icache : List ILine
  /-- The instruction TLBs of its sub-cores (R137), and its data TLB (R145). -/
  itlbs : Vector (List TlbEnt) 4
  dtlb : List TlbEnt
  locks : List Lock
  cmds : List Cmd
  run : Option Exec
  claimedBy : Option Nat
  /-- Tokens granted to the unit at the head of the queue or in execution, and those of ended bursts to be returned. -/
  tokens : Nat
  giveBack : Nat
  /-- Waiting for tokens since (time), and whether this core has seen the message pass since. -/
  tokWait : Option Nat
  tokSeen : Bool
  ocache : List OTile
  copies : List CopyOp
  gathers : List GatherOp
  heat : Bool
  temp : Nat
  coolSince : Nat
  droop : Bool
  droops : List Nat
  /-- Teams placed here under the all-avoided rule (R133). -/
  hotTeams : List Nat
  asleep : Bool
  /-- Half issue clocks of the core until an instruction re-executes there after a wake-up. -/
  wakeIn : Option Nat
  /-- Lines of other devices that fetches of a partition have asked for, by operation (R137). -/
  codeReqs : List (Nat × Nat × Route × Nat)
  /-- The issue clock, plus one, of the last push to the command queue, and the sub-core that made it (R273). -/
  pushAt : Nat × Nat
  deriving DecidableEq, Repr

/-- A die's token ring and power state (R135, R136). -/
structure DieSt where
  /-- Tokens the message carries, the core it reaches next, its reservation, and how many tokens are in service. -/
  count : Nat
  pos : Nat
  resv : Option Nat
  limit : Nat
  withdraw : Nat
  power : Nat
  overSince : Option Nat
  minSince : Option Nat
  underSince : Option Nat
  /-- Tokens are being restored: when the next one is. -/
  restoreAt : Option Nat
  halved : Bool
  /-- Channels 0 to 63: uncorrectable errors with their times, and whether fenced (R431). -/
  chErrs : List (Nat × Nat)
  chFenced : List Nat
  /-- Write-backs to fenced channels that were discarded (R431). -/
  backsLost : Nat
  deriving DecidableEq, Repr

/-- An entry of a task queue's in-flight table (R128): its number, its dwords, whether its slot's sector was poisoned, and the group
it has been given to. -/
structure TaskEnt where
  num : Nat
  dws : List W64
  pois : Bool
  given : Option Nat
  deriving DecidableEq, Repr

structure TaskTab where
  route : Route
  addr : Nat
  next : Nat
  ents : List TaskEnt
  /-- Groups waiting in TASKWAIT, longest first. -/
  waiters : List Nat
  deriving DecidableEq, Repr

/-- What the launch controller has made of a submission queue's head (R115, R117): it awaits page responses (each page with its
outcome), it is refused with a status, or it may enter the table once its tier is reached. -/
inductive HeadSt where
  | paging (pages : List (Nat × Option Bool)) (op : Nat)
  | refused (launchId status : Nat)
  | ready (l : Launch)
  deriving DecidableEq, Repr

/-- A host queue pair (R112, R113): QSETn's fields, DROPS, the vault frames in which its two queue objects stand, and its checked head. -/
structure QPair where
  en : Bool
  msix : BitVec 8
  cqlog : Nat
  sqlog : Nat
  drops : Nat
  frames : List Nat
  head : Option HeadSt
  deriving DecidableEq, Repr

/-- A page request of a partition (R148, R149): its page, the accesses asked for, whether sent. -/
structure PageReq where
  page : Nat
  rd : Bool
  wr : Bool
  ex : Bool
  sent : Bool
  deriving DecidableEq, Repr

/-- A descriptor that an ESWAP has replaced: where it stands, the launch of the group that did it (R298), and whether REFCNT = 0 and
RETIRED = 1 have come about. -/
structure OldDesc where
  route : Route
  addr : Nat
  descVa : W64
  launchId : Nat
  due : Bool
  deriving DecidableEq, Repr

/-- A descriptor waiting to be released (R297). -/
structure Release where
  descVa : Nat
  route : Route
  addr : Nat
  pair : Nat
  launchId : Nat
  version : Nat
  deriving DecidableEq, Repr

/-- A partition and the BAR0 registers of its virtual function (R101, R112, R146, R148, R239, R391, R406, R432, R437). -/
structure Part where
  id : Nat
  sectors : List Nat
  cgroups : List Nat
  /-- The die-link key (R105). -/
  dieKey : List Byte
  ptroot : W64
  pricfg : W64
  tlbiVa : W64
  tlbiBusy : Bool
  tlbiAll : Bool
  /-- The first page and the count of the invalidation that runs. -/
  tlbiFrom : Nat
  tlbiPages : Nat
  flVa : W64
  flBusy : Bool
  flAll : Bool
  flFrom : Nat
  flPages : Nat
  qpairs : Vector QPair 8
  table : List Nat
  priEnabled : Bool
  priFailed : Bool
  /-- The Outstanding Page Request Allocation of its PRI capability (R148). -/
  priAlloc : Nat
  reqs : List PageReq
  /-- ATS is enabled, and the translations of host frames obtained by it (R152). -/
  atsEnabled : Bool
  ats : List Nat
  atsBusy : Bool
  serialHolder : Option Nat
  serialQueue : List Nat
  tasks : List TaskTab
  /-- Lines that commits hold locked, by number, with the group of each commit (R374, R443). -/
  txLocks : List (Nat × List Nat)
  /-- Groups in the waiter set or wait list of an object (R356), oldest first. -/
  waiters : List (Route × Nat × Nat)
  /-- Waits of groups of other devices on barriers homed here: address, stream of the answer, tag, token. -/
  remWaiters : List (Nat × StreamId × Nat × Bool)
  /-- Notifications to groups of other devices that wait for an ACK on their stream (R403): address, stream, tag. -/
  remDue : List (Nat × StreamId × Nat)
  /-- Operations on records of other devices that nobody waits for (R297): stream, place, code, operands. -/
  recDue : List (StreamId × (Route × Nat) × Nat × List Nat)
  /-- Order numbers handed to a domain's home (R388): the domain and the number. -/
  orders : List (Route × Nat × W32)
  releases : List Release
  /-- Descriptors an ESWAP has replaced; those that are due come first, in the order in which they became so. -/
  retired : List OldDesc
  faberr : W64
  contain : W64
  containPa : W64
  /-- TOKWAIT, in half issue clocks. -/
  tokwait : Nat
  mergeovf : Nat
  evicts : Nat
  launches : Nat
  abnormal : Nat
  regpois : Nat
  mempois : Nat
  fences : Nat
  corrected : Nat
  failed : Bool
  /-- The lines that its slices and vault controllers hold (R372, R445), and the slices' floors. -/
  lines : Tab (Option HeldLine)
  floors : Tab Nat
  /-- Core-private owner records: line number and core (R237). -/
  owners : List (Nat × Nat × Tier)
  /-- Home-slice copies of host-tier lines (R236). -/
  hostCopies : List L1Line
  measured : List (List Byte)
  deriving DecidableEq, Repr

/-- A key slot (R107): owner, key id, key bytes, digests, and the number of its load (R108). -/
structure KeySlot where
  owner : Nat
  keyId : Nat
  key : List Byte
  digests : List (List Byte)
  load : Nat
  closed : Bool
  deriving DecidableEq, Repr

/-- A packet in an egress queue with where it is bound inside the package: the Emlys port it leaves by, or 16 and the die it is for; and the
port it came in by (R389, R390). -/
structure Hop where
  pkt : Pkt
  out : Nat
  inp : Nat
  deriving DecidableEq, Repr

/-- An egress port: its register block and queues (R394 to R396), 0 to 15 Emlys, 16 + 3d + k UCIe. -/
structure Port where
  w : W64
  th0 : W64
  th1 : W64
  assigned : Bool
  owner : Nat
  queues : Vector (List Hop) 8
  deficit : Vector Nat 8
  /-- The class each group of classes served last: bulk, sync. -/
  lastBulk : Nat
  lastSync : Nat
  /-- Counters of R408 by 8 × counter + class. -/
  ctrs : Tab Nat
  deriving DecidableEq, Repr

/-- The source's side of a stream (R392, R403 to R405): next number, unacknowledged packets with the time of the last sending and
timer resends. -/
structure SrcStream where
  sid : StreamId
  next : Nat
  fresh : Bool
  unacked : List (Nat × Pkt × Nat × Nat)
  broken : Bool
  deriving DecidableEq, Repr

/-- The destination's side (R400 to R402): NEXT, packets received and not applied with the ports they came by, numbers applied beyond NEXT,
holes with the time they were recorded and the port of the packet that revealed them (40 for none), applications since the last ACK and the
time of the oldest of them. -/
structure DstStream where
  sid : StreamId
  next : Nat
  held : List (Nat × Pkt × Nat)
  applied : List Nat
  holes : List (Nat × Nat × Nat)
  sinceAck : Nat
  oldest : Option Nat
  deriving DecidableEq, Repr

/-- A remote request awaiting its response: TAG, the group and tag it answers, the elements it fills (register, lane, byte offset
in the response, part of the element), whether younger memory instructions wait for it, and the requests whose elements land with
its own (`batch`) with those that have come. -/
structure RemReq where
  tag : Nat
  sid : StreamId
  gid : Nat
  ttag : BitVec 3
  fmt : MFmt
  elems : List (VReg × Lane × Nat × Nat)
  scal : Option (BitVec 6 × Nat)
  acq : Bool
  batch : Nat
  got : Option (List Landing)
  /-- The engine operation the sector is for, and the sector asked for. -/
  eng : Option Nat
  sec : Nat
  /-- How many system releases of the group's store buffer it comes after (R407). -/
  after : Nat
  deriving DecidableEq, Repr

/-- A re-request that waits to be sent (R401): its stream, the number asked for, when its hole was recorded, whether it asks for RESYNC, and the
port by which the packet came that revealed the hole it is for. -/
structure RReq where
  sid : StreamId
  seq : Nat
  time : Nat
  resync : Bool
  port : Option Nat
  deriving DecidableEq, Repr

structure Fabric where
  devid : Nat
  rto : Nat
  maxrs : Nat
  ports : Vector Port 40
  /-- Routing entries by 4096 × partition + device (R391). -/
  routes : Tab W64
  src : List SrcStream
  dst : List DstStream
  reqs : List RemReq
  nextTag : Nat
  /-- Re-requests waiting, and the time of the last sending to each device. -/
  rreqs : List RReq
  rreqLast : Tab Nat
  deriving DecidableEq, Repr

/-- The boot record's fields in force and what firmware has reached (R99, R100). -/
structure Boot where
  record : Option (List Byte)
  verified : Bool
  bad : Bool
  tokens : Nat
  split : Nat
  fwDigest : W64
  fw : List Byte
  fwLoaded : Bool
  tier : Nat
  deriving DecidableEq, Repr

/-- An evicted unit in the context store (R424, R425), in order of eviction; `byGrow` readmits to its own sub-core with the
request named (R170). -/
structure Saved where
  g : Group
  byGrow : Bool
  order : Nat
  deriving DecidableEq, Repr

/-- A team whose engine state and scratchpad are saved (R293, R425): the save area's commands. -/
structure SavedTeam where
  tid : Nat
  cur : Option Exec
  cmds : List Cmd
  deriving DecidableEq, Repr

/-- What the device has sent to the host: MSI-X vectors, page requests, writes of poisoned sectors with EP set (R95), management
reports, SPDM responses, invalidation completions. Log 85 (DESIGN CHOICE). -/
inductive Notice where
  | msix (part : Nat) (vector : Nat)
  | pageRequest (part page : Nat) (rd wr ex last : Bool) (pasid : Option Nat) (group : Nat)
  | poisonedWrite (sector : Nat)
  | bootrecBad
  | atsDone (part : Nat)
  | read (v : List Byte)
  | spdm (fn : Nat) (kind : String) (body : List Byte)
  | keyload (fn : Nat) (status : String)
  deriving DecidableEq, Repr

/-- The whole device. The last fields are the model's own: what happens around the device in the steps to come (`agenda`, with
none letting the device act by itself; `pace`, the issue clocks of each step), counters that name things, and `free`, which numbers
the open choices taken so far. -/
structure State where
  groups : List Group
  teams : List Team
  launches : List Launch
  parts : List Part
  cores : List (Nat × CoreSt)
  /-- Second-level TLBs by die sector (R145). -/
  xlats : List (Nat × SectorTlb)
  dies : Vector DieSt 8
  /-- HBM and vaults by device-local physical address (R140). -/
  dev : Store
  host : Store
  slots : List (Nat × KeySlot)
  boot : Boot
  fabric : Fabric
  saved : List Saved
  /-- What is left of groups that have ended while their team has not: streams, failures, rows of gather batches (R433). -/
  ended : List Group
  savedTeams : List SavedTeam
  /-- Time in units of 1/34 ns: an issue clock of 1.7 GHz is 20 (R4, R121). -/
  now : Nat
  /-- The group whose instruction executes. -/
  cur : Option Nat
  notices : List Notice
  /-- Sectors that engines' remote reads have brought, by operation. -/
  engIn : List (Nat × Landing)
  /-- Engine operations with remote writes on their way. -/
  engOut : List EngOut
  /-- Notifications on their way from an object's home to a core (R356): partition, core, route, address. -/
  notes : List (Nat × Nat × Route × Nat)
  /-- SPDM sessions by function: opened by KEY_EXCHANGE, true once FINISH has established it (R109). -/
  sessions : List (Nat × Bool)
  agenda : List (Option Instr)
  pace : List Nat
  nextId : Nat
  nextLoad : Nat
  free : Nat
  deriving DecidableEq, Repr

def QPair.reset : QPair := ⟨false, 0, 0, 0, 0, [], none⟩

/-- R395: the weights and thresholds at reset. Log 8 (DESIGN CHOICE). -/
def Port.reset : Port where
  w := 0x0010080820100804#64
  th0 := (192 <<< 48) ||| (128 <<< 32) ||| (256 <<< 16) ||| 64
  th1 := (1024 <<< 32) ||| (1024 <<< 16) ||| 1024
  assigned := false
  owner := 0
  queues := Vector.replicate 8 []
  deficit := Vector.replicate 8 0
  lastBulk := 3
  lastSync := 6
  ctrs := []

/-- Log 8 (DESIGN CHOICE). -/
def Fabric.reset : Fabric where
  devid := 0
  rto := 32
  maxrs := 8
  ports := Vector.replicate 40 Port.reset
  routes := []
  src := []
  dst := []
  reqs := []
  nextTag := 0
  rreqs := []
  rreqLast := []

/-- Log 8 (DESIGN CHOICE). -/
def DieSt.reset : DieSt where
  count := 36
  pos := 0
  resv := none
  limit := 36
  withdraw := 0
  power := 0
  overSince := none
  minSince := none
  underSince := none
  restoreAt := none
  halved := false
  chErrs := []
  chFenced := []
  backsLost := 0

/-- Log 8 (DESIGN CHOICE). -/
def Boot.reset : Boot where
  record := none
  verified := false
  bad := false
  tokens := 0
  split := 0
  fwDigest := 0
  fw := []
  fwLoaded := false
  tier := 0

/-- A core with nothing resident. Log 8 (DESIGN CHOICE). -/
def CoreSt.reset : CoreSt where
  fenced := false
  l1 := []
  icache := []
  itlbs := Vector.replicate 4 []
  dtlb := []
  locks := []
  cmds := []
  run := none
  claimedBy := none
  tokens := 0
  giveBack := 0
  tokWait := none
  tokSeen := false
  ocache := []
  copies := []
  gathers := []
  heat := false
  temp := 0
  coolSince := 0
  droop := false
  droops := []
  hotTeams := []
  asleep := false
  wakeIn := none
  codeReqs := []
  pushAt := (0, 0)

def Stream.reset : Stream := ⟨0, [], []⟩

def Region.reset : Region where
  state := .none
  spec := false
  ts := false
  rpc := 0
  rdepth := 0
  rfmask := 0
  rlanes := 0
  done := 0
  left := 0
  pend := 0
  domain := 0
  domRoute := none
  aborts := Vector.replicate 64 0
  irr := 0
  due := Vector.replicate 64 0
  start := Vector.replicate 64 0
  order := Vector.replicate 64 0
  alone := none
  alive := 0
  gone := 0
  turns := none
  rlog := []
  wlog := []

/-- Registers at group start (R49). -/
def Regs.start : Regs where
  v := Vector.replicate 128 (Vector.replicate 64 0)
  vp := Vector.replicate 128 0
  s := Vector.replicate 64 0
  sp := 0
  m := Vector.replicate 8 0
  exm := 0xFFFFFFFFFFFFFFFF

def SpecRegs.start (budget : Nat) (privbase : W64) : SpecRegs where
  fpflags := 0
  amax := 0
  budget := budget
  srseed := Vector.ofFn fun l => BitVec.ofNat 32 (l.val + 1)
  privbase := privbase
  cause := 0
  faultmask := 0
  txstatus := Vector.replicate 64 0
  clk2 := 0
  retired := 0

def TrapCtx.start : TrapCtx where
  xpc := 0
  xexm := 0
  xaddr := 0
  stepen := false
  pn := false
  inh := false
  wv := false
  rcnt := 0
  tcode := 0
  saved := []
  armed := false
  stepped := false

/-- The registers of a virtual function when its partition is created (R146). Log 9 (DESIGN CHOICE). -/
def Part.create (id : Nat) (sectors cgroups : List Nat) (dieKey : List Byte) : Part where
  id := id
  sectors := sectors
  cgroups := cgroups
  dieKey := dieKey
  ptroot := 0
  pricfg := 0
  tlbiVa := 0
  tlbiBusy := false
  tlbiAll := false
  tlbiFrom := 0
  tlbiPages := 0
  flVa := 0
  flBusy := false
  flAll := false
  flFrom := 0
  flPages := 0
  qpairs := Vector.replicate 8 QPair.reset
  table := []
  priEnabled := true
  priFailed := false
  priAlloc := 64
  reqs := []
  atsEnabled := true
  ats := []
  atsBusy := false
  serialHolder := none
  serialQueue := []
  tasks := []
  txLocks := []
  waiters := []
  remWaiters := []
  remDue := []
  recDue := []
  orders := []
  releases := []
  retired := []
  faberr := 0
  contain := 0
  containPa := 0
  tokwait := 0
  mergeovf := 0
  evicts := 0
  launches := 0
  abnormal := 0
  regpois := 0
  mempois := 0
  fences := 0
  corrected := 0
  failed := false
  lines := []
  floors := []
  owners := []
  hostCopies := []
  measured := []

/-- The device after power-on: no boot record read, tier 0, no partition, no launch, no group; memories with nothing written. Log 6 (DESIGN CHOICE), 7 (DESIGN CHOICE). -/
def State.reset : State where
  groups := []
  teams := []
  launches := []
  parts := []
  cores := []
  xlats := []
  dies := Vector.replicate 8 DieSt.reset
  dev := Store.empty
  host := { Store.empty with raw := true }
  slots := []
  boot := Boot.reset
  fabric := Fabric.reset
  saved := []
  ended := []
  savedTeams := []
  now := 0
  cur := none
  notices := []
  engIn := []
  engOut := []
  notes := []
  sessions := []
  agenda := []
  pace := []
  nextId := 1
  nextLoad := 1
  free := 0

end Sys2Proof.Machine
end

