-- ==== Sys2Proof/Machine/Tab.lean ====
section
/-! DEFINITION. Tables and memories in canonical form: reading, writing, sector poison and key tags, little-endian words. -/

namespace Sys2Proof.Machine

open Sys2Proof

/-- The entry of `n`, the default where none is listed. Log 86 (DESIGN CHOICE). -/
def Tab.get {α : Type} (d : α) : Tab α → Nat → α
  | [], _ => d
  | (k, x) :: t, n => if n = k then x else if n < k then d else Tab.get d t n

/-- The table with the entry of `n` made `v`. -/
def Tab.set {α : Type} [DecidableEq α] (d : α) : Tab α → Nat → α → Tab α
  | [], n, v => if v = d then [] else [(n, v)]
  | (k, x) :: t, n, v =>
    if n < k then (if v = d then (k, x) :: t else (n, v) :: (k, x) :: t)
    else if n = k then (if v = d then t else (n, v) :: t)
    else (k, x) :: Tab.set d t n v

/-- Keys rise strictly above `lo` and no entry is the default. -/
def Tab.wfFrom {α : Type} [DecidableEq α] (d : α) (lo : Nat) : Tab α → Bool
  | [] => true
  | (k, x) :: t => decide (lo ≤ k) && decide (x ≠ d) && Tab.wfFrom d (k + 1) t

/-- The canonical form. -/
def Tab.wf {α : Type} [DecidableEq α] (d : α) (t : Tab α) : Bool := Tab.wfFrom d 0 t

/-- Sets of numbers as strictly rising lists. -/
def nsHas : List Nat → Nat → Bool
  | [], _ => false
  | k :: t, n => if n = k then true else if n < k then false else nsHas t n
def nsAdd : List Nat → Nat → List Nat
  | [], n => [n]
  | k :: t, n => if n < k then n :: k :: t else if n = k then k :: t else k :: nsAdd t n
def nsDel : List Nat → Nat → List Nat
  | [], _ => []
  | k :: t, n => if n = k then t else if n < k then k :: t else k :: nsDel t n
def nsSet (l : List Nat) (n : Nat) (b : Bool) : List Nat := if b then nsAdd l n else nsDel l n
/-- The list rises strictly from `lo`. -/
def nsWfFrom (lo : Nat) : List Nat → Bool
  | [] => true
  | k :: t => decide (lo ≤ k) && nsWfFrom (k + 1) t
def nsWf (l : List Nat) : Bool := nsWfFrom 0 l

/-- A byte of memory; an address nothing has written reads 0. Log 7 (DESIGN CHOICE). -/
def Mem.read (m : Mem) (a : Nat) : Byte := Tab.get 0 m a
def Mem.write (m : Mem) (a : Nat) (b : Byte) : Mem := Tab.set 0 m a b
/-- The canonical form of memory: strictly rising addresses, no byte listed that reads 0. -/
def Mem.wf (m : Mem) : Bool := Tab.wf (0 : Byte) m

/-- Writes the bytes of a list from an address upward. -/
def Mem.writeList (m : Mem) (a : Nat) : List Byte → Mem
  | [] => m
  | b :: bs => Mem.writeList (Mem.write m a b) (a + 1) bs

/-- Sets to zero `n` bytes from `a`. -/
def Mem.clear (m : Mem) (a n : Nat) : Mem := m.filter fun c => c.1 < a || a + n ≤ c.1

/-- The key pair of a tag. -/
def KeyTag.pair : KeyTag → Option (List Byte)
  | .clear => none
  | .slot _ _ k _ | .image k _ | .link k _ => some k

/-- A key and the tweak of a sector's device-global address (R105, R140). Log 99 (DEDUCED). -/
def KeyTag.tweak (k : KeyTag) (sec : Nat) : Nat :=
  match k with
  | .clear => 32 * sec
  | .slot _ _ _ d | .image _ d | .link _ d => d * 2 ^ 48 + 32 * sec

/-- The tag is that of a load of a slot. -/
def KeyTag.isLoad (n load : Nat) : KeyTag → Bool
  | .slot m l _ _ => m == n && l == load
  | _ => false

/-- What a sector's ciphertext depends on. -/
def KeyTag.same (a b : KeyTag) : Bool := a.pair == b.pair && (a.pair.isNone || a.tweak 0 == b.tweak 0)

/-- A sector as it stands outside the trust boundary under a key, and as it reads through one (R105). -/
def KeyTag.sealSec (k : KeyTag) (sec : Nat) (bs : List Byte) : List Byte :=
  match k.pair with
  | none => bs
  | some x => Aes.encSector x (k.tweak sec) bs
def KeyTag.openSec (k : KeyTag) (sec : Nat) (bs : List Byte) : List Byte :=
  match k.pair with
  | none => bs
  | some x => Aes.decSector x (k.tweak sec) bs

/-- The key under which a sector's stored bytes read as they are: none where nothing has been written under one. Log 12 (DESIGN CHOICE). -/
def Store.tagOf (s : Store) (sec : Nat) : Option KeyTag :=
  match s.keys.find? (·.1 == sec) with
  | some x => some x.2
  | none => if s.raw then some .clear else none

def Store.stored (s : Store) (sec : Nat) : List Byte := (List.range 32).map fun i => Mem.read s.bytes (sec * 32 + i)

/-- Whether a sector reads under a key as it is stored. -/
def Store.reads (s : Store) (k : KeyTag) (sec : Nat) : Bool :=
  match s.tagOf sec with
  | none => true
  | some w => w.same k

/-- A sector read under a key (R105): as stored where it was written under that key, else the decryption of its ciphertext. -/
def Store.readSec (s : Store) (k : KeyTag) (sec : Nat) : List Byte :=
  if s.reads k sec then s.stored sec
  else
    let x := k.openSec sec (((s.tagOf sec).getD .clear).sealSec sec (s.stored sec))
    (List.range 32).map fun i => x[i]?.getD 0

/-- A byte read under a key. -/
def Store.readAs (s : Store) (k : KeyTag) (a : Nat) : Byte :=
  if s.reads k (a / 32) then Mem.read s.bytes a else (s.readSec k (a / 32))[a % 32]?.getD 0

/-- The masked bits of a byte. -/
def maskByte (old mask val : Byte) : Byte := (old &&& ~~~mask) ||| (val &&& mask)

/-- The sector as it stands under a key: where it was written under another one, its bytes become what they read as under this one. Log 11 (DEDUCED). -/
def Store.rekey (s : Store) (k : KeyTag) (sec : Nat) : Store :=
  if s.reads k sec then { s with keys := Tab.set .clear s.keys sec k }
  else { s with bytes := Mem.writeList s.bytes (sec * 32) (s.readSec k sec), keys := Tab.set .clear s.keys sec k }

/-- Writes the masked bits of a byte under a key. Log 11 (DEDUCED). -/
def Store.writeAs (s : Store) (k : KeyTag) (a : Nat) (mask val : Byte) : Store :=
  let t := s.rekey k (a / 32)
  { t with bytes := Mem.write t.bytes a (maskByte (t.readAs k a) mask val) }

/-- The `n` bytes from `a`, whole sectors, as though nothing had written them. -/
def Store.clear (s : Store) (a n : Nat) : Store :=
  { s with
    bytes := Mem.clear s.bytes a n
    keys := s.keys.filter fun x => decide (x.1 < a / 32) || decide ((a + n) / 32 ≤ x.1)
    pois := s.pois.filter fun x => decide (x < a / 32) || decide ((a + n) / 32 ≤ x) }

def Store.poisoned (s : Store) (sec : Nat) : Bool := nsHas s.pois sec
def Store.setPois (s : Store) (sec : Nat) (b : Bool) : Store := { s with pois := nsSet s.pois sec b }

/-- Both tables of a store are canonical. -/
def Store.wf (s : Store) : Bool := Mem.wf s.bytes && nsWf s.pois && Tab.wf KeyTag.clear s.keys

/-- The number a little-endian byte list stands for (R7). -/
def leNat : List Byte → Nat
  | [] => 0
  | b :: bs => b.toNat + 256 * leNat bs
/-- The `n` little-endian bytes of a number. -/
def natLe : Nat → Nat → List Byte
  | 0, _ => []
  | n + 1, x => BitVec.ofNat 8 x :: natLe n (x / 256)

/-- Bits hi:lo of a number. -/
def bits (x hi lo : Nat) : Nat := x / 2 ^ lo % 2 ^ (hi + 1 - lo)

/-- Doubleword n of a record. -/
def dw (r : List Byte) (n : Nat) : Nat := leNat ((r.drop (8 * n)).take 8)

/-- Replaces an element of a list. -/
def setAt {α : Type} : List α → Nat → α → List α
  | [], _, _ => []
  | _ :: t, 0, y => y :: t
  | x :: t, n + 1, y => x :: setAt t n y

/-- The number of one bits (R178). -/
def popc {w : Nat} (x : BitVec w) : Nat := (List.range w).countP x.getLsbD

/-- The lowest one bit, `w` when none. -/
def lowBit {w : Nat} (x : BitVec w) : Nat := ((List.range w).find? x.getLsbD).getD w

/-- The mask of one lane. -/
def laneBit (l : Nat) : LMask := (1 : LMask) <<< l

/-- A lane mask from a predicate. -/
def maskOf (p : Lane → Bool) : LMask := (List.finRange 64).foldl (fun m l => if p l then m ||| laneBit l.val else m) 0

/-- The lanes of a mask in ascending order. -/
def lanesOf (m : LMask) : List Lane := (List.finRange 64).filter fun l => m.getLsbD l.val

end Sys2Proof.Machine
end

