-- ==== Sys2Proof/Machine/Operands.lean ====
section
/-! DEFINITION. What an instruction names (operands, destinations, header) and how its operands are read: every operand form of R59
with its poison mark (R41, R173, R203). -/

namespace Sys2Proof.Machine

open Sys2Proof

/-- The header of an encoded instruction; none for a device step. -/
def iHdr : Instr → Option Hdr
  | .nop h | .br h _ | .brc h _ _ _ | .brd h _ _ _ | .join h | .loop h _ | .brk h _ _ _ | .call h _ _ | .ret h _ | .jmpr h _
  | .exit h | .trap h _ | .rte h | .yield h => some h
  | .sadd h _ _ _ _ _ | .ssub h _ _ _ _ _ | .smul h _ _ _ _ _ | .smulh h _ _ _ _ | .sand h _ _ _ _ | .sor h _ _ _ _
  | .sxor h _ _ _ _ | .sshl h _ _ _ _ | .sshr h _ _ _ _ | .ssar h _ _ _ _ | .smin h _ _ _ _ | .smax h _ _ _ _
  | .scmp h _ _ _ _ _ | .ssel h _ _ _ _ _ | .smov h _ _ _ | .sbit h _ _ _ _ | .sli h _ _ | .slih h _ _ _ => some h
  | .rdsr h _ _ | .wrsr h _ _ | .grow h _ | .twait h _ | .clrc h _ | .mmov h _ _ | .mlog h _ _ _ _ | .mpopc h _ _
  | .mfirst h _ _ | .mrd h _ _ | .mwr h _ _ | .mtest h _ _ _ => some h
  | .vadd h _ _ _ _ _ _ | .vsub h _ _ _ _ _ _ | .vmul h _ _ _ _ _ _ | .vmulh h _ _ _ _ _ | .vmad h _ _ _ _ _ _ _
  | .vaddc h _ _ _ _ _ _ | .vand h _ _ _ _ _ | .vor h _ _ _ _ _ | .vxor h _ _ _ _ _ | .vshl h _ _ _ _ _ | .vshr h _ _ _ _ _
  | .vsar h _ _ _ _ _ | .vmin h _ _ _ _ _ | .vmax h _ _ _ _ _ | .vabsd h _ _ _ _ _ | .vbit h _ _ _ _ _ | .vcmp h _ _ _ _ _ _
  | .vsel h _ _ _ _ _ _ | .vmov h _ _ _ _ | .vli h _ _ | .vidx h _ _ _ _ _ | .vpermb h _ _ _ _ => some h
  | .vfadd h _ _ _ _ _ | .vfsub h _ _ _ _ _ | .vfmul h _ _ _ _ _ | .vfma h _ _ _ _ _ _ | .vfmin h _ _ _ _ | .vfmax h _ _ _ _
  | .vfcmp h _ _ _ _ _ | .vfclass h _ _ _ | .vfrnd h _ _ _ _ | .vfcvt h _ _ _ _ _ | .vrcp h _ _ _ | .vrsq h _ _ _
  | .vsqrt h _ _ _ | .vexp2 h _ _ _ | .vlog2 h _ _ _ | .vsinpi h _ _ _ | .vcospi h _ _ _ | .vtanh h _ _ _ => some h
  | .vshfl h _ _ _ _ _ _ | .vbcast h _ _ _ _ _ | .vred h _ _ _ _ _ | .vredf h _ _ _ _ | .vscan h _ _ _ _ _ _
  | .vcomp h _ _ _ _ | .vexpd h _ _ _ _ => some h
  | .vld h _ _ _ _ _ _ _ _ | .vldIndexed h _ _ _ _ _ _ _ _ _ | .vldb h _ _ _ _ _ _ _ _ | .vst h _ _ _ _ _ _ _ _
  | .vstIndexed h _ _ _ _ _ _ _ _ _ | .vstAmax h _ _ _ _ _ _ _ _ | .vstAmaxIndexed h _ _ _ _ _ _ _ _ _ | .vlds h _ _ _ _ _ _ _
  | .vsts h _ _ _ _ _ _ _ | .vldp h _ _ _ _ _ _ _ | .vstp h _ _ _ _ _ _ _ | .sld h _ _ _ _ _ _ _ | .sst h _ _ _ _ _ _
  | .pref h _ _ _ _ | .cwb h _ _ | .cinv h _ _ | .icinv h _ _ => some h
  | .atom h _ _ _ _ _ _ _ | .acas h _ _ _ _ _ _ _ | .afadd h _ _ _ _ _ | .fence h _ _ _ | .bara h _ _ _ _ | .barw h _ _ _ _
  | .bar h _ _ _ => some h
  | .qpush h _ _ _ | .qpop h _ _ _ | .qtrypush h _ _ _ | .qtrypop h _ _ _ | .sqpush h _ _ | .sqpop h _ _ | .qstat h _ _
  | .qinit h _ _ _ | .taskwait h _ | .taskdone h _ => some h
  | .cpy h _ _ | .bclose h _ _ | .bwait h _ _ | .egath h _ _ _ _ _ _ | .escat h _ _ _ _ | .eswap h _ _ | .mma h _ _ _ _ _
  | .mscale h _ _ _ | .mzero h _ | .mlda h _ _ _ _ _ | .msta h _ _ _ _ _ _ | .msave h _ | .mresume h _ => some h
  | .txbeg h _ _ | .txend h _ | .txabt h _ | .txstat h _ _ | .specbeg h _ _ _ | .specend h => some h
  | _ => none

def bitOps {α : Type} : BitOp α → List α
  | .bfx p n => [p, n]
  | _ => []

def addrU : Option UAddr → List UOp
  | some x => [x.a]
  | none => []

/-- The operands of kind u (R61). All three of an SSEL are consumed, the one not selected too. Log 105 (DESIGN CHOICE). -/
def iUs : Instr → List UOp
  | .brc _ c _ _ => [c]
  | .ret _ a | .jmpr _ a => [a]
  | .sadd _ _ a b _ _ | .ssub _ _ a b _ _ | .smul _ _ a b _ _ => [a, b]
  | .smulh _ _ a b _ | .sand _ _ a b _ | .sor _ _ a b _ | .sxor _ _ a b _ | .sshl _ _ a b _ | .sshr _ _ a b _
  | .ssar _ _ a b _ | .smin _ _ a b _ | .smax _ _ a b _ | .scmp _ _ a b _ _ => [a, b]
  | .ssel _ _ a b c _ => [a, b, c]
  | .smov _ _ a _ | .slih _ _ a _ => [a]
  | .sbit _ _ a op _ => a :: bitOps op
  | .wrsr _ n (.u a) => if n = .srseed then [] else [a]
  | .mwr _ _ a => [a]
  | .mtest _ _ _ b => [b]
  | .vbcast _ _ _ b _ _ => [b]
  | .vldb _ _ _ a _ _ _ _ _ => [a]
  | .sld _ _ _ a _ _ _ _ => [a]
  | .sst _ d a _ _ _ _ => [d, a]
  | .cwb _ x _ | .cinv _ x _ | .icinv _ x _ => addrU x
  | .bara _ _ a _ _ | .bar _ a _ _ => [a]
  | .barw _ a b _ _ => [a, b]
  | .qinit _ a b c => [a, b, c]
  | .bwait _ a _ => [a]
  | .egath _ d a _ _ _ _ | .escat _ d a _ _ => [d, a]
  | .eswap _ a b => [a, b]
  | .mma _ _ a b _ _ | .mscale _ _ a b => [a, b]
  | .mlda _ _ _ _ b _ => [b]
  | .msta _ _ b c _ _ _ => [b, c]
  | .msave _ a | .mresume _ a => [a]
  | .specbeg _ a _ _ => [a]
  | _ => []

/-- The operands of kind o, each with whether it is read at width 64. -/
def iOs : Instr → List (Bool × OOp)
  | .wrsr _ n a => if n = .srseed then [(false, a)] else []
  | .vadd _ _ a b _ t _ | .vsub _ _ a b _ t _ | .vmul _ _ a b _ t _ => [(t.wide, a), (t.wide, b)]
  | .vmulh _ _ a b _ t | .vand _ _ a b _ t | .vor _ _ a b _ t | .vxor _ _ a b _ t | .vmin _ _ a b _ t | .vmax _ _ a b _ t
  | .vabsd _ _ a b _ t | .vshl _ _ a b _ t | .vshr _ _ a b _ t | .vsar _ _ a b _ t => [(t.wide, a), (t.wide, b)]
  | .vmad _ _ a b c _ t _ => [(t.wide, a), (t.wide, b), (t.wide, c)]
  | .vaddc _ _ a b _ t _ => [(t.wide, a), (t.wide, b)]
  | .vbit _ _ a op _ t => (t.wide, a) :: (bitOps op).map fun x => (t.wide, x)
  | .vcmp _ _ a b _ t _ | .vsel _ _ a b _ t _ => [(t.wide, a), (t.wide, b)]
  | .vmov _ _ a _ t => [(t.wide, a)]
  | .vidx _ _ a b _ _ | .vpermb _ _ a b _ => [(false, a), (false, b)]
  | .vfadd _ _ a b _ _ | .vfsub _ _ a b _ _ | .vfmul _ _ a b _ _ | .vfcmp _ _ a b _ _ => [(false, a), (false, b)]
  | .vfma _ _ a b c _ _ => [(false, a), (false, b), (false, c)]
  | .vfmin _ _ a b _ | .vfmax _ _ a b _ => [(false, a), (false, b)]
  | .vfclass _ _ a _ | .vfrnd _ _ a _ _ | .vrcp _ _ a _ | .vrsq _ _ a _ | .vsqrt _ _ a _ | .vexp2 _ _ a _ | .vlog2 _ _ a _
  | .vsinpi _ _ a _ | .vcospi _ _ a _ | .vtanh _ _ a _ => [(false, a)]
  | .vfcvt _ _ a _ t _ => [(t.wideSrc, a)]
  | .vshfl _ _ a b _ t _ => [(t.wide, a), (false, b)]
  | .vbcast _ _ a _ _ t | .vcomp _ _ a _ t | .vexpd _ _ a _ t => [(t.wide, a)]
  | .vred _ _ a _ t _ => [(t.wide, a)]
  | .vredf _ _ a _ _ => [(false, a)]
  | .vscan _ _ a _ _ _ _ => [(false, a)]
  | .vld _ _ _ a _ _ _ _ _ => [(true, a)]
  | .vldIndexed _ _ _ a b _ _ _ _ _ => [(true, a), (false, b)]
  | .vst _ d a _ _ f _ _ _ | .vstAmax _ d a _ _ f _ _ _ => [(f.wide, d), (true, a)]
  | .vstIndexed _ d a b _ _ f _ _ _ | .vstAmaxIndexed _ d a b _ _ f _ _ _ => [(f.wide, d), (true, a), (false, b)]
  | .vlds _ _ _ a _ _ _ _ | .vldp _ _ _ a _ _ _ _ => [(false, a)]
  | .vsts _ d a _ _ f _ _ | .vstp _ d a _ _ f _ _ => [(f.wide, d), (false, a)]
  | .pref _ a _ _ _ => [(true, a)]
  | .atom _ _ a b _ f _ _ => [(true, a), (f.wide, b)]
  | .acas _ _ a b c _ f _ => [(true, a), (f.wide, b), (f.wide, c)]
  | .afadd _ _ a b _ _ => [(true, a), (false, b)]
  | .egath _ _ _ b c _ _ => [(false, b), (false, c)]
  | .escat _ _ _ b _ => [(false, b)]
  | .specbeg _ _ b _ => [(false, b)]
  | _ => []

/-- A register and, at width 64, the odd one of its pair (R32). -/
def pairRegs (w : Bool) (n : VReg) : List VReg := if w then [n, n + 1] else [n]
def optRegs (w : Bool) : Option VReg → List VReg
  | some n => pairRegs w n
  | none => []
def retRegs (w : Bool) : Option ARet → List VReg
  | some r => pairRegs w r.d
  | none => []

/-- The vector registers an instruction names as its destination. -/
def iVds : Instr → List VReg
  | .rdsr _ (some (.v d)) _ => [d]
  | .vadd _ d _ _ _ t _ | .vsub _ d _ _ _ t _ | .vmul _ d _ _ _ t _ | .vaddc _ d _ _ _ t _ | .vsel _ d _ _ _ t _ => optRegs t.wide d
  | .vmulh _ d _ _ _ t | .vand _ d _ _ _ t | .vor _ d _ _ _ t | .vxor _ d _ _ _ t | .vshl _ d _ _ _ t | .vshr _ d _ _ _ t
  | .vsar _ d _ _ _ t | .vmin _ d _ _ _ t | .vmax _ d _ _ _ t | .vabsd _ d _ _ _ t | .vbit _ d _ _ _ t => optRegs t.wide d
  | .vmad _ d _ _ _ _ t _ => optRegs t.wide d
  | .vmov _ d _ _ t => optRegs t.wide d
  | .vli _ d _ | .vidx _ d _ _ _ _ | .vpermb _ d _ _ _ => optRegs false d
  | .vfadd _ d _ _ _ _ | .vfsub _ d _ _ _ _ | .vfmul _ d _ _ _ _ | .vfma _ d _ _ _ _ _ | .vfmin _ d _ _ _ | .vfmax _ d _ _ _
  | .vfclass _ d _ _ | .vfrnd _ d _ _ _ | .vrcp _ d _ _ | .vrsq _ d _ _ | .vsqrt _ d _ _ | .vexp2 _ d _ _ | .vlog2 _ d _ _
  | .vsinpi _ d _ _ | .vcospi _ d _ _ | .vtanh _ d _ _ => optRegs false d
  | .vfcvt _ d _ _ t _ => optRegs t.wideDst d
  | .vshfl _ d _ _ _ t _ => optRegs t.wide d
  | .vbcast _ d _ _ _ t | .vcomp _ d _ _ t | .vexpd _ d _ _ t => optRegs t.wide d
  | .vscan _ d _ _ _ _ _ => optRegs false d
  | .vld _ _ d _ _ _ f _ _ | .vldb _ _ d _ _ _ f _ _ => pairRegs f.wide d
  | .vldIndexed _ _ d _ _ _ _ f _ _ => pairRegs f.wide d
  | .vlds _ _ d _ _ _ f _ | .vldp _ _ d _ _ _ f _ => pairRegs f.wide d
  | .atom _ r _ _ _ f _ _ => retRegs f.wide r
  | .acas _ r _ _ _ _ f _ => retRegs f.wide r
  | .afadd _ r _ _ _ _ => retRegs false r
  | .qpush _ d _ _ | .qpop _ d _ _ | .qtrypush _ d _ _ | .qtrypop _ d _ _ => [d]
  | .mlda _ _ d _ _ _ => [d]
  | .txstat _ d _ => optRegs false d
  | _ => []

/-- The vector destinations that are renamed (R159): not an asynchronous producer's, nor what a push names. -/
def iRenames (i : Instr) : List VReg :=
  match i with
  | .qpush _ _ _ _ | .qtrypush _ _ _ _ => []
  | .vld _ _ _ _ _ _ _ _ _ | .vldb _ _ _ _ _ _ _ _ _ | .vldIndexed _ _ _ _ _ _ _ _ _ _ | .vlds _ _ _ _ _ _ _ _
  | .vldp _ _ _ _ _ _ _ _ | .mlda _ _ _ _ _ _ | .atom _ _ _ _ _ _ _ _ | .acas _ _ _ _ _ _ _ _ | .afadd _ _ _ _ _ _ => []
  | i => iVds i

/-- The scalar or common-room destination of an instruction. -/
def iSd : Instr → Option SDst
  | .sadd _ d _ _ _ _ | .ssub _ d _ _ _ _ | .smul _ d _ _ _ _ => d
  | .smulh _ d _ _ _ | .sand _ d _ _ _ | .sor _ d _ _ _ | .sxor _ d _ _ _ | .sshl _ d _ _ _ | .sshr _ d _ _ _ | .ssar _ d _ _ _
  | .smin _ d _ _ _ | .smax _ d _ _ _ => d
  | .scmp _ d _ _ _ _ | .ssel _ d _ _ _ _ | .smov _ d _ _ | .sbit _ d _ _ _ | .sli _ d _ | .slih _ d _ _ => d
  | .rdsr _ (some (.s d)) _ => some d
  | .mpopc _ d _ | .mfirst _ d _ | .mrd _ d _ | .mtest _ d _ _ | .vred _ d _ _ _ _ | .vredf _ d _ _ _ => d
  | .bclose _ d _ | .bara _ d _ _ _ | .qstat _ d _ => d
  | .call _ d _ => some d
  | .sld _ _ d _ _ _ _ _ => some (.s d)
  | _ => none

/-- A mask register or EXM is an instruction's destination. -/
def iMaskDst : Instr → Bool
  | .mmov _ _ _ | .mlog _ _ _ _ _ | .mwr _ _ _ | .vcmp _ _ _ _ _ _ _ | .vfcmp _ _ _ _ _ _ | .vaddc _ _ _ _ _ _ _
  | .brd _ _ _ _ | .brk _ _ _ _ | .join _ | .exit _ | .rte _ | .qtrypush _ _ _ _ | .qtrypop _ _ _ _ => true
  | .txbeg _ _ _ | .txend _ _ | .txabt _ _ | .specbeg _ _ _ _ | .specend _ => true
  | _ => false

/-- The mask select of a vector instruction (R10): 0 for none. -/
def iSel : Instr → BitVec 3
  | .vadd _ _ _ _ sel _ _ | .vsub _ _ _ _ sel _ _ | .vmul _ _ _ _ sel _ _ | .vmulh _ _ _ _ sel _ | .vmad _ _ _ _ _ sel _ _
  | .vaddc _ _ _ _ sel _ _ | .vand _ _ _ _ sel _ | .vor _ _ _ _ sel _ | .vxor _ _ _ _ sel _ | .vshl _ _ _ _ sel _
  | .vshr _ _ _ _ sel _ | .vsar _ _ _ _ sel _ | .vmin _ _ _ _ sel _ | .vmax _ _ _ _ sel _ | .vabsd _ _ _ _ sel _
  | .vbit _ _ _ _ sel _ | .vcmp _ _ _ _ sel _ _ | .vsel _ _ _ _ sel _ _ | .vmov _ _ _ sel _ | .vidx _ _ _ _ sel _
  | .vpermb _ _ _ _ sel | .vfadd _ _ _ _ sel _ | .vfsub _ _ _ _ sel _ | .vfmul _ _ _ _ sel _ | .vfma _ _ _ _ _ sel _
  | .vfmin _ _ _ _ sel | .vfmax _ _ _ _ sel | .vfcmp _ _ _ _ sel _ | .vfclass _ _ _ sel | .vfrnd _ _ _ sel _
  | .vfcvt _ _ _ sel _ _ | .vrcp _ _ _ sel | .vrsq _ _ _ sel | .vsqrt _ _ _ sel | .vexp2 _ _ _ sel | .vlog2 _ _ _ sel
  | .vsinpi _ _ _ sel | .vcospi _ _ _ sel | .vtanh _ _ _ sel | .vshfl _ _ _ _ sel _ _ | .vbcast _ _ _ _ sel _
  | .vred _ _ _ sel _ _ | .vredf _ _ _ sel _ | .vscan _ _ _ sel _ _ _ | .vcomp _ _ _ sel _ | .vexpd _ _ _ sel _
  | .vld _ _ _ _ _ sel _ _ _ | .vldIndexed _ _ _ _ _ _ sel _ _ _ | .vldb _ _ _ _ _ sel _ _ _ | .vst _ _ _ _ sel _ _ _ _
  | .vstIndexed _ _ _ _ _ sel _ _ _ _ | .vstAmax _ _ _ _ sel _ _ _ _ | .vstAmaxIndexed _ _ _ _ _ sel _ _ _ _
  | .vlds _ _ _ _ _ sel _ _ | .vsts _ _ _ _ sel _ _ _ | .vldp _ _ _ _ _ sel _ _ | .vstp _ _ _ _ sel _ _ _ | .pref _ _ _ sel _
  | .atom _ _ _ _ sel _ _ _ | .acas _ _ _ _ _ sel _ _ | .afadd _ _ _ _ sel _ | .qpush _ _ _ sel | .qpop _ _ _ sel
  | .qtrypush _ _ _ sel | .qtrypop _ _ _ sel | .egath _ _ _ _ _ sel _ | .escat _ _ _ _ sel | .mlda _ _ _ _ _ sel
  | .txbeg _ sel _ | .txend _ sel | .txabt _ sel | .txstat _ _ sel | .specbeg _ _ _ sel => sel
  | _ => 0

/-- The mask registers an instruction reads: EXM where it acts on lanes, its select, and its mask operands (R36, R37). -/
def iMsrcs (i : Instr) : List MOp :=
  (if (iVds i).isEmpty && (iOs i).isEmpty then [] else .exm :: if iSel i = 0 then [] else [.m (iSel i)]) ++
  match i with
  | .mmov _ _ a | .mpopc _ _ a | .mfirst _ _ a | .mrd _ _ a | .mtest _ _ a _ => [a]
  | .mlog _ _ a b _ => [a, b]
  | .vaddc _ _ _ _ _ _ k | .vsel _ _ _ _ _ _ k => [.m k]
  | _ => []

/-- The mask registers an instruction writes. -/
def iMdsts : Instr → List MOp
  | .mmov _ d _ | .mlog _ d _ _ _ | .mwr _ d _ => [d]
  | .vcmp _ d _ _ _ _ _ | .vfcmp _ d _ _ _ _ => [.m d]
  | .vaddc _ _ _ _ _ _ k => [.m k]
  | .brd _ _ _ _ | .brk _ _ _ _ | .join _ => [.exm]
  | _ => []

/-- Instructions that order accesses (R196, R320, R326, R350): no younger read of the common room or of memory passes them. -/
def iOrders : Instr → Bool
  | .fence _ _ _ _ | .bara _ _ _ _ _ | .barw _ _ _ _ _ | .bar _ _ _ _ | .join _ | .bwait _ _ _ => true
  | .qpush _ _ _ _ | .qpop _ _ _ _ | .qtrypush _ _ _ _ | .qtrypop _ _ _ _ | .sqpush _ _ _ | .sqpop _ _ _ | .qinit _ _ _ _
  | .taskwait _ _ | .taskdone _ _ => true
  | _ => false

/-- Instructions that no younger one reads its operands past: those whose destinations are not all among the registers they name, GROW,
the instructions of attempts, and TWAIT, of which the spec says only that younger ones wait behind it at retirement (R184). Log 88 (DEDUCED). -/
def iOpaque : Instr → Bool
  | .qpop _ _ _ _ | .qtrypop _ _ _ _ | .sqpop _ _ _ | .taskwait _ _ | .mlda _ _ _ _ _ _ | .grow _ _ | .twait _ _ => true
  | .txbeg _ _ _ | .specbeg _ _ _ _ | .txend _ _ | .specend _ | .txabt _ _ => true
  | _ => false

/-- Instructions that read what they read when they are the oldest (R180, R350). -/
def iAtHead (i : Instr) : Bool :=
  iOrders i || iOpaque i ||
  (match i with
    | .wrsr _ _ _ => true
    | _ => false)

/-- The accumulator tiles an instruction names. -/
def iTiles : Instr → List Nat
  | .mma _ d _ _ _ _ | .mscale _ d _ _ | .mzero _ d => [d.toNat]
  | .mlda _ _ _ a _ _ | .msta _ a _ _ _ _ _ => [a.toNat]
  | _ => []

/-- Asynchronous producers allocating a tag (R66): the tag, 0 for none. -/
def iTag : Instr → BitVec 3
  | .vld _ t _ _ _ _ _ _ _ | .vldb _ t _ _ _ _ _ _ _ => t
  | .vldIndexed _ t _ _ _ _ _ _ _ _ => t
  | .vlds _ t _ _ _ _ _ _ | .vldp _ t _ _ _ _ _ _ | .sld _ t _ _ _ _ _ _ => t
  | .mlda _ t _ _ _ _ => t
  | .atom _ (some r) _ _ _ _ _ _ | .acas _ (some r) _ _ _ _ _ _ | .afadd _ (some r) _ _ _ _ => r.ta
  | _ => 0

/-- The control-transfer instructions of R63. -/
def iCT : Instr → Bool
  | .br _ _ | .brc _ _ _ _ | .brd _ _ _ _ | .join _ | .brk _ _ _ _ | .call _ _ _ | .ret _ _ | .jmpr _ _ | .exit _ | .trap _ _
  | .rte _ | .yield _ | .txend _ _ | .txabt _ _ | .specend _ => true
  | _ => false

/-- TXBEG and SPECBEG, which must begin their run (R63). -/
def iBegins : Instr → Bool
  | .txbeg _ _ _ | .specbeg _ _ _ _ => true
  | _ => false

/-- Matrix, embedding and copy-engine instructions, which tier 1 does not serve (R100). -/
def iEngine : Instr → Bool
  | .cpy _ _ _ | .egath _ _ _ _ _ _ _ | .escat _ _ _ _ _ | .eswap _ _ _ | .mma _ _ _ _ _ _ | .mscale _ _ _ _ | .mzero _ _
  | .mlda _ _ _ _ _ _ | .msta _ _ _ _ _ _ _ | .msave _ _ | .mresume _ _ => true
  | _ => false

def isExm : MOp → Bool
  | .exm => true
  | _ => false

/-- The instructions that abort every lane of an OPEN attempt with INSTR whatever the state (R370). -/
def iTxBreaks : Instr → Bool
  | .atom _ _ _ _ _ _ _ _ | .acas _ _ _ _ _ _ _ _ | .afadd _ _ _ _ _ _ | .fence _ _ _ _ | .bara _ _ _ _ _ | .barw _ _ _ _ _
  | .bar _ _ _ _ => true
  | .qpush _ _ _ _ | .qpop _ _ _ _ | .qtrypush _ _ _ _ | .qtrypop _ _ _ _ | .sqpush _ _ _ | .sqpop _ _ _ | .qstat _ _ _
  | .qinit _ _ _ _ | .taskwait _ _ | .taskdone _ _ | .bclose _ _ _ | .bwait _ _ _ => true
  | .cwb _ _ _ | .cinv _ _ _ | .icinv _ _ _ | .exit _ | .trap _ _ | .txbeg _ _ _ | .specbeg _ _ _ _ => true
  | .mmov _ d _ | .mlog _ d _ _ _ | .mwr _ d _ => isExm d
  | i => iEngine i

/-- The words an instruction takes (R60). -/
def iWords (i : Instr) : Nat := if i.lits.isEmpty then 1 else 2

/-- The window references of an instruction: how far back, and whether it must hold a scalar (R42, R61). -/
def iWins (i : Instr) : List (Nat × Bool) :=
  ((iUs i).filterMap fun x => match x with | .win n => some (n.toNat, true) | _ => none) ++
  ((iOs i).filterMap fun x => match x.2 with | .u (.win n) => some (n.toNat, false) | _ => none)

/-- Whether a window reference can be read (R42). -/
def winOk (w : List WinEntry) (r : Nat × Bool) : Bool :=
  match w[r.1]? with
  | some (.scalar _ _) => true
  | some (.vec _ _ _) => !r.2
  | _ => false

/-- The vector registers named as sources. -/
def iVsrcs (i : Instr) : List VReg :=
  (iOs i).flatMap fun x => match x.2 with | .v n => pairRegs x.1 n | _ => []

-- reading

/-- The 64-bit value of a constant (R59). -/
def constVal : UConst → W64
  | .zero => 0 | .one => 0x3F800000 | .half => 0x3F000000 | .two => 0x40000000 | .negOne => 0xBF800000
  | .allOnes => 0xFFFFFFFFFFFFFFFF

/-- A scalar register: s0 reads zero (R33). -/
def Regs.getS (r : Regs) (n : BitVec 6) : W64 := if n = 0 then 0 else r.s[n.toNat]
def Regs.getSP (r : Regs) (n : BitVec 6) : Bool := n != 0 && r.sp.getLsbD n.toNat
def Regs.getV (r : Regs) (n : VReg) (l : Lane) : W32 := (r.v[n.toNat])[l.val]
def Regs.getVP (r : Regs) (n : VReg) (l : Lane) : Bool := (r.vp[n.toNat]).getLsbD l.val

/-- What an instruction's operands are read from: its group's registers and window, its team's common-room registers. -/
structure Src where
  regs : Regs
  win : List WinEntry
  c : Vector W64 16
  cp : BitVec 16

/-- The 64-bit value of a uniform operand and whether it is marked poisoned (R59, R173). -/
def rdU (x : Src) : UOp → W64 × Bool
  | .s n => (x.regs.getS n, x.regs.getSP n)
  | .c n => (x.c[n.toNat], x.cp.getLsbD n.toNat)
  | .win n =>
    match x.win[n.toNat]? with
    | some (.scalar v p) => (v, p)
    | _ => (0, false)
  | .k y => (constVal y, false)
  | .lit v => (v, false)

/-- The 32-bit value of an operand in a lane. -/
def rd32 (x : Src) (o : OOp) (l : Lane) : W32 × Bool :=
  match o with
  | .v n => (x.regs.getV n l, x.regs.getVP n l)
  | .lane => (BitVec.ofNat 32 l.val, false)
  | .u (.win n) =>
    match x.win[n.toNat]? with
    | some (.vec v plo _) => ((v[l.val]).setWidth 32, plo.getLsbD l.val)
    | some (.scalar v p) => (v.setWidth 32, p)
    | _ => (0, false)
  | .u y => ((rdU x y).1.setWidth 32, (rdU x y).2)

/-- The 64-bit value of an operand in a lane (R32). -/
def rd64 (x : Src) (o : OOp) (l : Lane) : W64 × Bool :=
  match o with
  | .v n => (x.regs.getV (n + 1) l ++ x.regs.getV n l, x.regs.getVP n l || x.regs.getVP (n + 1) l)
  | .lane => (BitVec.ofNat 64 l.val, false)
  | .u (.win n) =>
    match x.win[n.toNat]? with
    | some (.vec v plo phi) => (v[l.val], plo.getLsbD l.val || phi.getLsbD l.val)
    | some (.scalar v p) => (v, p)
    | _ => (0, false)
  | .u y => rdU x y

/-- An operand at width 64 or 32 as a 64-bit value, zero-extended. -/
def rdW (w : Bool) (x : Src) (o : OOp) (l : Lane) : W64 × Bool :=
  if w then rd64 x o l else ((rd32 x o l).1.setWidth 64, (rd32 x o l).2)

/-- A mask operand (R36). -/
def rdM (r : Regs) : MOp → LMask
  | .m n => r.m[n.toNat]
  | .exm => r.exm

/-- mask(sel) of R10. -/
def selMask (r : Regs) (sel : BitVec 3) : LMask := if sel = 0 then 0xFFFFFFFFFFFFFFFF else r.m[sel.toNat]

/-- EXM & mask(sel): the active lanes (R10). -/
def active (r : Regs) (sel : BitVec 3) : LMask := r.exm &&& selMask r sel

end Sys2Proof.Machine
end

