-- ==== Sys2Proof/Machine/Ops.lean ====
section
/-! DEFINITION. The named operations every instruction is built from: finding and replacing groups, teams and cores; tags and
deliveries; writing results; aborting transactional lanes; stopping a group and taking its handler; retirement; the issue of one
instruction with the checks of R72. -/

namespace Sys2Proof.Machine

open Sys2Proof

-- finding and replacing

def State.group? (s : State) (gid : Nat) : Option Group := s.groups.find? (·.gid == gid)
def State.setGroup (s : State) (g : Group) : State :=
  { s with groups := s.groups.map fun x => if x.gid = g.gid then g else x }
def State.team? (s : State) (tid : Nat) : Option Team := s.teams.find? (·.tid == tid)
def State.setTeam (s : State) (t : Team) : State :=
  { s with teams := s.teams.map fun x => if x.tid = t.tid then t else x }
def State.launch? (s : State) (lid : Nat) : Option Launch := s.launches.find? (·.lid == lid)
def State.setLaunch (s : State) (l : Launch) : State :=
  { s with launches := s.launches.map fun x => if x.lid = l.lid then l else x }
def State.part? (s : State) (p : Nat) : Option Part := s.parts.find? (·.id == p)
def State.setPart (s : State) (p : Part) : State :=
  { s with parts := s.parts.map fun x => if x.id = p.id then p else x }
/-- A core's state; a core with nothing recorded is as after reset. Log 86 (DESIGN CHOICE). -/
def State.core (s : State) (n : Nat) : CoreSt := ((s.cores.find? (·.1 == n)).map (·.2)).getD CoreSt.reset
def State.setCore (s : State) (n : Nat) (c : CoreSt) : State :=
  if s.cores.any (·.1 == n) then { s with cores := s.cores.map fun x => if x.1 = n then (n, c) else x }
  else { s with cores := s.cores ++ [(n, c)] }
def State.modCore (s : State) (n : Nat) (f : CoreSt → CoreSt) : State := s.setCore n (f (s.core n))
def State.modPart (s : State) (p : Nat) (f : Part → Part) : State :=
  { s with parts := s.parts.map fun x => if x.id = p then f x else x }
def State.modGroup (s : State) (g : Nat) (f : Group → Group) : State :=
  { s with groups := s.groups.map fun x => if x.gid = g then f x else x }
def State.modTeam (s : State) (t : Nat) (f : Team → Team) : State :=
  { s with teams := s.teams.map fun x => if x.tid = t then f x else x }
def State.modLaunch (s : State) (l : Nat) (f : Launch → Launch) : State :=
  { s with launches := s.launches.map fun x => if x.lid = l then f x else x }
/-- The group whose instruction executes. -/
def State.curGroup (s : State) : Option Group := s.cur.bind s.group?
/-- Device time in issue clocks, and in ns (R121). -/
def State.ic (s : State) : Nat := s.now / 20
def State.ns (s : State) : Nat := s.now / 34
/-- The die of a core (R124). -/
def dieOf (core : Nat) : Nat := core / 48
def State.die (s : State) (d : Nat) : DieSt := if h : d < 8 then s.dies[d] else DieSt.reset
def State.setDie (s : State) (d : Nat) (x : DieSt) : State := { s with dies := s.dies.setIfInBounds d x }
/-- Log 85 (DESIGN CHOICE). -/
def State.notify (s : State) (n : Notice) : State := { s with notices := s.notices ++ [n] }
/-- An open choice among `k` outcomes; none is taken where there is only one. Log 1 (DESIGN CHOICE). -/
def State.choose (s : State) (k : Nat) : Nat × State :=
  if k ≤ 1 then (0, s) else (Config.choice s.free % k, { s with free := s.free + 1 })

/-- The issue clock of a core is halved (R100, R133, R136): its die, a launch that started below tier 3, a team placed hot, for every team there
and until that team has ended there. Log 103 (DESIGN CHOICE). -/
def halved (s : State) (core : Nat) : Bool :=
  (s.die (dieOf core)).halved ||
  ((s.core core).hotTeams.any fun n => s.teams.any fun t => t.tid == n && t.core == core && t.resident && !t.ended) ||
  s.teams.any fun t => t.core == core && t.resident && !t.ended && ((s.launch? t.lid).map fun l => decide (l.startTier < 3)).getD false

/-- The issue clock of a core, by the full-rate clock in which it begins: a halved clock begins at an even one. -/
def coreClock (s : State) (core : Nat) : Nat := if halved s core then s.ic / 2 * 2 else s.ic

-- register writes

def Regs.setS (r : Regs) (n : BitVec 6) (v : W64) (p : Bool) : Regs :=
  if n = 0 then r
  else { r with s := r.s.setIfInBounds n.toNat v, sp := if p then r.sp ||| (1#64 <<< n.toNat) else r.sp &&& ~~~(1#64 <<< n.toNat) }
/-- Writes the lanes of `mask` of a vector register; a lane not written keeps its element (R200). -/
def Regs.setV (r : Regs) (n : VReg) (mask : LMask) (f : Lane → W32) : Regs :=
  { r with
    v := r.v.setIfInBounds n.toNat (Vector.ofFn fun l => if mask.getLsbD l.val then f l else r.getV n l)
    vp := r.vp.setIfInBounds n.toNat (r.vp[n.toNat] &&& ~~~mask) }
def Regs.setElem (r : Regs) (n : VReg) (l : Lane) (v : W32) (p : Bool) : Regs :=
  { r with
    v := r.v.setIfInBounds n.toNat ((r.v[n.toNat]).setIfInBounds l.val v)
    vp := r.vp.setIfInBounds n.toNat (if p then r.vp[n.toNat] ||| laneBit l.val else r.vp[n.toNat] &&& ~~~laneBit l.val) }
def Regs.setM (r : Regs) (n : BitVec 3) (x : LMask) : Regs := { r with m := r.m.setIfInBounds n.toNat x }
def Regs.setMOp (r : Regs) (d : MOp) (x : LMask) : Regs :=
  match d with
  | .m n => r.setM n x
  | .exm => { r with exm := x }

/-- The registers as an instruction that has read the ones it names sees them. -/
def EarlyRead.onto (e : EarlyRead) (r : Regs) : Regs :=
  let r := e.s.foldl (fun r n => r.setS n (e.regs.getS n) (e.regs.getSP n)) r
  e.v.foldl (fun r n => { r with v := r.v.setIfInBounds n.toNat e.regs.v[n.toNat], vp := r.vp.setIfInBounds n.toNat e.regs.vp[n.toNat] }) r

/-- A common-room register was written in this issue clock, and not by this group: a read of it does not observe that (R35). -/
def cUnseen (clock gid : Nat) (t : Team) (n : Fin 16) : Bool :=
  decide ((t.cLast[n.val]).1 = clock + 1) && !(t.cPrev[n.val]).2.2.contains gid

/-- The common room as a group reads it in an issue clock of its core (R35). -/
def roomC (clock gid : Nat) (t : Team) : Vector W64 16 :=
  Vector.ofFn fun n => if cUnseen clock gid t n then (t.cPrev[n.val]).1 else t.c[n.val]
def roomCp (clock gid : Nat) (t : Team) : BitVec 16 :=
  (List.finRange 16).foldl (fun x n =>
    if (if cUnseen clock gid t n then (t.cPrev[n.val]).2.1 else t.cp.getLsbD n.val) then x ||| (1#16 <<< n.val) else x) 0

/-- What the operands of a group's instruction are read from: what it has read already (R163), else its registers and its team's. -/
def srcOf (s : State) (g : Group) : Src :=
  match g.rob.head?.bind (·.early), s.team? g.tid with
  | some e, _ => ⟨e.onto g.regs, g.win, e.c, e.cp⟩
  | none, some t => ⟨g.regs, g.win, roomC (coreClock s g.core) g.gid t, roomCp (coreClock s g.core) g.gid t⟩
  | none, none => ⟨g.regs, g.win, Vector.replicate 16 0, 0⟩

-- tags (R38 to R40, R167, R168)

/-- Marks a destination that a younger instruction renames: pending sectors no longer land in it (R168). Log 15 (DESIGN CHOICE). -/
def renameV (tags : Vector (Option TagSt) 8) (rs : List VReg) : Vector (Option TagSt) 8 :=
  tags.map fun t => t.map fun x => { x with deadV := x.deadV ++ rs.filter fun r => x.regs.contains r && !x.deadV.contains r }
/-- Log 15 (DESIGN CHOICE). -/
def renameS (tags : Vector (Option TagSt) 8) (n : BitVec 6) : Vector (Option TagSt) 8 :=
  tags.map fun t => t.map fun x => if x.sreg = some n then { x with deadS := true } else x

/-- Log 15 (DESIGN CHOICE). -/
def landElems (dead : List VReg) (r : Regs) : List VElem → Regs
  | [] => r
  | e :: es => landElems dead (if dead.contains e.reg then r else r.setElem e.reg e.lane e.val e.pois) es

/-- One delivery: its elements are written together (R40). -/
def landOne (t : TagSt) (r : Regs) : Landing → Regs
  | .vec es => landElems t.deadV r es
  | .scal d v p => if t.deadS then r else r.setS d v p
  | .sect _ _ _ _ | .refused _ _ => r

def landAll (t : TagSt) (r : Regs) : List Landing → Regs
  | [] => r
  | x :: xs => landAll t (landOne t r x) xs

/-- Lands delivery `k` of tag `n`; the tag becomes free with its last one (R39). Log 15 (DESIGN CHOICE). -/
def landTag (g : Group) (n k : Nat) : Group :=
  match g.tags[n]?.join with
  | none => g
  | some t =>
    match t.sects[k]? with
    | none => g
    | some x =>
      let rest := t.sects.eraseIdx k
      let t' := if rest.isEmpty && t.await == 0 then none else some { t with sects := rest }
      { g with regs := landOne t g.regs x, tags := g.tags.setIfInBounds n t' }

/-- Waits for a tag: every delivery that has returned lands, in order; none while a request is unanswered. Log 15 (DESIGN CHOICE). -/
def waitTag (g : Group) (n : Nat) : Option Group :=
  match g.tags[n]?.join with
  | none => some g
  | some t =>
    if t.await = 0 then some { g with regs := landAll t g.regs t.sects, tags := g.tags.setIfInBounds n none }
    else none

/-- Log 15 (DESIGN CHOICE). -/
def waitTags (g : Group) : List Nat → Option Group
  | [] => some g
  | n :: ns => (waitTag g n).bind fun g' => waitTags g' ns

def allTags : List Nat := [1, 2, 3, 4, 5, 6, 7]

/-- Allocates a tag for a producer (R38); one with nothing outstanding is free at once. -/
def allocTag (g : Group) (n : BitVec 3) (regs : List VReg) (sreg : Option (BitVec 6)) (lanes : LMask) (await : Nat)
    (sects : List Landing) : Group :=
  if n = 0 ∨ (await = 0 ∧ sects = []) then g
  else
    { g with tags := g.tags.setIfInBounds n.toNat (some ⟨regs, sreg, lanes, await, sects, [], false, g.region.state == .open⟩) }

-- physical registers (R159, R168)

/-- The resident groups of a sub-core. -/
def onSub (s : State) (core sub : Nat) : List Group := s.groups.filter fun x => x.core == core && x.sub == sub && decide (x.slot < 8)

/-- Physical vector registers that a group's renamed results hold (R159), and those that landing tags keep (R168). -/
def heldRegs (g : Group) : Nat :=
  (g.rob.map (·.vregs)).sum + (g.tags.toList.map fun t => match t with
    | some t => t.deadV.length
    | none => 0).sum

/-- Physical vector registers of a sub-core that no budget binds, no renamed result holds and no landing tag keeps (R159, R168). -/
def freeRegs (s : State) (core sub : Nat) : Nat :=
  384 - (((onSub s core sub).map fun x => x.sr.budget).sum + ((onSub s core sub).map heldRegs).sum)

/-- All B registers of a group are bound (R131): results and tags that were there before it have freed them. -/
def regsBound (s : State) (g : Group) : Bool :=
  let gs := onSub s g.core g.sub
  decide (((gs.filter fun x => x.born ≤ g.born).map fun x => x.sr.budget).sum + (gs.map heldRegs).sum ≤ 384)

-- results

/-- What the register held before this issue clock, and who has written it in this one. -/
def prevC (clock gid : Nat) (n : BitVec 4) (t : Team) : W64 × Bool × List Nat :=
  if (t.cLast[n.toNat]).1 = clock + 1 then
    ((t.cPrev[n.toNat]).1, (t.cPrev[n.toNat]).2.1, gid :: (t.cPrev[n.toNat]).2.2)
  else (t.c[n.toNat], t.cp.getLsbD n.toNat, [gid])

/-- A write of a common-room register as it retires (R35): behind one of the same issue clock from a higher-numbered sub-core it has
applied first, and that one stands. -/
def writeC (clock sub gid : Nat) (n : BitVec 4) (v : W64) (t : Team) : Team :=
  let p := prevC clock gid n t
  if (t.cLast[n.toNat]).1 = clock + 1 ∧ sub < (t.cLast[n.toNat]).2 then { t with cPrev := t.cPrev.setIfInBounds n.toNat p }
  else
    { t with
      c := t.c.setIfInBounds n.toNat v, cp := t.cp &&& ~~~(1#16 <<< n.toNat)
      cLast := t.cLast.setIfInBounds n.toNat (clock + 1, sub), cPrev := t.cPrev.setIfInBounds n.toNat p }

/-- Writes a scalar result (R33 to R35): s0 discards it, a common-room register is the team's. -/
def writeS (s : State) (g : Group) (d : Option SDst) (v : W64) : State × Group :=
  match d with
  | none => (s, g)
  | some (.s n) => (s, { g with regs := g.regs.setS n v false, tags := renameS g.tags n })
  | some (.c n) =>
    (s.modTeam g.tid (writeC (coreClock s g.core) g.sub g.gid n v), g)

/-- Writes a 32-bit vector result in the lanes of `mask` and gives its window entry (R41). -/
def writeV32 (g : Group) (d : Option VReg) (mask : LMask) (f : Lane → W32) : Group × WinEntry :=
  match d with
  | none => (g, .vec (Vector.ofFn fun l => if mask.getLsbD l.val then (f l).setWidth 64 else 0) 0 0)
  | some n =>
    let r := g.regs.setV n mask f
    ({ g with regs := r, tags := renameV g.tags [n] },
      .vec (Vector.ofFn fun l => (r.getV n l).setWidth 64) (r.vp[n.toNat]) 0)

/-- Writes a 64-bit vector result into a pair (R32). -/
def writeV64 (g : Group) (d : Option VReg) (mask : LMask) (f : Lane → W64) : Group × WinEntry :=
  match d with
  | none => (g, .vec (Vector.ofFn fun l => if mask.getLsbD l.val then f l else 0) 0 0)
  | some n =>
    let r := (g.regs.setV n mask fun l => (f l).setWidth 32).setV (n + 1) mask fun l => (f l).extractLsb' 32 32
    ({ g with regs := r, tags := renameV g.tags [n, n + 1] },
      .vec (Vector.ofFn fun l => r.getV (n + 1) l ++ r.getV n l) (r.vp[n.toNat]) (r.vp[(n + 1).toNat]))

def writeVW (w : Bool) (g : Group) (d : Option VReg) (mask : LMask) (f : Lane → W64) : Group × WinEntry :=
  if w then writeV64 g d mask f else writeV32 g d mask fun l => (f l).setWidth 32

/-- Writes a mask register, keeping the lanes outside `mask`. -/
def writeM (g : Group) (d : BitVec 3) (mask x : LMask) : Group :=
  { g with regs := g.regs.setM d ((g.regs.m[d.toNat] &&& ~~~mask) ||| (x &&& mask)) }

-- transactional lanes (R370, R377, R378)

/-- The abort codes of R377. -/
inductive TxCode where
  | group | validate | capacity | instr | fault | preempt | explicit | retry | space | order | orderLater | stale
  deriving DecidableEq, Repr

def TxCode.num : TxCode → W32
  | .group => 1 | .validate => 2 | .capacity => 3 | .instr => 4 | .fault => 5 | .preempt => 6 | .explicit => 7 | .retry => 8
  | .space => 9 | .order => 10 | .orderLater => 10 | .stale => 11
def TxCode.leaves : TxCode → Bool
  | .explicit | .stale => true
  | _ => false
def TxCode.counts : TxCode → Bool
  | .preempt | .explicit | .stale | .orderLater => false
  | _ => true
def TxCode.backs : TxCode → Bool
  | .group | .validate | .retry => true
  | _ => false
def TxCode.irr : TxCode → Bool
  | .capacity | .instr | .fault | .space => true
  | _ => false

/-- Clears lanes from the waymarks at depth `rd` and above that the hardware holds (R370). -/
def clearMarks (depth rd : Nat) (x : LMask) : List Waymark → List Waymark
  | [] => []
  | w :: ws =>
    (if rd < depth then { w with pmask := w.pmask &&& ~~~x, fmask := w.fmask &&& ~~~x } else w) :: clearMarks (depth - 1) rd x ws

/-- Removes a lane from the attempt: its logs, EXM and the waymarks of the region (R370). -/
def dropLane (g : Group) (l : Nat) : Group :=
  { g with
    regs := { g.regs with exm := g.regs.exm &&& ~~~laneBit l }
    wmHw := clearMarks g.wmDepth g.region.rdepth (laneBit l) g.wmHw
    region := { g.region with
      rlog := g.region.rlog.filter (·.lane != l), wlog := g.region.wlog.filter (·.lane != l) } }

/-- The back-off of R378. -/
def backoff (l k : Nat) : Nat := 64 * 2 ^ min (k - 1) 10 + (37 * l + 11 * k) % 64

/-- Aborts one lane when the group counts `t` half issue clocks (R377, R378): it joins PEND, or leaves. -/
def abortLane (t : Nat) (code : TxCode) (g : Group) (l : Nat) : Group :=
  let g := dropLane g l
  let r := g.region
  let k := if code.leaves then 0 else if code.counts then min (r.aborts[l]?.getD 0 + 1) 16 else r.aborts[l]?.getD 0
  let b := laneBit l
  { g with
    sr := { g.sr with txstatus := g.sr.txstatus.setIfInBounds l code.num }
    region := { r with
      aborts := r.aborts.setIfInBounds l k
      due := r.due.setIfInBounds l (if code.backs then t + 2 * backoff l k else t)
      irr := if !code.leaves && (code.irr || (code.counts && k = 16)) then r.irr ||| b else r.irr
      pend := if code.leaves then r.pend else r.pend ||| b
      left := if code.leaves then r.left ||| b else r.left } }

def abortLanes (t : Nat) (code : TxCode) (g : Group) (m : LMask) : Group :=
  (lanesOf m).foldl (fun g l => abortLane t code g l.val) g

/-- The lanes of the attempt that have not committed, left or aborted. -/
def Region.liveLanes (r : Region) : LMask := r.alive &&& ~~~(r.done ||| r.left ||| r.pend)

/-- Lanes that left a SPEC attempt through TXABT and whose turns nobody has taken are handed to the domain's home (R388). Log 60 (DEDUCED). -/
def handOrders (s : State) (g : Group) (lanes : LMask) : State :=
  match g.region.domRoute with
  | none => s
  | some (rt, a) =>
    s.modPart g.part fun p =>
      { p with orders := p.orders ++ (lanesOf lanes).map fun l => (rt, a, g.region.order[l.val]) }

/-- Discards what is delivered and not retired and what is fetched; `pos` instructions of the run come before the next word. -/
def dropRun (g : Group) (pos : Nat) : Group :=
  { g with
    rob := [], buf := [], bufStop := none, fetched := false, bufRun := pos, begun := false, delivering := false, markOp := none }

/-- The end of an attempt (R379): the region ends and `after` is next when no lane is pending; otherwise the group waits and the
begin instruction is next. An attempt goes back to the waymark depth of its begin. Log 33 (DEDUCED). -/
def endAttempt (s : State) (g : Group) (after : W64) : State × Group :=
  let r := g.region
  let g := { dropRun g 0 with
    win := [], runPos := 0, waitFrom := none, served := false, codeServed := [], spoilt := false
    wmHw := g.wmHw.drop (g.wmDepth - r.rdepth), wmDepth := min g.wmDepth r.rdepth }
  if r.pend = 0 then
    (s, { g with
      regs := { g.regs with exm := r.rfmask, m := g.regs.m.setIfInBounds 0 r.done }
      sr := { g.sr with txstatus := Vector.ofFn fun l => if r.done.getLsbD l.val then 0 else g.sr.txstatus[l.val] }
      region := { r with state := .none, alone := none, alive := 0, gone := 0, turns := none, rlog := [], wlog := [] }
      pc := after, wait := .none })
  else
    (s, { g with
      region := { r with state := .wait, alone := none, alive := 0, gone := 0, turns := none, rlog := [], wlog := [] }
      pc := r.rpc, wait := .retry })

-- stops (R409 to R415)

/-- The causes of R45. -/
inductive Cause where
  | ill | illop | align | page | fetch | perm | coherence | range | qcorrupt | capability | poison | growdeny | swtrap | preempt
  | step | watchdog
  deriving DecidableEq, Repr

def Cause.num : Cause → Nat
  | .ill => 0 | .illop => 1 | .align => 2 | .page => 3 | .fetch => 4 | .perm => 5 | .coherence => 6 | .range => 7
  | .qcorrupt => 8 | .capability => 9 | .poison => 10 | .growdeny => 11 | .swtrap => 12 | .preempt => 13 | .step => 14
  | .watchdog => 15
def Cause.bit (c : Cause) : BitVec 16 := 1 <<< c.num

/-- A precise stop: its causes, FAULTMASK, XADDR; `lanewise` where an OPEN attempt aborts only the lanes of the mask (R370);
`code` for TRAP. -/
structure Stop where
  causes : BitVec 16
  mask : LMask
  addr : W64
  lanewise : Bool
  code : Option (BitVec 16)
  deriving DecidableEq, Repr

/-- A stop of the group as a whole: FAULTMASK = EXM. -/
def stopAll (g : Group) (c : Cause) (a : W64) : Stop := ⟨c.bit, g.regs.exm, a, false, none⟩

/-- Whether a command is an MMA, which is what takes tokens (R281). -/
def Cmd.isMma (k : Cmd) : Bool := k.op == 0xD0

/-- A delivery that a group's tag waits for will not come. -/
def loseDelivery (n : BitVec 3) (g : Group) : Group :=
  { g with tags := g.tags.setIfInBounds n.toNat ((g.tags[n.toNat]?.join).map fun t => { t with await := t.await - 1 }) }

/-- Takes away a team's queued commands and stops its executing unit, whose tokens go back (R135, R415), with a core this one has claimed
for it; a discarded load of the accumulator delivers nothing, the locks of what is discarded are freed, those of what is saved stay (R267). A command that is no unit runs on. Log 37 (DEDUCED), 56
(DEDUCED). -/
def dropCmds (s : State) (core tid : Nat) (saved : Bool) : State :=
  let c := s.core core
  let stop := match c.run with
    | some e => e.cmd.tid == tid && e.cmd.isMma
    | none => false
  let head := match c.cmds with
    | k :: _ => k.tid == tid
    | [] => false
  let gone := ((c.cmds.filter (·.tid == tid)).map fun k => k.opId) ++ (if stop then (c.run.map fun e => e.cmd.opId).toList else [])
  let free := stop || (c.run.isNone && head)
  let s := s.setCore core { c with
    cmds := c.cmds.filter (·.tid != tid)
    run := if stop then none else c.run
    locks := c.locks.filter fun k => saved || !gone.contains k.owner
    tokens := if free then 0 else c.tokens
    giveBack := if free then c.giveBack + c.tokens else c.giveBack
    tokWait := if free then none else c.tokWait
    tokSeen := !free && c.tokSeen }
  let s := (c.cmds.filter fun k => k.tid == tid && k.op == 0xD3).foldl (fun s k => s.modGroup k.gid (loseDelivery k.tag)) s
  if free then
    { s with cores := s.cores.map fun x => if x.2.claimedBy = some core then (x.1, { x.2 with claimedBy := none }) else x }
  else s

/-- What a task entry becomes when groups leave: one that had been chosen for a parked TASKWAIT and not delivered is free again. Log 50 (DEDUCED). -/
def TaskEnt.unchoose (gs : List Group) (e : TaskEnt) : TaskEnt :=
  if gs.any fun g => g.task.isNone && e.given == some g.gid then { e with given := none } else e

/-- Groups that leave are in no waiter set or wait list. -/
def unpark (s : State) (part : Nat) (gs : List Group) : State :=
  let here := fun (n : Nat) => gs.any (·.gid == n)
  s.modPart part fun p =>
    { p with
      waiters := p.waiters.filter fun w => !here w.2.2
      tasks := p.tasks.map fun t =>
        { t with waiters := t.waiters.filter fun w => !here w, ents := t.ents.map (TaskEnt.unchoose gs) } }

/-- Kills a group's team (R415): every group of it is to end; the team's queued and executing commands are discarded. The rest is
done as each group ends (R433). Log 37 (DEDUCED). -/
def killTeam (s : State) (g : Group) (cause : BitVec 16) : State :=
  let ended : List Group := (s.saved.filter fun x => x.g.tid == g.tid).map fun x => { x.g with slot := 8 }
  let s := { s with
    groups := (s.groups ++ ended).map fun (x : Group) =>
      if x.tid = g.tid then
        { dropRun x 0 with killed := true, exiting := true, wait := .none }
      else x
    saved := s.saved.filter fun x => x.g.tid != g.tid
    savedTeams := s.savedTeams.filter fun x => x.tid != g.tid }
  let s := s.modTeam g.tid fun t => { t with killCause := some (t.killCause.getD cause) }
  let s := unpark s g.part (s.groups.filter (·.tid == g.tid))
  dropCmds s g.core g.tid false

/-- The handler's address when the group has one (R413). -/
def handlerOf (s : State) (g : Group) : Option Nat := (s.launch? g.lid).bind (·.handler)

/-- The stop of R418 is due: not during the wait of R379, nor in an attempt with no lane to abort (R370, R388). Log 32 (DEDUCED). -/
def preemptDue (g : Group) : Bool :=
  g.preempt && decide (g.wait ≠ .retry) && !(decide (g.region.state = .open) && g.region.liveLanes == 0)

/-- The steps of a stop (R410), then handler entry (R414) or the kill (R415). -/
def groupStop (s : State) (g : Group) (st : Stop) : State :=
  let x := match st.code with
    | some _ => g.pc + 8
    | none => g.pc
  let g := { dropRun g 0 with
    sr := { g.sr with cause := g.sr.cause ||| st.causes, faultmask := st.mask }
    trap := { g.trap with
      xpc := x &&& 0x007FFFFFFFFFFFF8, xexm := g.regs.exm, xaddr := st.addr, wv := true
      rcnt := if st.code.isSome then 0 else g.runPos
      saved := if st.code.isSome then [] else g.win
      tcode := st.code.getD g.trap.tcode
      armed := false, stepped := false }
    wait := .none, waitFrom := none, served := false, codeServed := [], spoilt := false, pages := [], remOp := none }
  match handlerOf s g with
  | some h =>
    if g.trap.inh then killTeam (s.setGroup g) g g.sr.cause
    else
      s.setGroup { g with
        trap := { g.trap with inh := true }
        regs := { g.regs with exm := 0xFFFFFFFFFFFFFFFF }
        pc := BitVec.ofNat 64 h, win := [], runPos := 0 }
  | none => killTeam (s.setGroup g) g g.sr.cause

-- retirement

/-- Whether an instruction has a window value: 1 a scalar, 2 a vector, 3 none yet (asynchronous), 0 none (R69). -/
def iValue : Instr → Nat
  | .sadd _ _ _ _ _ _ | .ssub _ _ _ _ _ _ | .smul _ _ _ _ _ _ | .smulh _ _ _ _ _ | .sand _ _ _ _ _ | .sor _ _ _ _ _
  | .sxor _ _ _ _ _ | .sshl _ _ _ _ _ | .sshr _ _ _ _ _ | .ssar _ _ _ _ _ | .smin _ _ _ _ _ | .smax _ _ _ _ _
  | .scmp _ _ _ _ _ _ | .ssel _ _ _ _ _ _ | .smov _ _ _ _ | .sbit _ _ _ _ _ | .sli _ _ _ | .slih _ _ _ _ | .mpopc _ _ _
  | .mfirst _ _ _ | .mrd _ _ _ | .mtest _ _ _ _ | .vred _ _ _ _ _ _ | .vredf _ _ _ _ _ | .bclose _ _ _ | .bara _ _ _ _ _
  | .qstat _ _ _ => 1
  | .rdsr _ _ n => if n.perLane then 2 else 1
  | .qpop _ _ _ _ | .qtrypop _ _ _ _ | .qpush _ _ _ _ | .qtrypush _ _ _ _ => 0
  | .vadd _ _ _ _ _ _ _ | .vsub _ _ _ _ _ _ _ | .vmul _ _ _ _ _ _ _ | .vmulh _ _ _ _ _ _ | .vmad _ _ _ _ _ _ _ _
  | .vaddc _ _ _ _ _ _ _ | .vand _ _ _ _ _ _ | .vor _ _ _ _ _ _ | .vxor _ _ _ _ _ _ | .vshl _ _ _ _ _ _ | .vshr _ _ _ _ _ _
  | .vsar _ _ _ _ _ _ | .vmin _ _ _ _ _ _ | .vmax _ _ _ _ _ _ | .vabsd _ _ _ _ _ _ | .vbit _ _ _ _ _ _ | .vsel _ _ _ _ _ _ _
  | .vmov _ _ _ _ _ | .vli _ _ _ | .vidx _ _ _ _ _ _ | .vpermb _ _ _ _ _ | .vfadd _ _ _ _ _ _ | .vfsub _ _ _ _ _ _
  | .vfmul _ _ _ _ _ _ | .vfma _ _ _ _ _ _ _ | .vfmin _ _ _ _ _ | .vfmax _ _ _ _ _ | .vfclass _ _ _ _ | .vfrnd _ _ _ _ _
  | .vfcvt _ _ _ _ _ _ | .vrcp _ _ _ _ | .vrsq _ _ _ _ | .vsqrt _ _ _ _ | .vexp2 _ _ _ _ | .vlog2 _ _ _ _ | .vsinpi _ _ _ _
  | .vcospi _ _ _ _ | .vtanh _ _ _ _ | .vshfl _ _ _ _ _ _ _ | .vbcast _ _ _ _ _ _ | .vscan _ _ _ _ _ _ _ | .vcomp _ _ _ _ _
  | .vexpd _ _ _ _ _ | .txstat _ _ _ => 2
  | i => if iTag i = 0 then 0 else 3

/-- The entry of an instruction that had no effect in an attempt without lanes (R370): zero. -/
def zeroEntry (i : Instr) : WinEntry :=
  match iValue i with
  | 1 => .scalar 0 false
  | 2 => .vec (Vector.replicate 64 0) 0 0
  | 3 => .async
  | _ => .none

def iE (i : Instr) : Bool := ((iHdr i).map (·.e)).getD false
def iTC (i : Instr) : BitVec 3 := ((iHdr i).map (·.tc)).getD 0

/-- A new run begins at `pc`, with an empty window (R43, R62). -/
def newRun (g : Group) (pc : W64) : Group := { dropRun g 0 with pc := pc, win := [], runPos := 0 }

/-- What retirement counts (R45, R416, R417). -/
def countRetired (g : Group) : Group :=
  { g with
    sr := { g.sr with retired := g.sr.retired + 1 }
    trap := { g.trap with stepped := g.trap.armed || g.trap.stepped }
    wait := .none, waitFrom := none, served := false, codeServed := [], spoilt := false, pages := [] }

/-- The instruction retires and the next word follows: in its run, or, after E, in a new one with an empty window (R43, R62, R65). -/
def retire (g : Group) (i : Instr) (w : WinEntry) : Group :=
  let g := { countRetired g with pc := g.pc + BitVec.ofNat 64 (8 * iWords i), rob := g.rob.tail }
  if iE i then { g with win := [], runPos := 0 } else { g with win := (w :: g.win).take 8, runPos := g.runPos + 1 }

/-- The instruction retires and control goes to `pc`. -/
def retireTo (g : Group) (pc : W64) : Group := newRun (countRetired g) pc

/-- The instruction does not complete now: it is tried again. -/
def stall (g : Group) : Group := { g with waitFrom := some (g.waitFrom.getD g.sr.clk2) }

/-- Aborts every live lane of the OPEN attempt with INSTR (R370); where no lane remained, the instruction is passed over. Log 31 (DEDUCED). -/
def instrAbort (s : State) (g : Group) (i : Instr) : State :=
  let live := g.region.liveLanes
  if live = 0 then s.setGroup (retire g i (zeroEntry i))
  else
    let s := handOrders s g g.region.gone
    let g := abortLanes g.sr.clk2 .instr g live
    let (s, g) := endAttempt s g g.region.rpc
    s.setGroup g

/-- A stop, or in an OPEN attempt the abort that takes its place. -/
def stopAt (s : State) (g : Group) (i : Instr) (st : Stop) : State :=
  if g.region.state = .open then instrAbort s g i else groupStop s g st

/-- What an instruction's own part answers: it retires with a window entry; it retires and control goes elsewhere; it does not
complete; it stops; or it leaves the group as given, neither retired nor waiting. -/
inductive Out where
  | done (s : State) (g : Group) (w : WinEntry)
  | goto (s : State) (g : Group) (pc : W64)
  | wait (s : State) (g : Group)
  | stop (st : Stop)
  | halt (s : State) (g : Group)

/-- The tier a group's launch started at (R100). -/
def tierOf (s : State) (g : Group) : Nat := ((s.launch? g.lid).map (·.startTier)).getD 3

/-- What breaks R63 or R64, or is an engine's instruction at tier 1 (R100): `begins`, `engine`, `e` are those of the word. -/
def placeIll (tier pos : Nat) (begins engine e : Bool) : Bool :=
  (begins && pos != 0) || (pos == 23 && !e) || decide (23 < pos) || (engine && decide (tier ≤ 1))

/-- The checks at issue that depend on the state (R72): ILL for R63, R64 and tier 1 (R100), ILLOP for the budget (R31), the window
(R42) and the tile count (R44). -/
def issueStop (s : State) (g : Group) (i : Instr) : Option Stop :=
  let nt := ((s.team? g.tid).map (·.ntiles)).getD 0
  if !i.wf || placeIll (tierOf s g) g.runPos (iBegins i) (iEngine i) (iE i) then some (stopAll g .ill 0)
  else if (iVsrcs i ++ iVds i).any (fun r => decide (g.sr.budget ≤ r.toNat)) || (iWins i).any (fun r => !winOk g.win r)
      || (iTiles i).any (fun t => decide (nt ≤ t)) then
    some (stopAll g .illop 0)
  else none

/-- The stop of a word that decodes to no instruction: where R70 and R71 both apply only ILL is raised (R72). -/
def wordStop (s : State) (g : Group) (w : W64) (e : DecErr) : Stop :=
  let op := (w.extractLsb' 56 8).toNat
  let begins := op == 0xE0 || op == 0xE4
  let engine := op == 0xC0 || decide (0xC3 ≤ op ∧ op ≤ 0xC5) || decide (0xD0 ≤ op ∧ op ≤ 0xD6)
  match e with
  | .ill => stopAll g .ill 0
  | .illop => stopAll g (if placeIll (tierOf s g) g.runPos begins engine (w.getLsbD 55) then .ill else .illop) 0

/-- What follows an instruction's own part. Log 34 (DEDUCED), 36 (DESIGN CHOICE). -/
def settle (s : State) (g : Group) (i : Instr) : Out → State
  | .done s' g' w => s'.setGroup (retire g' i w)
  | .goto s' g' pc => s'.setGroup (retireTo g' pc)
  | .wait s' g' => s'.setGroup (stall g')
  | .stop st => stopAt s g i st
  | .halt s' g' => s'.setGroup g'

/-- A register some pending tag names as its destination. -/
def pendingDest (g : Group) (r : VReg) : Bool :=
  g.tags.any fun t => match t with
    | some t => t.regs.contains r && !t.deadV.contains r
    | none => false

/-- An instruction delivered in place waits while a pending tag names one of its destinations (R160). -/
def inPlaceBusy (g : Group) (rs : List VReg) : Bool := (g.rob.head?.map (·.inPlace)).getD false && rs.any (pendingDest g)
def inPlaceHeld (g : Group) (i : Instr) : Bool := inPlaceBusy g (iRenames i)

/-- An instruction's own part; in an OPEN attempt the lanes that fault leave one after another and the rest goes on (R370). -/
def runBody (i : Instr) (body : State → Group → Out) (s : State) : Nat → Group → State
  | 0, g => settle s g i (body s g)
  | n + 1, g =>
    match body s g with
    | .stop st =>
      if g.region.state = .open ∧ st.lanewise = true then runBody i body s n (abortLanes g.sr.clk2 .fault g st.mask) else stopAt s g i st
    | o => settle s g i o

/-- The issue of an instruction of the group being delivered: the checks of R72, its tags (R39), its own part; in an OPEN attempt
the aborts of R370 in place of stops. -/
def issue (i : Instr) (body : State → Group → Out) (s : State) : Host.Outcome State Fault Refusal :=
  match s.curGroup with
  | none => .fault .noCurrentGroup
  | some g =>
    match issueStop s g i with
    | some st => .next (stopAt s g i st)
    | none =>
      if g.region.state = .open ∧ iTxBreaks i = true then .next (instrAbort s g i)
      else
        match waitTags g [(iTC i).toNat, (iTag i).toNat] with
        | none => .next (s.setGroup (stall g))
        | some g => if inPlaceHeld g i then .next (s.setGroup (stall g)) else .next (runBody i body s 64 g)

end Sys2Proof.Machine
end

