-- ==== Sys2Proof/Machine/Access.lean ====
section
/-! DEFINITION. Addresses and memory: page walks and the checks of R144, ownership and range locks (R237, R267), scratchpad and private
addresses (R233, R235), homes, L1 lines and sectors with their poison (R91, R92, R236, R238). -/

namespace Sys2Proof.Machine

open Sys2Proof

-- the page-table tree (R141 to R143)

/-- A page-table entry, read whole from host memory as the bus gives it, without a key (R141, R147). -/
def readPte (s : State) (a : Nat) : Nat := leNat ((List.range 8).map fun i => s.host.readAs .clear (a + i))

def pteV (e : Nat) : Bool := e.testBit 0
def pteHs (e : Nat) : Bool := e.testBit 5
def pteFrame (e : Nat) : Nat := bits e 51 20
def pteKey (e : Nat) : Nat := bits e 19 11
def pteTier (e : Nat) : Tier :=
  match bits e 10 9 with
  | 0 => .hbm | 1 => .vault | 2 => .host | _ => .remote
def pteCoh (e : Nat) : Coh :=
  match bits e 8 7 with
  | 0 => .hw | 1 => .sw | _ => .priv
def pteDev (e : Nat) : Nat := bits e 63 52

/-- A table entry with V = 1 holds FRAME and V only (R143). -/
def tableBad (e : Nat) : Bool := bits e 63 52 != 0 || bits e 19 1 != 0

/-- A leaf with V = 1 that R143 calls malformed; `big` at level 2. -/
def leafBad (devid : Nat) (big : Bool) (e : Nat) : Bool :=
  (!big && e.testBit 4) || (big && bits e 32 20 != 0) || bits e 8 7 == 3 || e.testBit 6 || e.testBit 5 ||
  (pteDev e != 0 && bits e 10 9 != 3) || (bits e 10 9 == 3 && pteDev e == devid)

/-- The outcome of a walk. -/
inductive Walk where
  | leaf (e : Nat) (big : Bool)
  | malformed
  | serviced
  | absent
  deriving DecidableEq, Repr

def walkInvalid (e : Nat) : Walk := if pteHs e then .serviced else .absent

/-- The second-level TLB and walk cache of a die sector. Log 86 (DESIGN CHOICE). -/
def State.sectorTlb (s : State) (n : Nat) : SectorTlb := ((s.xlats.find? (·.1 == n)).map (·.2)).getD ⟨[], []⟩
def State.setSectorTlb (s : State) (n : Nat) (x : SectorTlb) : State :=
  if s.xlats.any (·.1 == n) then { s with xlats := s.xlats.map fun y => if y.1 = n then (n, x) else y }
  else { s with xlats := s.xlats ++ [(n, x)] }

/-- An upper entry of a walk: as the tables stand, or as a walk cache holds it where `old` says so (R145, R147). -/
def nodeEntry (s : State) (old : Bool) (nodes : List NodeEnt) (p : Part) (level index a : Nat) : Nat :=
  match nodes.find? fun e => e.part == p.id && e.level == level && e.index == index with
  | some e => if e.entry.toNat = readPte s a then readPte s a else if old then e.entry.toNat else readPte s a
  | none => readPte s a

/-- The walk of an address through a partition's tables, by way of a walk cache (R141, R145, R146). -/
def walkVia (s : State) (old : Bool) (nodes : List NodeEnt) (p : Part) (va : Nat) : Walk :=
  if !p.ptroot.getLsbD 0 then .absent
  else
    let e1 := nodeEntry s old nodes p 1 (bits va 54 42) (bits p.ptroot.toNat 47 16 * 65536 + 8 * bits va 54 42)
    if !pteV e1 then walkInvalid e1
    else if tableBad e1 then .malformed
    else
      let e2 := nodeEntry s old nodes p 2 (bits va 54 29) (pteFrame e1 * 65536 + 8 * bits va 41 29)
      if !pteV e2 then walkInvalid e2
      else if e2.testBit 4 then (if leafBad s.fabric.devid true e2 then .malformed else .leaf e2 true)
      else if tableBad e2 then .malformed
      else
        let e3 := readPte s (pteFrame e2 * 65536 + 8 * bits va 28 16)
        if !pteV e3 then walkInvalid e3
        else if leafBad s.fabric.devid false e3 then .malformed
        else .leaf e3 false

/-- The walk of an address through a partition's tables as they stand. -/
def walk (s : State) (p : Part) (va : Nat) : Walk := walkVia s false [] p va

/-- A held translation covers a page. -/
def TlbEnt.covers (t : TlbEnt) (page : Nat) : Bool := if t.big then t.page / 8192 == page / 8192 else t.page == page
def TlbEnt.isFor (t : TlbEnt) (part page : Nat) : Bool := t.part == part && t.covers page

/-- The translation that a core's data TLB or its sector's TLB holds for a page (R145). -/
def heldXlat (s : State) (part core page : Nat) : Option TlbEnt :=
  ((s.core core).dtlb.find? (·.isFor part page)).or ((s.sectorTlb (core / 16)).ents.find? (·.isFor part page))

/-- The translation of an address for a core where a TLB may hold one: that, or a walk's; where the two differ either is used, lane by lane
(R145, R147). Log 17 (DESIGN CHOICE). -/
def lookupIn (s : State) (held : Option TlbEnt) (p : Part) (core who va : Nat) : Walk :=
  let old := Config.stale s.now (66 * (va / 65536) + who)
  let fresh := walkVia s old (s.sectorTlb (core / 16)).nodes p va
  match held with
  | some t => if Walk.leaf t.leaf.toNat t.big = fresh then fresh else if old then .leaf t.leaf.toNat t.big else fresh
  | none => fresh

/-- The translation of an address of data. -/
def lookup (s : State) (p : Part) (core who va : Nat) : Walk := lookupIn s (heldXlat s p.id core (va / 65536)) p core who va

/-- The entries a set takes: the new one, and the others but for one that leaves when the set is full, which is open. -/
def State.insertTlb (s : State) (cap : Nat) (l set : List TlbEnt) (t : TlbEnt) : State × List TlbEnt :=
  if set.length < cap then (s, t :: l)
  else
    let (k, s) := s.choose set.length
    (s, t :: l.filter fun x => some x ≠ set[k]?)

/-- Puts a translation into a core's data TLB: 128 entries. -/
def keepData (s : State) (core : Nat) (t : TlbEnt) : State :=
  let l := (s.core core).dtlb
  if l.any (·.isFor t.part t.page) then s
  else
    let (s, l) := s.insertTlb 128 l l t
    s.modCore core fun c => { c with dtlb := l }

/-- The set of the second-level TLB that an entry stands in: 1024 sets of 8. Log 17 (DESIGN CHOICE). -/
def TlbEnt.set (t : TlbEnt) : Nat := (if t.big then t.page / 8192 else t.page) % 1024

/-- Puts a walk's leaf into its sector's TLB: 8192 entries, 8 ways. -/
def keepSector (s : State) (n : Nat) (t : TlbEnt) : State :=
  let l := (s.sectorTlb n).ents
  if l.any (·.isFor t.part t.page) then s
  else
    let (s, l) := s.insertTlb 8 l (l.filter fun x => x.set == t.set) t
    s.setSectorTlb n { s.sectorTlb n with ents := l }

/-- Puts an upper entry into a walk cache: 256 entries, the oldest leaving. Log 17 (DESIGN CHOICE). -/
def keepNode (s : State) (n : Nat) (e : NodeEnt) : State :=
  let x := s.sectorTlb n
  if x.nodes.any fun y => y.part == e.part && y.level == e.level && y.index == e.index then s
  else s.setSectorTlb n { x with nodes := (e :: x.nodes).take 256 }

/-- The upper entries a walk reads. -/
def walkNodes (s : State) (p : Part) (va : Nat) : List NodeEnt :=
  if !p.ptroot.getLsbD 0 then []
  else
    let e1 := readPte s (bits p.ptroot.toNat 47 16 * 65536 + 8 * bits va 54 42)
    if !pteV e1 || tableBad e1 then []
    else
      let e2 := readPte s (pteFrame e1 * 65536 + 8 * bits va 41 29)
      ⟨p.id, 1, bits va 54 42, BitVec.ofNat 64 e1⟩ ::
        if pteV e2 && !e2.testBit 4 && !tableBad e2 then [⟨p.id, 2, bits va 54 29, BitVec.ofNat 64 e2⟩] else []

/-- The walker of a sector has walked for a page (R145): its caches hold the entries. -/
def keepWalk (s : State) (p : Part) (n va : Nat) : State :=
  match walk s p va with
  | .leaf e big =>
    keepSector ((walkNodes s p va).foldl (fun s e => keepNode s n e) s) n ⟨p.id, va / 65536, BitVec.ofNat 64 e, big⟩
  | _ => s

/-- What an access needs. -/
structure Need where
  r : Bool
  w : Bool
  x : Bool
  deriving DecidableEq, Repr

/-- The outcome of the checks of an access. -/
inductive XRes where
  | ok (route : Route) (addr : Nat)
  | fault (c : Cause)
  | over
  deriving DecidableEq, Repr

def vaultSize (split : Nat) : Nat := if split = 0 then 67108864 else if split = 1 then 50331648 else 33554432

/-- The die that holds a physical address (R140). -/
def paDie (tier : Tier) (pa : Nat) : Nat := if tier = .vault then bits pa 32 30 else bits pa 39 37

/-- R103, R140: whether the partition owns HBM or vault memory. -/
def ownsMem (s : State) (p : Part) (tier : Tier) (pa : Nat) : Bool :=
  match tier with
  | .hbm => decide (pa < 0x10000000000) && p.cgroups.contains (bits pa 39 37 * 16 + bits pa 36 33)
  | .vault =>
    decide (0x10000000000 ≤ pa ∧ pa < 0x10200000000) && decide (bits pa 29 26 < 12) &&
    decide (bits pa 25 0 < vaultSize s.boot.split) && p.sectors.contains (bits pa 32 30 * 3 + bits pa 29 26 / 4)
  | _ => false

/-- The HBM frames of a partition, counted through its channel groups: how many, the n-th, and the place of a frame. -/
def hbmFrames (p : Part) : Nat := 131072 * p.cgroups.length
def hbmFrame (p : Part) (n : Nat) : Nat := p.cgroups.getD (n / 131072) 0 * 131072 + n % 131072
def hbmPlace (p : Part) (frame : Nat) : Nat := p.cgroups.idxOf (frame / 131072) * 131072 + frame % 131072

/-- The frames of a partition's context store, its last (R425): 768 MiB for each sector. Log 89 (DESIGN CHOICE). -/
def storeFrames (p : Part) : Nat := 12288 * p.sectors.length

/-- A frame that no PTE can name: one reserved to a queue pair (R112), of the context store (R425), of a launch's image (R122). Log 89
(DESIGN CHOICE). -/
def reservedFrame (s : State) (p : Part) (tier : Tier) (pa : Nat) : Bool :=
  match tier with
  | .vault => p.qpairs.toList.any fun q => q.frames.contains (pa / 65536)
  | .hbm =>
    decide (hbmFrames p - storeFrames p ≤ hbmPlace p (pa / 65536)) || s.launches.any fun l => l.part == p.id && l.frames.contains (pa / 65536)
  | _ => false

/-- R103: whether a mapping of the partition may name the frame, by tier. Log 42 (DEDUCED). -/
def frameOk (s : State) (p : Part) (tier : Tier) (coh : Coh) (pa dev : Nat) : Bool :=
  match tier with
  | .hbm | .vault => ownsMem s p tier pa && !reservedFrame s p tier pa
  | .host => true
  | .remote =>
    let e := Tab.get 0 s.fabric.routes (4096 * p.id + dev)
    coh != .priv && e.getLsbD 63 && dev != s.fabric.devid &&
    (List.finRange 16).any fun n => e.getLsbD n.val &&
      (let q := s.fabric.ports[n.val]; q.assigned && q.owner == p.id)

/-- The key a mapping's slot gives (R106, R108), for the memory of a device: none where the access is refused. -/
def keyFor (s : State) (p : Part) (mask : List (Nat × Nat)) (tier : Tier) (dev n : Nat) : Option (KeyTag × Nat) :=
  if tier = .vault then some (.clear, 0)
  else if n = 511 then (if tier = .host then some (.clear, 0) else none)
  else
    match (s.slots.find? (·.1 == n)).map (·.2) with
    | none => none
    | some k => if k.owner = p.id ∧ !k.closed ∧ mask.contains (n, k.load) then some (.slot n k.load k.key dev, k.keyId) else none

/-- R431: a frame of a fenced channel. Log 68 (DEDUCED). -/
def chanFenced (s : State) (tier : Tier) (pa : Nat) : Bool :=
  tier == .hbm && (s.die (bits pa 39 37)).chFenced.contains (4 * bits pa 36 33 + bits pa 32 31)

/-- The code window of R122. -/
def codeWindow : Nat := 0x7FFF0000000000
def inWindow (va : Nat) : Bool := decide (codeWindow ≤ va ∧ va < 0x80000000000000)

/-- An access to a page of tier host obtains the translation of its frame where ATS is enabled (R152). -/
def touchHost (s : State) (p : Part) (va : Nat) : State :=
  match p.atsEnabled, walk s p va with
  | true, .leaf e big =>
    let f := pteFrame e + if big then bits va 28 16 else 0
    if pteTier e = .host then s.modPart p.id fun q => { q with ats := nsAdd q.ats f } else s
  | _, _ => s

/-- The pages of accesses that no core's TLB serves (R152). -/
def touchHosts (s : State) (part : Nat) (vas : List Nat) : State :=
  match s.part? part with
  | none => s
  | some p => ((vas.map (· / 65536)).eraseDups).foldl (fun s n => touchHost s p (65536 * n)) s

/-- A core has translated an address: its data TLB holds the page, and, where it missed, its sector's TLB (R145). -/
def touchPage (s : State) (part core va : Nat) : State :=
  if inWindow va then s
  else
    match s.part? part with
    | none => s
    | some p =>
      let s := touchHost (if (heldXlat s part core (va / 65536)).isSome then s else keepWalk s p (core / 16) va) p va
      match heldXlat s part core (va / 65536) with
      | some t => keepData s core t
      | none => s

/-- Pages of an instruction's accesses. -/
def touchPages (s : State) (part core : Nat) (vas : List Nat) : State :=
  ((vas.map (· / 65536)).eraseDups).foldl (fun s n => touchPage s part core (65536 * n)) s

/-- The launch controller's translation in the code window (R122, R138). An address of the image in none of its sections finds no translation.
Log 100 (DESIGN CHOICE). -/
def windowXlat (s : State) (l : Launch) (va : Nat) (n : Need) : XRes :=
  let pa := l.frames.getD ((va - l.imageBase) / 65536) 0 * 65536 + va % 65536
  if va < l.imageBase ∨ l.imageBase + l.imageLen ≤ va then .fault .page
  else
    match l.sections.find? fun c => decide (l.imageBase + c.base ≤ va ∧ va < l.imageBase + c.base + c.size) with
    | none => .fault .page
    | some c =>
      if (n.r && !c.r) || (n.w && !c.w) || (n.x && !c.x) then .fault .perm
      else if chanFenced s .hbm pa then .fault .page
      else .ok (.glob .hbm .hw (.image l.imageKey s.fabric.devid) 0 0) pa

/-- Permission of an address (R138, R144) whose translation is `w`. -/
def translate (s : State) (p : Part) (l : Launch) (w : Walk) (va : Nat) (n : Need) : XRes :=
  if va / 2 ^ 55 ≠ 0 then .fault .page
  else if inWindow va then windowXlat s l va n
  else
    match w with
    | .malformed => .fault .page
    | .serviced => .over
    | .absent => if n.x then .over else .fault .page
    | .leaf e big =>
      let pa := pteFrame e * 65536 + (if big then va % 2 ^ 29 else va % 65536)
      let tier := pteTier e
      if (n.r && !e.testBit 1) || (n.w && !e.testBit 2) || (n.x && !e.testBit 3) then .fault .perm
      else if !frameOk s p tier (pteCoh e) pa (pteDev e) then .fault .perm
      else
        match keyFor s p l.keymask tier (if tier = .remote then pteDev e else s.fabric.devid) (pteKey e) with
        | none => .fault .perm
        | some (k, kid) => if chanFenced s tier pa then .fault .page else .ok (.glob tier (pteCoh e) k kid (pteDev e)) pa

/-- Translation for a lane of a group; 64 stands for the group. -/
def xlatLane (s : State) (g : Group) (who va : Nat) (n : Need) : XRes :=
  match s.part? g.part, s.launch? g.lid with
  | some p, some l => translate s p l (lookup s p g.core who va) va n
  | _, _ => .fault .page

/-- Translation for a group. -/
def xlat (s : State) (g : Group) (va : Nat) (n : Need) : XRes := xlatLane s g 64 va n

/-- Translation of an address that ICINV names: X is needed, and a leaf that is absent faults as for a data access (R260). Log 19 (DEDUCED). -/
def xlatCode (s : State) (g : Group) (va : Nat) : XRes :=
  match xlat s g va ⟨false, false, true⟩ with
  | .over => xlat s g va ⟨false, false, false⟩
  | x => x

-- ownership and range locks

def isPriv : Route → Bool
  | .glob _ .priv _ _ _ => true
  | _ => false
def isHw : Route → Bool
  | .glob _ .hw _ _ _ => true
  | _ => false
def routeTier : Route → Option Tier
  | .glob t _ _ _ _ => some t
  | _ => none

/-- Another core owns the line (R237). -/
def notOwner (s : State) (part core : Nat) (r : Route) (pa : Nat) : Bool :=
  match r with
  | .glob t .priv _ _ _ =>
    match s.part? part with
    | some p => p.owners.any fun o => o.1 == pa / 128 && decide (o.2.2 = t) && o.2.1 != core
    | none => false
  | _ => false

/-- Records the first core to access a core-private line (R237). -/
def recordOwner (s : State) (part core : Nat) (r : Route) (pa : Nat) : State :=
  match r with
  | .glob t .priv _ _ _ =>
    s.modPart part fun p =>
      if p.owners.any fun o => o.1 == pa / 128 && decide (o.2.2 = t) then p
      else { p with owners := (pa / 128, core, t) :: p.owners }
  | _ => s

/-- Overlap with a range lock of the core in the space (R267). -/
def locked (s : State) (core : Nat) (space : Option Nat) (a n : Nat) : Bool :=
  (s.core core).locks.any fun k => k.scratch == space && decide (a ≤ k.last ∧ k.first < a + n)

/-- A lane's access of `n` bytes at a global address, checked in the order of R244; 64 stands for the group. -/
def checkLane (s : State) (g : Group) (who va n : Nat) (need : Need) : XRes :=
  if va % n ≠ 0 then .fault .align
  else
    match xlatLane s g who va need with
    | .ok r a =>
      if notOwner s g.part g.core r a then .fault .coherence
      else if locked s g.core none va n then .fault .range
      else .ok r a
    | x => x

/-- A group's access at a global address. -/
def checkGlobal (s : State) (g : Group) (va n : Nat) (need : Need) : XRes := checkLane s g 64 va n need

/-- The team a scratchpad address names (R233, R234): none where R233 refuses it. -/
def scratchTeam (s : State) (g : Group) (a n : Nat) : Option Team :=
  match s.team? g.tid, s.launch? g.lid with
  | some t, some l =>
    let rank := bits a 27 24
    if bits a 31 29 ≠ 0 ∨ bits a 23 21 ≠ 0 ∨ 2 ^ 32 ≤ a then none
    else if !a.testBit 28 then
      (if rank ≠ 0 ∨ t.scratchSize < bits a 20 0 + n then none else some t)
    else if l.clw * l.clh ≤ rank then none
    else
      match s.teams.find? fun x => x.lid == t.lid && x.cluster == t.cluster && x.rank == rank with
      | some x => if x.scratchSize < bits a 20 0 + n then none else some x
      | none => none
  | _, _ => none

/-- A group's scratchpad access: bounds, alignment, range locks (R233, R244). -/
def checkScratch (s : State) (g : Group) (a n : Nat) : XRes :=
  match scratchTeam s g a n with
  | none => .fault .perm
  | some t =>
    if bits a 20 0 % n ≠ 0 then .fault .align
    else if locked s g.core (some t.tid) (bits a 20 0) n then .fault .range
    else .ok (.scratch t.tid) (bits a 20 0)

/-- R234: the named team's scratchpad is evicted, and the access waits. -/
def scratchAway (s : State) : Route → Bool
  | .scratch tid => ((s.team? tid).map fun t => !t.resident).getD false
  | _ => false

/-- The byte address of private offset `o` in a lane (R48, R235). -/
def privAddr (base o lane : Nat) : Nat := base + o / 4 * 256 + lane * 4 + o % 4

-- homes and lines

/-- A byte at its home (R316). Log 7 (DESIGN CHOICE), 84 (DESIGN CHOICE). -/
def homeRead (s : State) (r : Route) (a : Nat) : Byte :=
  match r with
  | .glob .host _ k _ _ => s.host.readAs k a
  | .glob _ _ k _ _ => s.dev.readAs k a
  | .scratch t => ((s.team? t).map fun x => Mem.read x.scratch.bytes a).getD 0

/-- Log 7 (DESIGN CHOICE), 24 (DESIGN CHOICE). -/
def homePois (s : State) (r : Route) (sec : Nat) : Bool :=
  match r with
  | .glob .host _ _ _ _ => s.host.poisoned sec
  | .glob _ _ _ _ _ => s.dev.poisoned sec
  | .scratch t => ((s.team? t).map fun x => x.scratch.poisoned sec).getD false

/-- Writes the masked bits of a byte at its home. -/
def homeWrite (s : State) (r : Route) (a : Nat) (mask val : Byte) : State :=
  match r with
  | .glob .host _ k _ _ => { s with host := s.host.writeAs k a mask val }
  | .glob _ _ k _ _ => { s with dev := s.dev.writeAs k a mask val }
  | .scratch t =>
    s.modTeam t fun x =>
      let b := maskByte (Mem.read x.scratch.bytes a) mask val
      { x with scratch := { x.scratch with bytes := Mem.write x.scratch.bytes a b } }

/-- Sets the poison of a sector at its home; one written to host memory leaves in a request with EP set (R95). Log 24 (DESIGN CHOICE). -/
def homeSetPois (s : State) (r : Route) (sec : Nat) (b : Bool) : State :=
  match r with
  | .glob .host _ _ _ _ =>
    let s := { s with host := s.host.setPois sec b }
    if b then s.notify (.poisonedWrite sec) else s
  | .glob _ _ _ _ _ => { s with dev := s.dev.setPois sec b }
  | .scratch t => s.modTeam t fun x => { x with scratch := x.scratch.setPois sec b }

-- slices (R3, R104, R372, R445)

/-- The write stamp of die `d` (R372). -/
def writeStamp (s : State) (d : Nat) : Nat := (s.ns + 1) * 8 + d

/-- The slice a line is homed on among the partition's (R104). -/
def homeSlice (p : Part) (pa : Nat) : Nat :=
  let line := pa / 128
  let h := line ^^^ (line >>> 11) ^^^ (line >>> 22) ^^^ (line >>> 33) ^^^ (line >>> 44)
  let n := 8 * p.sectors.length
  if n = 0 then 0 else 8 * (p.sectors[h % n / 8]?.getD 0) + h % n % 8

/-- The die that a line is homed on. -/
def homeDie (s : State) (part : Nat) (r : Route) (pa : Nat) : Nat :=
  match routeTier r with
  | some .vault => bits pa 32 30
  | _ => ((s.part? part).map fun p => homeSlice p pa / 24).getD 0

/-- The lines a slice has room for (R3). -/
def sliceCap (split : Nat) : Nat := 8192 * (if split = 0 then 16 else if split = 1 then 24 else 32)

def sameLine (t : Tier) (line : Nat) (x : L1Line) : Bool := decide (x.tier = t) && x.line == line

def lineBytes (s : State) (r : Route) (line : Nat) : List Byte := (List.range 128).map fun i => homeRead s r (line * 128 + i)
def linePois (s : State) (r : Route) (line : Nat) : BitVec 4 :=
  (List.range 4).foldl (fun x i => if homePois s r (line * 4 + i) then x ||| (1#4 <<< i) else x) 0

/-- Writes the dirty bytes of a list of line bytes at their home. -/
def putDirty (s : State) (r : Route) (a : Nat) (dirty : BitVec 128) (i : Nat) : List Byte → State
  | [] => s
  | b :: bs => putDirty (if dirty.getLsbD i then homeWrite s r (a + i) 0xFF b else s) r a dirty (i + 1) bs

/-- The dirty bytes of a sector of a copy. -/
def L1Line.dirtyOf (x : L1Line) (i : Nat) : BitVec 32 := x.dirty.extractLsb' (32 * i) 32

/-- The poison a write-back leaves in a sector that held `old`: all of it written, the copy's bit; part of it, either; none, the old (R92,
R238). -/
def L1Line.backPois (x : L1Line) (i : Nat) (old : Bool) : Bool :=
  if x.dirtyOf i = 0 then old else if x.dirtyOf i = 0xFFFFFFFF then x.pois.getLsbD i else old || x.pois.getLsbD i

/-- The poison of the sectors that a write-back writes. -/
def putPois (s : State) (r : Route) (x : L1Line) : State :=
  (List.range 4).foldl (fun s i =>
    if x.dirtyOf i = 0 then s else homeSetPois s r (x.line * 4 + i) (x.backPois i (homePois s r (x.line * 4 + i)))) s

/-- Carries a slice's copy of a host-tier line to host memory (R239, R258). -/
def sliceToHost (s : State) (x : L1Line) : State :=
  let r : Route := .glob .host .sw x.key 0 0
  putPois (putDirty s r (x.line * 128) x.dirty 0 x.data) r x

/-- The home slice's copy of a host-tier line goes to host memory and is dropped. -/
def dropCopy (s : State) (part line : Nat) : State :=
  match (s.part? part).bind fun p => p.hostCopies.find? (sameLine .host line) with
  | some x => (sliceToHost s x).modPart part fun p => { p with hostCopies := p.hostCopies.filter fun y => !sameLine .host line y }
  | none => s

/-- The lines of tier HBM and the copies of host lines that a slice holds. -/
def sliceMates (p : Part) (sl : Nat) : List (Nat × HeldLine) :=
  p.lines.filterMap fun x => match x.2 with
    | some h => if x.1 * 128 < 0x10000000000 ∧ homeSlice p (x.1 * 128) = sl then some (x.1, h) else none
    | none => none
def copyMates (p : Part) (sl : Nat) : List L1Line := p.hostCopies.filter fun x => homeSlice p (x.line * 128) == sl

/-- A slice drops a line, and its floor rises to the line's version (R372). -/
def dropHeldLine (line : Nat) (p : Part) : Part :=
  match Tab.get none p.lines line with
  | none => p
  | some h =>
    let sl := homeSlice p (line * 128)
    { p with lines := Tab.set none p.lines line none, floors := Tab.set 0 p.floors sl (max (Tab.get 0 p.floors sl) h.ver) }

/-- What a slice may replace: lines that non-temporal accesses brought, before any other (R57, R445). -/
def sliceVictims (p : Part) (sl : Nat) : List (Nat ⊕ L1Line) :=
  let l := fun (nt : Bool) => (((sliceMates p sl).filter (·.2.nt == nt)).map fun x => .inl x.1) ++ ((copyMates p sl).filter (·.nt == nt)).map .inr
  if (l true).isEmpty then l false else l true

/-- A slice lets one of its lines go. -/
def dropVictim (s : State) (part : Nat) : Nat ⊕ L1Line → State
  | .inl line => s.modPart part (dropHeldLine line)
  | .inr x => dropCopy s part x.line

/-- Makes room in a full slice; which line goes is open (R445). Log 84 (DESIGN CHOICE). -/
def sliceRoom (s : State) (part sl : Nat) : State :=
  match s.part? part with
  | none => s
  | some p =>
    if (sliceMates p sl).length + (copyMates p sl).length < sliceCap s.boot.split then s
    else
      let l := sliceVictims p sl
      let (k, s) := s.choose l.length
      match l[k]? with
      | some x => dropVictim s part x
      | none => s

/-- A line comes to its home slice, which makes room for it, with the slice's floor as its version (R372, R445). -/
def sliceHold (s : State) (part line : Nat) (nt : Bool) : State :=
  match s.part? part with
  | none => s
  | some p =>
    if (Tab.get none p.lines line).isSome ∨ p.sectors = [] then s
    else
      let sl := homeSlice p (line * 128)
      (sliceRoom s part sl).modPart part fun p => { p with lines := Tab.set none p.lines line (some ⟨Tab.get 0 p.floors sl, nt⟩) }

/-- The home slice's copy of an SW-coherent host line is brought there (R236). -/
def sliceCopy (s : State) (part : Nat) (k : KeyTag) (line : Nat) (nt : Bool) : State :=
  match s.part? part with
  | none => s
  | some p =>
    if p.hostCopies.any (sameLine .host line) then s
    else
      let s := sliceRoom s part (homeSlice p (line * 128))
      let r : Route := .glob .host .sw k 0 0
      let x : L1Line :=
        { tier := .host, line := line, coh := .sw, key := k, part := part, data := lineBytes s r line, dirty := 0, pois := linePois s r line,
          nt := nt }
      s.modPart part fun p => { p with hostCopies := x :: p.hostCopies }

/-- A read of a line that its home slice does not hold brings it there (R236, R445). -/
def sliceFill (s : State) (part : Nat) (r : Route) (line : Nat) (nt : Bool) : State :=
  match r with
  | .glob .hbm .priv _ _ _ => s
  | .glob .hbm _ _ _ _ => sliceHold s part line nt
  | .glob .host .sw k _ _ => sliceCopy s part k line nt
  | _ => s

/-- The version a slice or vault controller holds for a line; a line not held has its slice's floor (R372). Log 63 (DESIGN CHOICE). -/
def Part.version (p : Part) (r : Route) (line : Nat) : Nat :=
  match Tab.get none p.lines line, r with
  | some h, _ => h.ver
  | none, .glob .vault _ _ _ _ => 0
  | none, _ => Tab.get 0 p.floors (homeSlice p (line * 128))
def lineVersion (s : State) (part : Nat) (r : Route) (line : Nat) : Nat := ((s.part? part).map fun p => p.version r line).getD 0

/-- The sharers of an HW-coherent line lose their copies when it is written; the writer's own is written through (R236). -/
def dropSharers (s : State) (own : Option Nat) (t : Tier) (line : Nat) : State :=
  { s with cores := s.cores.map fun c =>
      if some c.1 = own then c else (c.1, { c.2 with l1 := c.2.l1.filter fun x => !(sameLine t line x && decide (x.coh = .hw)) }) }

/-- A write has been applied to a line at its home by core `own`: the line's version becomes the write stamp of its home's die, or a
commit's stamp, and never falls (R372); a non-temporal write marks a line it brings in (R57). Log 63 (DESIGN CHOICE). -/
def stampLine (s : State) (part : Nat) (own : Option Nat) (commit : Option Nat) (nt : Bool) (r : Route) (line : Nat) : State :=
  match r with
  | .glob .hbm _ _ _ _ | .glob .vault _ _ _ _ =>
    let t := (routeTier r).getD .hbm
    let v := commit.getD (writeStamp s (homeDie s part r (line * 128)))
    let s := dropSharers (if t = .hbm then sliceHold s part line nt else s) own t line
    s.modPart part fun p =>
      { p with lines := Tab.set none p.lines line (some ⟨max (p.version r line) v, ((Tab.get none p.lines line).map (·.nt)).getD false⟩) }
  | _ => s

/-- The home-slice copy of a host-tier line takes dirty bytes (R236). -/
def sliceMerge (s : State) (x : L1Line) : State :=
  (sliceCopy s x.part x.key x.line x.nt).modPart x.part fun p =>
    { p with hostCopies := p.hostCopies.map fun y =>
        if sameLine .host x.line y then
          { y with
            data := (List.range 128).map fun i => if x.dirty.getLsbD i then x.data[i]?.getD 0 else y.data[i]?.getD 0
            dirty := y.dirty ||| x.dirty
            pois := (List.range 4).foldl (fun b i => if x.backPois i (y.pois.getLsbD i) then b ||| (1#4 <<< i) else b) 0 }
        else y }

/-- Writes an L1 line's dirty bytes to its home slice, or to the slice's copy for SW-coherent host lines (R238); a write-back to a fenced
channel is discarded and counted (R431). Log 68 (DEDUCED), 83 (DESIGN CHOICE). -/
def writeBack (s : State) (core : Nat) (x : L1Line) : State :=
  if x.dirty = 0 then s
  else if chanFenced s x.tier (x.line * 128) then
    let n := bits (x.line * 128) 39 37
    s.setDie n { s.die n with backsLost := (s.die n).backsLost + 1 }
  else
    match x.tier, x.coh with
    | .host, .sw => sliceMerge s x
    | t, c =>
      let r : Route := .glob t c x.key 0 0
      stampLine (putPois (putDirty s r (x.line * 128) x.dirty 0 x.data) r x) x.part (some core) none x.nt r x.line

-- L1 (R57, R236)

def l1Find (s : State) (core : Nat) (t : Tier) (line : Nat) : Option L1Line := (s.core core).l1.find? (sameLine t line)

/-- The sectors that lanes of an attempt have written, each lane's its own, whatever the mapping (R369). -/
def wlogSectors (ws : List WLog) : List (Nat × Nat) := (ws.map fun w => (w.lane, w.wr.addr / 32)).eraseDups

/-- The speculative sectors that a core's L1 holds (R2, R369). -/
def specSectors (s : State) (core : Nat) : Nat :=
  ((s.groups.filter fun x => x.core == core).map fun x => (wlogSectors x.region.wlog).length).sum

/-- Makes room in an L1 for `n` more sectors: of the 512 KiB, which speculative data share, and of the lines that non-temporal accesses
brought, else of all, one goes, openly, written back first (R2). Log 83 (DESIGN CHOICE). -/
def l1Room (s : State) (core n : Nat) : State :=
  let l := (s.core core).l1
  if 4 * l.length + specSectors s core + n ≤ 16384 then s
  else
    let v := if l.any (·.nt) then l.filter (·.nt) else l
    let (k, s) := s.choose v.length
    match v[k]? with
    | some x => (writeBack s core x).modCore core fun c => { c with l1 := c.l1.filter fun y => !sameLine x.tier x.line y }
    | none => s

/-- The copy an L1 takes of a line, by way of its home slice. -/
def l1Copy (s : State) (part : Nat) (t : Tier) (c : Coh) (k : KeyTag) (line : Nat) (nt : Bool) : L1Line :=
  let r : Route := .glob t c k 0 0
  let held := match t, c with
    | .host, .sw => (s.part? part).bind fun p => p.hostCopies.find? (sameLine .host line)
    | _, _ => none
  match held with
  | some y => { y with dirty := 0, nt := nt }
  | none =>
    { tier := t, line := line, coh := c, key := k, part := part, data := if c = .hw then [] else lineBytes s r line, dirty := 0,
      pois := if c = .hw then 0 else linePois s r line, nt := nt }

/-- The lines L1 may hold (R236). -/
def inL1 : Route → Bool
  | .glob .remote _ _ _ _ | .glob .host .hw _ _ _ => false
  | .glob _ _ _ _ _ => true
  | _ => false

/-- The core's L1 serves an access: it holds the line, but for a copy of an HW-coherent line where the page is that no longer (R241). -/
def l1Held (s : State) (core : Nat) (t : Tier) (c : Coh) (line : Nat) : Bool :=
  ((l1Find s core t line).map fun x => !(decide (x.coh = .hw) && decide (c ≠ .hw))).getD false

/-- Such a copy leaves; its line stands at home. -/
def dropStaleHw (s : State) (core : Nat) (t : Tier) (c : Coh) (line : Nat) : State :=
  if c = .hw then s
  else s.modCore core fun x => { x with l1 := x.l1.filter fun y => !(sameLine t line y && decide (y.coh = .hw)) }

/-- Brings a line into the core's L1 unless it is held, and into its home slice (R236, R445). -/
def ensureL1 (s : State) (core part : Nat) (r : Route) (line : Nat) (nt : Bool) : State :=
  match r with
  | .glob t c k _ _ =>
    if inL1 r ∧ l1Held s core t c line = false then
      let s := l1Room (dropStaleHw (sliceFill s part r line nt) core t c line) core 4
      s.modCore core fun x => { x with l1 := l1Copy s part t c k line nt :: x.l1 }
    else s
  | _ => s

/-- Write-back data lives in L1 (R236): SW-coherent and core-private lines of tiers HBM, vault and host. Log 83 (DESIGN CHOICE). -/
def writesBack : Route → Bool
  | .glob .remote _ _ _ _ => false
  | .glob _ .sw _ _ _ => true
  | .glob _ .priv _ _ _ => true
  | _ => false

/-- The 32 bytes of a sector as the core reads them, with the poison bit they are read with (R91). -/
def readSector (s : State) (core part : Nat) (r : Route) (sec : Nat) (nt : Bool) : State × List Byte × Bool :=
  let s := ensureL1 s core part r (sec / 4) nt
  if writesBack r then
    match l1Find s core ((routeTier r).getD .hbm) (sec / 4) with
    | some x => (s, (x.data.drop (32 * (sec % 4))).take 32, x.pois.getLsbD (sec % 4))
    | none => (s, List.replicate 32 0, false)
  else (s, (List.range 32).map fun i => homeRead s r (sec * 32 + i), homePois s r sec)

/-- Applies one byte of a write where the attribute places it (R236, R246). -/
def applyByte (s : State) (core part : Nat) (nt : Bool) (w : ByteWr) : State :=
  if writesBack w.route then
    let line := w.addr / 128
    let s := ensureL1 s core part w.route line nt
    let t := (routeTier w.route).getD .hbm
    s.modCore core fun c =>
      { c with l1 := c.l1.map fun x =>
          if sameLine t line x then
            { x with data := x.data.modify (w.addr % 128) fun b => maskByte b w.mask w.val,
                     dirty := x.dirty ||| (1#128 <<< (w.addr % 128)) }
          else x }
  else homeWrite s w.route w.addr w.mask w.val

/-- The poison of a sector after a write that covers it whole, or in part (R92). -/
def applyPois (s : State) (core : Nat) (r : Route) (sec : Nat) (whole created : Bool) : State :=
  if !whole && !created then s
  else if writesBack r then
    let t := (routeTier r).getD .hbm
    s.modCore core fun c =>
      { c with l1 := c.l1.map fun x =>
          if sameLine t (sec / 4) x then
            { x with pois := if created then x.pois ||| (1#4 <<< (sec % 4)) else x.pois &&& ~~~(1#4 <<< (sec % 4)) }
          else x }
  else homeSetPois s r sec created

/-- The sectors a list of byte writes touches, once each. -/
def wrSectors (ws : List ByteWr) : List (Route × Nat) := (ws.map fun w => (w.route, w.addr / 32)).eraseDups

/-- The bits of a byte that writes cover. -/
def coverMask (ws : List ByteWr) (r : Route) (a : Nat) : Byte :=
  ws.foldl (fun m w => if w.route = r ∧ w.addr = a then m ||| w.mask else m) 0

/-- Whether the writes cover all 32 bytes of a sector (R92). -/
def coversSector (ws : List ByteWr) (x : Route × Nat) : Bool :=
  (List.range 32).all fun i => coverMask ws x.1 (x.2 * 32 + i) == 0xFF

/-- Applies a write of a core: its bytes, the poison of every sector it touches, the versions of its lines; `commit` is a commit's stamp. -/
def applyWrites (s : State) (core part : Nat) (nt : Bool) (commit : Option Nat) (ws : List ByteWr) (pois : List (Route × Nat)) : State :=
  let s := ws.foldl (fun s w => applyByte s core part nt w) s
  let secs := wrSectors ws
  let s := secs.foldl (fun s x => applyPois s core x.1 x.2 (coversSector ws x) (pois.contains x)) s
  (secs.map fun x => (x.1, x.2 / 4)).eraseDups.foldl
    (fun s x => if writesBack x.1 then s else stampLine s part (some core) commit nt x.1 x.2) s

/-- Drops an L1 line after writing it back. -/
def flushLine (s : State) (core : Nat) (x : L1Line) : State :=
  (writeBack s core x).modCore core fun c => { c with l1 := c.l1.filter fun y => !sameLine x.tier x.line y }
/-- Writes an L1 line back and keeps it, clean (R258). -/
def cleanLine (s : State) (core : Nat) (x : L1Line) : State :=
  (writeBack s core x).modCore core fun c =>
    { c with l1 := c.l1.map fun y => if sameLine x.tier x.line y then { y with dirty := 0 } else y }

end Sys2Proof.Machine
end

