-- ==== Sys2Proof/Machine/Fabric.lean ====
section
/-! DEFINITION. The trimming fabric (R389 to R408): packets, egress queues and arbitration, streams at their source and destination,
re-requests, acknowledgements, retransmission, broken streams, and what an applied packet does. -/

namespace Sys2Proof.Machine

open Sys2Proof

-- packet fields (R397)

def pktBits (w : W64) (hi lo : Nat) : Nat := bits w.toNat hi lo
def pType (p : Pkt) : Nat := pktBits p.dw0 63 58
def pTC (p : Pkt) : Nat := pktBits p.dw0 57 55
def pTrim (p : Pkt) : Bool := p.dw0.getLsbD 54
def pUnord (p : Pkt) : Bool := p.dw0.getLsbD 53
def pRel (p : Pkt) : Bool := p.dw0.getLsbD 52
def pDst (p : Pkt) : Endpt := ⟨pktBits p.dw0 51 40, pktBits p.dw0 39 37, pktBits p.dw0 36 32⟩
def pSrc (p : Pkt) : Endpt := ⟨pktBits p.dw0 31 20, pktBits p.dw0 19 17, pktBits p.dw0 16 12⟩
def pNew (p : Pkt) : Bool := p.dw0.getLsbD 10
def pNsect (p : Pkt) : Nat := pktBits p.dw0 6 0
def pSeq (p : Pkt) : Nat := pktBits p.dw1 63 48
def pKey (p : Pkt) : Nat := pktBits p.dw1 47 32
def pTag (p : Pkt) : Nat := pktBits p.dw1 31 16
def pOtc (p : Pkt) : Nat := pktBits p.dw1 15 13
def pArg (p : Pkt) : Nat := pktBits p.dw2 63 56
def pStatus (p : Pkt) : Nat := pktBits p.dw2 55 48
def pAddr (p : Pkt) : Nat := pktBits p.dw2 47 0

/-- The types of R398. -/
def pktTypes : List Nat := [1, 2, 3, 4, 5, 6, 7, 8, 9, 10, 11, 12, 16]
/-- ERR, ACK and RREQ are unsequenced (R392). -/
def unsequenced (t : Nat) : Bool := t == 7 || t == 8 || t == 9

/-- A packet that R397 discards on arrival. -/
def pktBad (p : Pkt) : Bool :=
  !pktTypes.contains (pType p) || pktBits p.dw0 9 7 != 0 || pktBits p.dw1 12 0 != 0 || decide (64 < pNsect p)

/-- A packet of the types R398 gives a payload, with one. -/
def hasPayload (p : Pkt) : Bool := pNsect p != 0 && !([3, 7, 8, 9].contains (pType p))

/-- The flits of a packet (R394). -/
def flits (p : Pkt) : Nat := if pTrim p then 1 else (32 + 32 * pNsect p + 63) / 64

def mkDw0 (typ tc : Nat) (unord rel resent new : Bool) (d s : Endpt) (ns : Nat) : W64 :=
  let f := fun (b : Bool) (k : Nat) => if b then 2 ^ k else 0
  BitVec.ofNat 64 (typ * 2 ^ 58 + tc * 2 ^ 55 + f unord 53 + f rel 52 + d.dev % 4096 * 2 ^ 40 + d.die % 8 * 2 ^ 37
    + d.part % 32 * 2 ^ 32 + s.dev % 4096 * 2 ^ 20 + s.die % 8 * 2 ^ 17 + s.part % 32 * 2 ^ 12 + f resent 11 + f new 10 + ns)
def mkDw1 (seq key tag otc : Nat) : W64 :=
  BitVec.ofNat 64 (seq % 65536 * 2 ^ 48 + key % 65536 * 2 ^ 32 + tag % 65536 * 2 ^ 16 + otc * 2 ^ 13)
def mkDw2 (arg status addr : Nat) : W64 := BitVec.ofNat 64 (arg * 2 ^ 56 + status * 2 ^ 48 + addr % 2 ^ 48)

/-- Trimming (R396). -/
def trimPkt (p : Pkt) : Pkt :=
  let tc := pTC p
  { p with
    dw0 := (p.dw0 &&& ~~~(0x7#64 <<< 55)) ||| (0x7#64 <<< 55) ||| (1#64 <<< 54)
    dw1 := (p.dw1 &&& ~~~(0x7#64 <<< 13)) ||| (BitVec.ofNat 64 tc <<< 13)
    dw3 := 0, payload := [] }

-- ports

def State.port (s : State) (n : Nat) : Port := s.fabric.ports[n]?.getD Port.reset
def State.setPort (s : State) (n : Nat) (p : Port) : State :=
  { s with fabric := { s.fabric with ports := s.fabric.ports.setIfInBounds n p } }
def State.modFabric (s : State) (f : Fabric → Fabric) : State := { s with fabric := f s.fabric }

/-- Adds to a counter of R408: 0 TRIMMED, 1 REREQ, 2 RESENT, 5 LOST, 6 ERRORS, of a class. -/
def countPort (s : State) (n k c : Nat) : State :=
  let p := s.port n
  s.setPort n { p with ctrs := Tab.set 0 p.ctrs (8 * k + c) ((Tab.get 0 p.ctrs (8 * k + c) + 1) % 2 ^ 64) }

def qFlits (l : List Hop) : Nat := (l.map fun x => flits x.pkt).sum
def portFlits (p : Port) : Nat := (p.queues.toList.map qFlits).sum
/-- Flits of TC0 to TC6, the shared buffer's. -/
def sharedFlits (p : Port) : Nat := ((p.queues.toList.take 7).map qFlits).sum

/-- The trim threshold of a class (R395). -/
def threshold (p : Port) (c : Nat) : Nat :=
  match c with
  | 0 => bits p.th0.toNat 10 0 | 1 => bits p.th0.toNat 26 16 | 2 => bits p.th0.toNat 42 32 | 3 => bits p.th0.toNat 58 48
  | 4 => bits p.th1.toNat 10 0 | 5 => bits p.th1.toNat 26 16 | _ => bits p.th1.toNat 42 32

def pushQueue (p : Port) (c : Nat) (x : Hop) : Port :=
  { p with queues := p.queues.setIfInBounds c ((p.queues[c]?.getD []) ++ [x]) }

/-- A packet arrives at an egress port (R396): queued, trimmed, or lost. -/
def enqueue (s : State) (n : Nat) (h : Hop) : State :=
  let x := h.pkt
  let p := s.port n
  let c := pTC x
  if c = 7 then
    (if 64 < qFlits (p.queues[7]) + 1 then countPort s n 5 7 else s.setPort n (pushQueue p 7 h))
  else
    let fits := decide (sharedFlits p + flits x ≤ 1024)
    if hasPayload x = false then (if fits then s.setPort n (pushQueue p c h) else countPort s n 5 c)
    else if threshold p c < qFlits (p.queues[c]?.getD []) ∨ !fits then
      let s := countPort s n 0 c
      let p := s.port n
      if 64 < qFlits (p.queues[7]) + 1 then countPort s n 5 c else s.setPort n (pushQueue p 7 { h with pkt := trimPkt x })
    else s.setPort n (pushQueue p c h)

/-- The port of a routing entry's mask with the fewest queued flits among those the partition owns (R390). -/
def pickPort (s : State) (part dev : Nat) : Option Nat :=
  let e := Tab.get 0 s.fabric.routes (4096 * part + dev)
  if !e.getLsbD 63 then none
  else
    ((List.range 16).filter fun n => e.getLsbD n && (s.port n).assigned && (s.port n).owner == part).foldl
      (fun b n => match b with
        | none => some n
        | some m => if portFlits (s.port n) < portFlits (s.port m) then some n else some m) none

/-- The UCIe link end by which die `a` sends to die `b`: along the row first, then across (R389). -/
def hopPort (a b : Nat) : Nat := 16 + 3 * a + (if a % 4 < b % 4 then 0 else if b % 4 < a % 4 then 1 else 2)
/-- The die at the other end of a UCIe link (R395). -/
def hopDie (n : Nat) : Nat :=
  let d := (n - 16) / 3
  if n % 3 = 1 then d + 1 else if n % 3 = 2 then d - 1 else (d + 4) % 8

/-- The die a packet is bound for. -/
def Hop.die (h : Hop) : Nat := if h.out < 16 then h.out / 2 else h.out - 16

/-- A packet on a die goes on to the egress port that takes it towards where it is bound (R389). -/
def hopOn (s : State) (die : Nat) (h : Hop) : State := enqueue s (if h.die = die then h.out else hopPort die h.die) h

/-- Puts a packet of this device on its way; with no port it is lost. Log 67 (DEDUCED). -/
def routeOut (s : State) (part : Nat) (x : Pkt) : State :=
  match pickPort s part (pDst x).dev with
  | some n => hopOn s (pSrc x).die ⟨x, n, n⟩
  | none => countPort s 0 5 (pTC x)

/-- A class's quantum (R394). -/
def quantum (p : Port) (c : Nat) : Nat := 64 * max (bits p.w.toNat (8 * c + 7) (8 * c)) 1

/-- Deficit-weighted round robin among the classes lo to hi, beginning with the class served last: the class whose head is sent, and
the deficits. -/
def drrPick (p : Port) (lo hi : Nat) : Nat → Nat → Vector Nat 8 → Option (Nat × Vector Nat 8)
  | 0, _, _ => none
  | fuel + 1, c, d =>
    let next := if c = lo then hi else c - 1
    match p.queues[c]?.getD [] with
    | [] =>
      let d := d.setIfInBounds c 0
      drrPick p lo hi fuel next (d.setIfInBounds next (d[next]?.getD 0 + quantum p next))
    | x :: _ =>
      if 64 * flits x.pkt ≤ d[c]?.getD 0 then some (c, d.setIfInBounds c (d[c]?.getD 0 - 64 * flits x.pkt))
      else drrPick p lo hi fuel next (d.setIfInBounds next (d[next]?.getD 0 + quantum p next))

/-- One packet leaves an egress port (R394). -/
def sendOne (p : Port) : Port × Option Hop :=
  match p.queues[7]? with
  | some (h :: rest) => ({ p with queues := p.queues.setIfInBounds 7 rest }, some h)
  | _ =>
    let some' := fun (lo hi : Nat) => (List.range 8).any fun c => decide (lo ≤ c ∧ c ≤ hi) && !((p.queues[c]?.getD []).isEmpty)
    let go := fun (lo hi last : Nat) =>
      match drrPick p lo hi 400 last p.deficit with
      | none => (p, last, none)
      | some (c, d) =>
        let l := p.queues[c]?.getD []
        ({ p with queues := p.queues.setIfInBounds c l.tail, deficit := if l.tail.isEmpty then d.setIfInBounds c 0 else d }, c, l.head?)
    if some' 4 6 then (let (q, c, h) := go 4 6 p.lastSync; ({ q with lastSync := c }, h))
    else if some' 0 3 then (let (q, c, h) := go 0 3 p.lastBulk; ({ q with lastBulk := c }, h))
    else (p, none)

-- the source (R392, R399, R403)

def srcOf? (s : State) (sid : StreamId) : Option SrcStream := s.fabric.src.find? (decide <| ·.sid = sid)
def setSrc (s : State) (x : SrcStream) : State :=
  s.modFabric fun f =>
    { f with src := if f.src.any (decide <| ·.sid = x.sid) then f.src.map fun y => if y.sid = x.sid then x else y
                    else f.src ++ [x] }

/-- A stream can take `n` more packets (R403). -/
def canSend (s : State) (sid : StreamId) (n : Nat) : Bool :=
  match srcOf? s sid with
  | some x => x.broken || decide (x.unacked.length + n ≤ 1024)
  | none => true

/-- The sectors a packet covers. -/
def pktSectors (p : Pkt) : List Nat := (List.range (max (pNsect p) 1)).map fun i => pAddr p / 32 + i

/-- Whether an earlier unacknowledged packet of the stream covers a byte of this one (R399). -/
def overlapsUnacked (x : SrcStream) (p : Pkt) : Bool :=
  x.unacked.any fun u => (pktSectors u.2.1).any fun a => (pktSectors p).contains a

/-- Sends a sequenced packet on a stream: its number, UNORD (R399), NEW on the first sending of a fresh stream, its copy kept until
acknowledged as it was sent. Log 97 (DEDUCED). -/
def sendSeq (s : State) (sid : StreamId) (typ : Nat) (rel : Bool) (key tag arg status addr : Nat) (dw3 : W64)
    (ns : Nat) (payload : List Byte) : State × Nat :=
  let x := (srcOf? s sid).getD ⟨sid, 0, true, [], false⟩
  if x.broken then (countPort s ((pickPort s sid.own.part sid.peer.dev).getD 0) 5 sid.tc, x.next)
  else
    let pre : Pkt := ⟨0, 0, mkDw2 arg status addr, dw3, payload⟩
    let probe : Pkt := { pre with dw0 := mkDw0 typ sid.tc false rel false false sid.peer sid.own ns }
    let unord := !rel && [1, 2, 3, 4, 16].contains typ && !overlapsUnacked x probe
    let p : Pkt :=
      { pre with
        dw0 := mkDw0 typ sid.tc unord rel false x.fresh sid.peer sid.own ns
        dw1 := mkDw1 x.next key tag 0 }
    let s := setSrc s { x with next := (x.next + 1) % 65536, fresh := false, unacked := x.unacked ++ [(x.next, p, s.ns, 0)] }
    (routeOut s sid.own.part p, x.next)

/-- Sends an unsequenced packet that refers to packet `seq` of a stream's class. -/
def sendUnseq (s : State) (own peer : Endpt) (typ tc otc seq status : Nat) : State :=
  routeOut s own.part ⟨mkDw0 typ tc false false false false peer own 0, mkDw1 seq 0 0 otc, mkDw2 0 status 0, 0, []⟩

/-- Sends a kept packet again with RESENT (R403, R404); `new` marks the answer to RESYNC. -/
def resend (s : State) (p : Pkt) (new : Bool) : State :=
  let q := { p with dw0 := p.dw0 ||| (1#64 <<< 11) ||| (if new then 1#64 <<< 10 else 0) }
  let s := match pickPort s (pSrc p).part (pDst p).dev with
    | some n => countPort s n 2 (pTC p)
    | none => s
  routeOut s (pSrc p).part q

/-- a < b counting modulo 2^16 within half the circle. -/
def seqLt (a b : Nat) : Bool := a != b && decide ((b + 65536 - a) % 65536 < 32768)

-- FABERR (R406)

/-- Records a fabric error of a partition, or counts it while V is set. -/
def fabErr (s : State) (part kind : Nat) (peer : Endpt) (seq tc port : Nat) : State :=
  match s.part? part with
  | none => s
  | some p =>
    if p.faberr.getLsbD 63 then countPort s port 6 tc
    else
      let v := p.faberr.setWidth 8
      let w := BitVec.ofNat 64 (2 ^ 63 + kind * 2 ^ 60 + peer.dev % 4096 * 2 ^ 40 + peer.die % 8 * 2 ^ 37 + peer.part % 32 * 2 ^ 32
        + seq % 65536 * 2 ^ 16 + tc * 2 ^ 13) ||| v.setWidth 64
      (s.setPart { p with faberr := w }).notify (.msix part v.toNat)

-- batch streams and the completion of engine operations (R261 to R267)

def Group.stream (g : Group) : Strm → Stream
  | .copy => g.copyS
  | .matrix => g.matrixS
  | .gather => g.gatherS
def Group.setStream (g : Group) (x : Strm) (v : Stream) : Group :=
  match x with
  | .copy => { g with copyS := v }
  | .matrix => { g with matrixS := v }
  | .gather => { g with gatherS := v }

def insertFail (f : EngFail) : List EngFail → List EngFail
  | [] => [f]
  | x :: t => if f.op < x.op then f :: x :: t else x :: insertFail f t

/-- An operation is complete, with its failure if it has one. -/
def finishOp (g : Group) (x : Strm) (op : Nat) (fail : Option (BitVec 16 × W64)) : Group :=
  let st := g.stream x
  let batch := ((st.ops.find? (·.1 == op)).map (·.2)).getD st.closed
  let st := { st with ops := st.ops.filter (·.1 != op) }
  g.setStream x (match fail with
    | some (c, a) => { st with fails := insertFail ⟨op, batch, c, a⟩ st.fails }
    | none => st)

def freeLocks (s : State) (core op : Nat) : State :=
  s.modCore core fun c => { c with locks := c.locks.filter (·.owner != op) }

/-- Changes what is kept of an operation's remote writes. -/
def setOut (s : State) (op : Nat) (f : EngOut → EngOut) : State :=
  if s.engOut.any (·.op == op) then { s with engOut := s.engOut.map fun o => if o.op = op then f o else o }
  else { s with engOut := s.engOut ++ [f ⟨op, 0, 0, .copy, none, false, [], []⟩] }

-- answers to remote requests

/-- Changes a group wherever it is: resident, saved in the context store, or what is left of it after its end. -/
def State.modAny (s : State) (gid : Nat) (f : Group → Group) : State :=
  { (s.modGroup gid f) with
    saved := s.saved.map fun x => if x.g.gid = gid then { x with g := f x.g } else x
    ended := s.ended.map fun x => if x.gid = gid then f x else x }
/-- The group wherever it is. -/
def State.anyGroup? (s : State) (gid : Nat) : Option Group :=
  ((s.group? gid).or ((s.saved.find? (·.g.gid == gid)).map (·.g))).or (s.ended.find? (·.gid == gid))
/-- Changes every group that still counts for something. -/
def State.mapGroups (s : State) (f : Group → Group) : State :=
  { s with groups := s.groups.map f, saved := s.saved.map fun x => { x with g := f x.g }, ended := s.ended.map f }
/-- Every group that still counts for something. -/
def State.allGroups (s : State) : List Group := s.groups ++ s.saved.map (·.g) ++ s.ended

/-- Operations whose work is over and whose remote writes are all answered complete. -/
def settleOut (s : State) : State :=
  let ready := fun (o : EngOut) => o.ended && o.writes.isEmpty && o.pend.isEmpty
  (s.engOut.filter ready).foldl (fun s o => (freeLocks s o.core o.op).modAny o.gid fun g => finishOp g o.strm o.op o.fail)
    { s with engOut := s.engOut.filter fun o => !ready o }

/-- Remote writes of engines are answered: those `p` names; a refused one fails its operation with PERM (R265). -/
def outAnswered (s : State) (refused : Bool) (p : StreamId × Nat × W64 → Bool) : State :=
  settleOut { s with engOut := s.engOut.map fun o =>
    { o with
      writes := o.writes.filter fun w => !p w
      fail := if refused then o.fail.or ((o.writes.find? p).map fun w => (Cause.perm.bit, w.2.2)) else o.fail } }

/-- A delivery comes back for a tag (R39). -/
def deliverTo (n : BitVec 3) (ls : List Landing) (g : Group) : Group :=
  match g.tags[n.toNat]?.join with
  | none => g
  | some t => { g with tags := g.tags.setIfInBounds n.toNat (some { t with await := t.await - 1, sects := t.sects ++ ls }) }

/-- Several deliveries written together. -/
def joinLandings : List Landing → List Landing
  | [] => []
  | .vec a :: ls =>
    match joinLandings ls with
    | [.vec b] => [.vec (a ++ b)]
    | r => .vec a :: r
  | x :: ls => x :: joinLandings ls

/-- The response of a request: its elements land once every request of its batch has answered (R245, R337, R405). -/
def respond (s : State) (tag : Nat) (val : RemReq → Landing) : State :=
  match s.fabric.reqs.find? (·.tag == tag) with
  | none => s
  | some r =>
    let reqs := s.fabric.reqs.map fun x => if x.tag = tag then { x with got := some [val r] } else x
    let mine := reqs.filter (·.batch == r.batch)
    if mine.all fun x => x.got.isSome then
      let s := s.modFabric fun f => { f with reqs := reqs.filter (·.batch != r.batch) }
      match r.eng with
      | some op => { s with engIn := s.engIn ++ (mine.flatMap fun x => x.got.getD []).map fun l => (op, l) }
      | none => s.modAny r.gid (deliverTo r.ttag (joinLandings (mine.flatMap fun x => x.got.getD [])))
    else s.modFabric fun f => { f with reqs := reqs }

/-- The elements of a request that will not be answered: marked poisoned (R405). Log 66 (DEDUCED). -/
def poisonedLanding (r : RemReq) : Landing :=
  if r.eng.isSome then .sect r.sid.peer.dev r.sec (List.replicate 32 0) true
  else
    match r.scal with
    | some d => .scal d.1 0 true
    | none => .vec (r.elems.map fun e => ⟨e.1, e.2.1, 0, true⟩)

/-- The answer to a refused request (R265, R405). Log 66 (DEDUCED). -/
def refusedLanding (r : RemReq) : Landing := if r.eng.isSome then .refused r.sid.peer.dev r.sec else poisonedLanding r

/-- The unacknowledged writes of a broken stream are discarded; the system releases held for them are never applied (R405, R407). -/
def loseWrites (sid : StreamId) (g : Group) : Group :=
  { g with remWr := g.remWr.map fun w => if w.sid = sid then { w with lost := true } else w }

/-- An operation waiting on a broken stream is answered as lost (R405). -/
def loseOp (sid : StreamId) (g : Group) : Group :=
  match g.remOp with
  | some (x, tag, none) => if x = sid then { g with remOp := some (x, tag, some 4) } else g
  | _ => g

/-- The stream is broken (R405). -/
def streamLost (s : State) (sid : StreamId) : Bool := ((srcOf? s sid).map (·.broken)).getD false

/-- What waits on a stream is answered as lost, once the stream is broken (R405). -/
def answerLost (s : State) (sid : StreamId) : State :=
  if streamLost s sid then
    let s := (s.fabric.reqs.filter fun r => decide (r.sid = sid)).foldl (fun s r => respond s r.tag poisonedLanding) s
    s.mapGroups (loseOp sid)
  else s

/-- A group whose instruction is parked on an object of a device looks again. -/
def lookAgain (part dev : Nat) (g : Group) : Group :=
  match g.wait with
  | .parked (.glob .remote c k kid d) a false => if g.part = part ∧ d = dev then { g with wait := .parked (.glob .remote c k kid d) a true } else g
  | _ => g

/-- What a broken stream leaves behind (R405), packet `seq` having been sent often enough. -/
def breakStream (s : State) (x : SrcStream) (seq : Nat) : State :=
  let s := answerLost (setSrc s { x with unacked := [], broken := true }) x.sid
  let s := outAnswered (s.mapGroups fun g => lookAgain x.sid.own.part x.sid.peer.dev (loseWrites x.sid g)) false fun w => decide (w.1 = x.sid)
  fabErr s x.sid.own.part 1 x.sid.peer seq x.sid.tc
    ((pickPort s x.sid.own.part x.sid.peer.dev).getD 0)

-- the destination (R400 to R402)

def dstOf? (s : State) (sid : StreamId) : Option DstStream := s.fabric.dst.find? (decide <| ·.sid = sid)
def setDst (s : State) (x : DstStream) : State :=
  s.modFabric fun f =>
    { f with dst := if f.dst.any (decide <| ·.sid = x.sid) then f.dst.map fun y => if y.sid = x.sid then x else y
                    else f.dst ++ [x] }

/-- Sends the cumulative ACK of a stream (R402). -/
def sendAck (s : State) (sid : StreamId) : State :=
  match dstOf? s sid with
  | none => s
  | some d =>
    let s := setDst s { d with sinceAck := 0, oldest := none }
    sendUnseq s sid.own sid.peer 8 6 sid.tc d.next 0

/-- Moves NEXT past every applied number (R400). -/
def advance : Nat → DstStream → DstStream
  | 0, d => d
  | n + 1, d =>
    if d.applied.contains d.next then
      advance n { d with next := (d.next + 1) % 65536, applied := d.applied.filter (· != d.next) }
    else d

/-- A packet counts as applied: NEXT, holes and the ACK's count move on (R400, R402). -/
def markApplied (s : State) (sid : StreamId) (seq : Nat) : State :=
  match dstOf? s sid with
  | none => s
  | some d =>
    let d := advance 65 { d with
      applied := seq :: d.applied, held := d.held.filter (·.1 != seq), holes := d.holes.filter (·.1 != seq)
      sinceAck := d.sinceAck + 1, oldest := some (d.oldest.getD s.ns) }
    let s := setDst s d
    if 16 ≤ d.sinceAck then sendAck s sid else s

/-- The model's own coding of an atomic in OPARG: FMT in bits 7:4 and, in bits 3:0, AOP, 14 for ACAS, 15 for AFADD. Log 64 (DESIGN CHOICE). -/
def atomArg (f : AFun) (wide : Bool) : Nat :=
  match f with
  | .cas => 16 * (if wide then 3 else 2) + 14
  | .fadd => 16 * 2 + 15
  | .op o sg =>
    16 * (if sg then (if wide then 12 else 11) else (if wide then 3 else 2)) +
    (match o with
      | .add => 0 | .sub => 1 | .and => 2 | .or => 3 | .xor => 4 | .min => 5 | .max => 6 | .xchg => 7 | .inc => 8)

/-- The slot of a partition a read or a barrier operation uses: its packet carries no key id (R397), so the slot the sector stands under, else the
partition's first. Log 65 (DEDUCED). -/
def readSlot (s : State) (part a : Nat) : Option (Nat × KeySlot) :=
  let mine := s.slots.filter fun k => k.2.owner == part && !k.2.closed
  match s.dev.keys.find? (·.1 == a / 32) with
  | some (_, .slot n l _ _) => (mine.find? fun k => k.1 == n && k.2.load == l).or mine.head?
  | _ => mine.head?

/-- The slot of a partition that holds a packet's key id (R107); a request without a payload carries none. -/
def pktSlot (s : State) (part : Nat) (p : Pkt) : Option (Nat × KeySlot) :=
  if pType p = 3 ∨ pType p = 10 ∧ pNsect p = 0 then readSlot s part (pAddr p) else s.slots.find? fun k => k.2.owner == part && k.2.keyId == pKey p && !k.2.closed

/-- A slot's key over the memory of a device. -/
def slotTag (x : Nat × KeySlot) (dev : Nat) : KeyTag := .slot x.1 x.2.load x.2.key dev

/-- A packet goes between dies of this device (R105, R397). -/
def ownDies (s : State) (p : Pkt) : Bool := (pSrc p).dev == s.fabric.devid && (pDst p).dev == s.fabric.devid

/-- The key a packet's payload travels under in a partition here and its key id, `dev` being the device whose memory ADDR names: the die-link
key and 0 between dies of this device, else a slot's (R105, R107, R397). -/
def pktKey (s : State) (part dev : Nat) (p : Pkt) : Option (KeyTag × Nat) :=
  if ownDies s p then (s.part? part).map fun q => (.link q.dieKey dev, 0)
  else (pktSlot s part p).map fun x => (slotTag x dev, x.2.keyId)

/-- A payload from a byte address on, as it travels under a key, and as it reads under one (R105). -/
def sealBytes (k : KeyTag) (a : Nat) (bs : List Byte) : List Byte :=
  (List.range ((bs.length + 31) / 32)).flatMap fun i => k.sealSec (a / 32 + i) ((bs.drop (32 * i)).take 32)
def openBytes (k : KeyTag) (a : Nat) (bs : List Byte) : List Byte :=
  (List.range ((bs.length + 31) / 32)).flatMap fun i => k.openSec (a / 32 + i) ((bs.drop (32 * i)).take 32)

/-- A packet with its payload decrypted for a partition here (R107). -/
def openPkt (s : State) (part dev : Nat) (p : Pkt) : Pkt :=
  match pktKey s part dev p with
  | some x => { p with payload := openBytes x.1 (pAddr p) p.payload }
  | none => p

/-- The slot under which a packet reaches memory here: that of its key id, or, between dies of this device, the one the sector stands under
(R105). Log 65 (DEDUCED). -/
def memSlot (s : State) (part : Nat) (p : Pkt) : Option (Nat × KeySlot) :=
  if ownDies s p then readSlot s part (pAddr p) else pktSlot s part p

/-- Whether the destination accepts a packet: the frame of every sector is the partition's (R103, R400) and a slot of it holds the key id
(R107). Log 65 (DEDUCED), 68 (DEDUCED). -/
def destRoute (s : State) (p : Pkt) : Option Route :=
  match s.part? (pDst p).part with
  | none => none
  | some q =>
    let tier : Tier := if pAddr p < 0x10000000000 then .hbm else .vault
    if (pktSectors p).any fun n => !frameOk s q tier .hw (32 * n) 0 || chanFenced s tier (32 * n) then none
    else if tier = .vault ∧ ownDies s p = true then some (.glob .vault .hw .clear 0 0)
    else (memSlot s q.id p).map fun x => .glob tier .hw (if tier = .vault then .clear else slotTag x s.fabric.devid) x.2.keyId 0

/-- Applies the payload of a packet that writes (R398): a WRB under its byte enables, any other whole. -/
def applyPktWrite (s : State) (r : Route) (p : Pkt) : State :=
  let a := pAddr p
  let en := fun (i : Nat) => pType p != 2 || p.dw3.getLsbD (32 + i)
  let idx := (List.range p.payload.length).filter en
  let s := idx.foldl (fun s i => homeWrite s r (a + i) 0xFF (p.payload[i]?.getD 0)) s
  let s := (List.range (max (pNsect p) 1)).foldl (fun s k =>
    let whole := pType p != 2 || (List.range 32).all fun i => p.dw3.getLsbD (32 + i)
    let pz := p.dw3.getLsbD k
    if whole || pz then homeSetPois s r (a / 32 + k) pz else s) s
  ((pktSectors p).map (· / 4)).eraseDups.foldl (fun s l => stampLine s (pDst p).part none none false r l) s

/-- The class of the answer to a packet: atomics and queue operations are answered in TC5 (R393). -/
def answerClass (sid : StreamId) : StreamId := if sid.tc = 6 then { sid with tc := 5 } else sid

/-- Sends the answer to a packet with a payload under the key its request used, or the refusal without one. -/
def answerWith (s : State) (sid : StreamId) (p : Pkt) (typ : Nat) (pz : W64) (ns : Nat) (data : List Byte) : State :=
  match pktKey s (pDst p).part s.fabric.devid p with
  | some x => (sendSeq s (answerClass sid) typ false x.2 (pTag p) (pArg p) 0 (pAddr p) pz ns (sealBytes x.1 (pAddr p) data)).1
  | none => s
def answerPerm (s : State) (sid : StreamId) (p : Pkt) (typ : Nat) : State :=
  (sendSeq s (answerClass sid) typ false 0 (pTag p) (pArg p) 1 (pAddr p) 0 0 []).1

/-- The refusal of a packet (R400). -/
def sendErr (s : State) (sid : StreamId) (seq : Nat) : State := sendUnseq s sid.own sid.peer 7 6 sid.tc seq 1

/-- A packet's writes at the destination slice, or its refusal (R400). -/
def pktWrites (s : State) (sid : StreamId) (p : Pkt) : State :=
  match destRoute s p with
  | some r => applyPktWrite s r (openPkt s (pDst p).part s.fabric.devid p)
  | none => sendErr s sid (pSeq p)

/-- Carries out the packet of a stream (R400): writes, the writes of a commit token and write-backs, reads and atomics at the destination
slice, answers at the requester; a line fill leaves what the home holds. `atom` performs an atomic, `land` makes a delivery of a response,
`qop` carries out QOP and QRSP. A read brings the lines to their home slice. Log 64 (DESIGN CHOICE), 66 (DEDUCED). -/
def applyPkt (s : State) (sid : StreamId) (p : Pkt) (port : Nat) (atom : State → Route → Pkt → State × Nat × Bool)
    (land : Pkt → RemReq → Landing) (qop : State → StreamId → Pkt → Nat → State) : State :=
  let seq := pSeq p
  let s :=
    match pType p with
    | 1 | 2 => pktWrites s sid p
    | 12 => if pNsect p = 0 then s else pktWrites s sid p
    | 16 => if sid.tc = 0 ∧ pNsect p ≠ 0 then pktWrites s sid p else s
    | 3 =>
      match destRoute s p with
      | some r =>
        let s := ((pktSectors p).map (· / 4)).eraseDups.foldl (fun s l => sliceFill s (pDst p).part r l false) s
        let data := (List.range (32 * pNsect p)).map fun i => homeRead s r (pAddr p + i)
        let pz := (List.range (pNsect p)).foldl (fun (x : W64) k => if homePois s r (pAddr p / 32 + k) then x ||| (1#64 <<< k) else x) 0
        answerWith s sid p 4 pz (pNsect p) data
      | none => answerPerm s sid p 4
    | 5 =>
      match destRoute s p with
      | some r =>
        let (s, old, pz) := atom s r (openPkt s (pDst p).part s.fabric.devid p)
        answerWith s sid p 6 (if pz then 1 else 0) 1 (natLe 32 old)
      | none => answerPerm s sid p 6
    | 4 | 6 =>
      let refused := fun (s : State) => fabErr (respond s (pTag p) refusedLanding) sid.own.part 2 sid.peer seq sid.tc port
      if pStatus p = 1 then refused s
      else if (pktKey s sid.own.part sid.peer.dev p).isNone then refused (sendErr s sid seq)
      else respond s (pTag p) (land (openPkt s sid.own.part sid.peer.dev p))
    | 10 | 11 => qop s sid p port
    | _ => s
  markApplied s sid seq

/-- How many packets of an AT packet's sequence follow it, the lanes of one instruction at one address (R310); the model's own coding, in the
byte after the operands. Log 64 (DESIGN CHOICE). -/
def chainLeft (s : State) (p : Pkt) : Nat :=
  if pType p = 5 then (((openPkt s (pDst p).part s.fabric.devid p).payload[16]?).getD 0).toNat else 0

/-- Whether a held packet may be applied now (R400): an AT packet with the whole of its sequence, a request once its answer can be sent
(R403). -/
def mayApply (s : State) (d : DstStream) (p : Pkt) : Bool :=
  let below := (pSeq p + 65536 - d.next) % 65536
  let nums := (List.range below).map fun i => (d.next + i) % 65536
  ((List.range (chainLeft s p)).all fun i => d.held.any (·.1 == (pSeq p + 1 + i) % 65536)) &&
  (!([3, 5, 10].contains (pType p)) || canSend s (answerClass d.sid) (1 + chainLeft s p)) &&
  if pUnord p then true
  else if pRel p then below == 0
  else nums.all fun n => d.applied.contains n || d.held.any fun h => h.1 == n && pUnord h.2.1

/-- Queues a re-request, for a hole recorded at the time given (R401). -/
def queueRreq (s : State) (sid : StreamId) (seq time : Nat) (resync : Bool) (port : Option Nat) : State :=
  s.modFabric fun f =>
    if f.rreqs.any (fun r => decide (r.sid = sid) && r.seq == seq) then f
    else { f with rreqs := f.rreqs ++ [⟨sid, seq, time, resync, port⟩] }

/-- A packet marked NEW, or its trimmed header, begins its stream afresh: the old window and its re-requests are discarded (R403). -/
def freshDst (s : State) (sid : StreamId) (seq : Nat) : State :=
  (setDst s ⟨sid, seq, [], [], [], 0, none⟩).modFabric fun f => { f with rreqs := f.rreqs.filter fun r => !decide (r.sid = sid) }

/-- The arrival of a sequenced packet, or of its trimmed header, at its destination (R400, R401). The packet is held until
PACKET_APPLY carries it out. -/
def receive (s : State) (port : Nat) (p : Pkt) : State :=
  let sid : StreamId := ⟨pDst p, pSrc p, if pTrim p then pOtc p else pTC p⟩
  let seq := pSeq p
  let s := if pNew p then freshDst s sid seq else s
  match dstOf? s sid with
  | none => queueRreq s sid seq s.ns true none
  | some d =>
    let k := (seq + 65536 - d.next) % 65536
    if 32768 ≤ k ∨ d.applied.contains seq ∨ d.held.any (·.1 == seq) then sendAck (setDst s d) sid
    else
      let hole := (d.holes.find? (·.1 == seq)).getD (seq, s.ns, port)
      if 64 ≤ k then queueRreq (countPort s port 0 sid.tc) sid seq s.ns false none
      else if pTrim p then
        queueRreq (setDst s { d with holes := if d.holes.any (·.1 == seq) then d.holes else d.holes ++ [hole] }) sid seq hole.2.1 false (some hole.2.2)
      else
        let d := { d with holes := d.holes.filter (·.1 != seq), held := d.held ++ [(seq, p, port)] }
        (setDst s d).modFabric fun f => { f with rreqs := f.rreqs.filter fun r => !(decide (r.sid = sid) && r.seq == seq) }

/-- Packets of other devices are forwarded on the ports of the partition that owns the arrival port (R390). -/
def transit (s : State) (port : Nat) (p : Pkt) : State :=
  let q := s.port port
  if !q.assigned then countPort s port 5 (pTC p)
  else
    match pickPort s q.owner (pDst p).dev with
    | some n => hopOn s (port / 2) ⟨p, n, port⟩
    | none => countPort s port 5 (pTC p)

/-- The arrival of a packet of the type named (R389, R390, R397): discarded, also where an Emlys port is not its partition's, forwarded, sent
on towards its die, or given to its handling there. -/
def arrive (s : State) (port : Nat) (p : Pkt) (f : State → State) : State :=
  if pktBad p ∨ (port < 16 ∧ !(s.port port).assigned) then countPort s port 5 (pTC p)
  else if (pDst p).dev ≠ s.fabric.devid then transit s port p
  else if port < 16 ∧ (s.port port).owner ≠ (pDst p).part then countPort s port 5 (pTC p)
  else if port < 16 ∧ port / 2 ≠ (pDst p).die then hopOn s (port / 2) ⟨p, 16 + (pDst p).die, port⟩
  else f s

/-- The source frees what an ACK covers (R403); groups' remote writes are covered with it (R407). -/
def takeAck (s : State) (p : Pkt) : State :=
  let sid : StreamId := ⟨pDst p, pSrc p, pOtc p⟩
  match srcOf? s sid with
  | none => s
  | some x =>
    let s := setSrc s { x with unacked := x.unacked.filter fun u => !seqLt u.1 (pSeq p) }
    let s := s.mapGroups fun g => { g with remWr := g.remWr.filter fun w => w.lost || !(decide (w.sid = sid) && seqLt w.seq (pSeq p)) }
    outAnswered s false fun w => decide (w.1 = sid) && seqLt w.2.1 (pSeq p)

/-- The source of a refused write (R265, R405). -/
def takeErr (s : State) (p : Pkt) (port : Nat) : State :=
  let sid : StreamId := ⟨pDst p, pSrc p, pOtc p⟩
  if pStatus p = 1 then
    fabErr (outAnswered s true fun w => decide (w.1 = sid) && w.2.1 == pSeq p) (pDst p).part 2 (pSrc p) (pSeq p) (pOtc p) port
  else s

/-- The source answers a re-request (R403). -/
def takeRreq (s : State) (p : Pkt) : State :=
  let sid : StreamId := ⟨pDst p, pSrc p, pOtc p⟩
  match srcOf? s sid with
  | none => s
  | some x =>
    match (if pStatus p = 2 then x.unacked.head? else x.unacked.find? (·.1 == pSeq p)) with
    | some u =>
      resend (setSrc s { x with unacked := x.unacked.map fun y => if y.1 = u.1 then (y.1, y.2.1, s.ns, y.2.2.2) else y }) u.2.1
        (decide (pStatus p = 2))
    | none => s

/-- The retransmit timer of a packet (R404). -/
def rtoNs (s : State) : Nat := 256 * max s.fabric.rto 1

/-- RETRANSMIT_TIMEOUT of a packet, or the break of its stream; on a broken stream, what has been asked since is answered as lost (R404, R405). -/
def timeoutPkt (s : State) (sid : StreamId) (seq : Nat) : State :=
  match srcOf? s sid with
  | none => s
  | some x =>
    if x.broken then answerLost s sid
    else
      match x.unacked.find? (·.1 == seq) with
      | none => s
      | some u =>
        if s.ns < u.2.2.1 + rtoNs s then s
        else if u.2.2.2 < max s.fabric.maxrs 1 then
          resend (setSrc s { x with unacked := x.unacked.map fun y => if y.1 = seq then (y.1, y.2.1, s.ns, y.2.2.2 + 1) else y }) u.2.1 false
        else breakStream s x seq

/-- The re-request to a device whose hole was recorded first (R401). -/
def oldestRreq (l : List RReq) (dev : Nat) : Option RReq :=
  (l.filter (·.sid.peer.dev == dev)).foldl (fun b r => match b with
    | none => some r
    | some x => if r.time < x.time then some r else b) none

/-- Sends the oldest re-request to a device that may be sent now (R401). -/
def sendRreq (s : State) (dev : Nat) : State :=
  match oldestRreq s.fabric.rreqs dev with
  | none => s
  | some r =>
    if Tab.get 0 s.fabric.rreqLast dev ≠ 0 ∧ s.ns + 1 < Tab.get 0 s.fabric.rreqLast dev + 64 then s
    else
      let s := s.modFabric fun f =>
        { f with
          rreqs := f.rreqs.erase r
          rreqLast := Tab.set 0 f.rreqLast dev (s.ns + 1) }
      let s := match r.port with
        | some n => countPort s n 1 r.sid.tc
        | none => s
      sendUnseq s r.sid.own r.sid.peer 9 7 r.sid.tc r.seq (if r.resync then 2 else 0)

/-- Clearing FABERR.V lets the broken streams of the partition start afresh (R405). Log 71 (DEDUCED). -/
def clearFabErr (s : State) (part : Nat) (v : W64) : State :=
  match s.part? part with
  | none => s
  | some p =>
    let clr := v.getLsbD 63
    let w := (p.faberr &&& ~~~0xFF#64) ||| (v &&& 0xFF#64)
    let s := s.setPart { p with faberr := if clr then w &&& 0xFF#64 else w }
    if clr then
      let s := ((s.fabric.src.filter fun x => x.broken && x.sid.own.part == part).map (·.sid)).foldl answerLost s
      let s := s.mapGroups fun g => if g.part = part then { g with remWr := g.remWr.filter fun w => !w.lost } else g
      s.modFabric fun f => { f with src := f.src.map fun x =>
        if x.broken && x.sid.own.part == part then { x with next := 0, fresh := true, unacked := [], broken := false } else x }
    else s

/-- The stream of a partition to a device (R391, R392). -/
def streamTo (s : State) (part die dev pa tc : Nat) : StreamId :=
  let e := Tab.get 0 s.fabric.routes (4096 * part + dev)
  let tier : Tier := if pa < 0x10000000000 then .hbm else .vault
  ⟨⟨s.fabric.devid, die, part⟩, ⟨dev, paDie tier pa, bits e.toNat 36 32⟩, tc⟩

end Sys2Proof.Machine
end

