-- ==== Sys2Proof/Machine/Float.lean ====
section
/-! DEFINITION. Number formats (R76 to R90): decoding, exact arithmetic, one rounding for every format and mode, the conversions of the
store and load paths, and the special functions of R222 to R224. -/

namespace Sys2Proof.Machine

open Sys2Proof

/-- A rounding: a mode of R88, or .SR with the 24 random bits of the element (R89). -/
inductive Rnd where
  | rn | rz | ru | rd
  | sr (g : Nat)
  deriving DecidableEq, Repr

def rndOf : RM → Rnd
  | .rn => .rn | .rz => .rz | .ru => .ru | .rd => .rd

/-- The value of an FP32 datum: NaN, an infinity, or ± m × 2^−149. -/
inductive Fl where
  | nan
  | inf (neg : Bool)
  | fin (neg : Bool) (m : Nat)
  deriving DecidableEq, Repr

def canonNaN : W32 := 0x7FC00000

/-- The magnitude a code of an IEEE-like layout stands for, in units of its smallest subnormal: `f` fraction bits. -/
def magOf (f code : Nat) : Nat := if code < 2 ^ f then code else (2 ^ f + code % 2 ^ f) * 2 ^ (code / 2 ^ f - 1)

/-- R76. -/
def f32 (x : W32) : Fl :=
  let c := x.toNat % 2 ^ 31
  let neg := x.getLsbD 31
  if 0x7F800000 < c then .nan else if c = 0x7F800000 then .inf neg else .fin neg (magOf 23 c)

/-- Whether a magnitude between n and n + 1 steps, `rem` / `full` above n, rounds away from zero (R88, R89). -/
def roundsUp (r : Rnd) (neg : Bool) (n rem full : Nat) : Bool :=
  match r with
  | .rn => decide (full < 2 * rem) || (2 * rem == full && n % 2 == 1)
  | .rz => false
  | .ru => !neg && rem != 0
  | .rd => neg && rem != 0
  | .sr g => decide (2 ^ 24 ≤ rem * 2 ^ 24 / full + g)

/-- Rounds ± m × 2^−u to a format of `f` fraction bits whose smallest subnormal is 2^−q, with no upper exponent limit (q ≤ u): the
magnitude code, whether the result differs from the exact value, and whether it went away from zero. -/
def roundMag (f q u : Nat) (r : Rnd) (neg : Bool) (m : Nat) : Nat × Bool × Bool :=
  let k := max (Nat.log2 m - f) (u - q)
  let n := m / 2 ^ k
  let up := roundsUp r neg n (m % 2 ^ k) (2 ^ k)
  ((k - (u - q)) * 2 ^ f + n + (if up then 1 else 0), m % 2 ^ k != 0, up)

/-- Whether a rounded overflow gives an infinity rather than the largest finite value (R84, R205). -/
def overInf (r : Rnd) (neg up : Bool) : Bool :=
  match r with
  | .rn => true
  | .rz => false
  | .ru => !neg
  | .rd => neg
  | .sr _ => up

/-- FPFLAGS bits (R45). -/
def fInvalid : BitVec 5 := 1
def fDivZero : BitVec 5 := 2
def fOverflow : BitVec 5 := 4
def fUnderflow : BitVec 5 := 8
def fInexact : BitVec 5 := 16

/-- Tiny after rounding (R78): the value rounded to 24 significant bits without a lower exponent limit lies below 2^−126. -/
def tiny (u : Nat) (r : Rnd) (neg : Bool) (m : Nat) : Bool :=
  let k := Nat.log2 m - 23
  let n := m / 2 ^ k
  let n := if roundsUp r neg n (m % 2 ^ k) (2 ^ k) then n + 1 else n
  decide (n * 2 ^ k < 2 ^ (u - 126))

/-- ± m × 2^−u rounded to FP32, with its flags (149 ≤ u). -/
def roundF32 (r : Rnd) (u : Nat) (neg : Bool) (m : Nat) : W32 × BitVec 5 :=
  let (c, inex, up) := roundMag 23 149 u r neg m
  let sg : W32 := if neg then 0x80000000 else 0
  if 0x7F800000 ≤ c then
    (sg ||| (if overInf r neg up then 0x7F800000 else 0x7F7FFFFF), fOverflow ||| fInexact)
  else
    (sg ||| BitVec.ofNat 32 c, if inex then (if tiny u r neg m then fUnderflow ||| fInexact else fInexact) else 0)

/-- A signed exact value rounded; an exact zero takes the sign given. -/
def roundInt (r : Rnd) (u : Nat) (zeroNeg : Bool) (x : Int) : W32 × BitVec 5 :=
  roundF32 r u (if x = 0 then zeroNeg else decide (x < 0)) x.natAbs

def f32Inf (neg : Bool) : W32 := if neg then 0xFF800000 else 0x7F800000
def f32Zero (neg : Bool) : W32 := if neg then 0x80000000 else 0
def Fl.int : Fl → Int
  | .fin true m => -(m : Int)
  | .fin false m => m
  | _ => 0
def Fl.isNeg : Fl → Bool
  | .fin n _ => n
  | .inf n => n
  | .nan => false
def Fl.isNan : Fl → Bool
  | .nan => true
  | _ => false

/-- The sign of an exact zero sum of two terms (R205). -/
def zeroSign (r : Rnd) (a b : Bool) : Bool := if a = b then a else decide (r = .rd)

/-- A sum (R205, R216). -/
def fAddFl (r : Rnd) (a b : Fl) : W32 × BitVec 5 :=
  match a, b with
  | .nan, _ => (canonNaN, 0)
  | _, .nan => (canonNaN, 0)
  | .inf x, .inf y => if x = y then (f32Inf x, 0) else (canonNaN, fInvalid)
  | .inf x, _ => (f32Inf x, 0)
  | _, .inf y => (f32Inf y, 0)
  | .fin x m, .fin y n => roundInt r 149 (zeroSign r x y) (Fl.int (.fin x m) + Fl.int (.fin y n))

def fAdd (r : Rnd) (a b : W32) : W32 × BitVec 5 := fAddFl r (f32 a) (f32 b)
def fNeg (a : W32) : W32 := a ^^^ 0x80000000
/-- A difference: the sum with B's sign turned; a NaN stays one. -/
def fSub (r : Rnd) (a b : W32) : W32 × BitVec 5 := fAdd r a (fNeg b)

/-- A product (R216). -/
def fMulFl (r : Rnd) (a b : Fl) : W32 × BitVec 5 :=
  match a, b with
  | .nan, _ => (canonNaN, 0)
  | _, .nan => (canonNaN, 0)
  | .inf x, .inf y => (f32Inf (x != y), 0)
  | .inf x, .fin y n => if n = 0 then (canonNaN, fInvalid) else (f32Inf (x != y), 0)
  | .fin x m, .inf y => if m = 0 then (canonNaN, fInvalid) else (f32Inf (x != y), 0)
  | .fin x m, .fin y n => roundF32 r 298 (x != y) (m * n)

def fMul (r : Rnd) (a b : W32) : W32 × BitVec 5 := fMulFl r (f32 a) (f32 b)

/-- A fused multiply-add, rounded once; 0 × ∞ is invalid whatever C is (R216). -/
def fFmaFl (r : Rnd) (a b c : Fl) : W32 × BitVec 5 :=
  let sum := fun (neg : Bool) =>
    match c with
    | .nan => (canonNaN, 0)
    | .inf z => if z = neg then (f32Inf neg, 0) else (canonNaN, fInvalid)
    | .fin _ _ => (f32Inf neg, 0)
  match a, b with
  | .nan, _ => (canonNaN, 0)
  | _, .nan => (canonNaN, 0)
  | .inf x, .inf y => sum (x != y)
  | .inf x, .fin y n => if n = 0 then (canonNaN, fInvalid) else sum (x != y)
  | .fin x m, .inf y => if m = 0 then (canonNaN, fInvalid) else sum (x != y)
  | .fin x m, .fin y n =>
    match c with
    | .nan => (canonNaN, 0)
    | .inf z => (f32Inf z, 0)
    | .fin z o =>
      let neg := x != y
      let p : Int := if neg then -((m * n : Nat) : Int) else ((m * n : Nat) : Int)
      let q : Int := Fl.int (.fin z o) * 2 ^ 149
      roundInt r 298 (zeroSign r neg z) (p + q)

def fFma (r : Rnd) (a b c : W32) : W32 × BitVec 5 := fFmaFl r (f32 a) (f32 b) (f32 c)

/-- The order of FP32 data other than NaN, −0 just below +0 (R217). -/
def f32Key (x : W32) : Int := if x.getLsbD 31 then -((x.toNat % 2 ^ 31 : Nat) : Int) - 1 else ((x.toNat : Nat) : Int)

/-- VFMIN and VFMAX (R217). -/
def fMinMax (big : Bool) (a b : W32) : W32 :=
  if (f32 a).isNan then (if (f32 b).isNan then canonNaN else b)
  else if (f32 b).isNan then a
  else if (if big then decide (f32Key a < f32Key b) else decide (f32Key b < f32Key a)) then b else a

/-- A number to compare FP32 data by, infinities beyond every finite value. -/
def Fl.ord : Fl → Int
  | .inf true => -(2 ^ 300)
  | .inf false => 2 ^ 300
  | v => v.int

/-- A condition of R218. -/
def fCond (c : FCond) (a b : W32) : Bool :=
  let x := f32 a
  let y := f32 b
  let un := x.isNan || y.isNan
  match c with
  | .eq => !un && decide (x.ord = y.ord)
  | .ne => un || decide (x.ord ≠ y.ord)
  | .lt => !un && decide (x.ord < y.ord)
  | .le => !un && decide (x.ord ≤ y.ord)
  | .gt => !un && decide (y.ord < x.ord)
  | .ge => !un && decide (y.ord ≤ x.ord)
  | .un => un
  | .or => !un

/-- The class of R219, as a bit number. -/
def fClass (a : W32) : Nat :=
  match f32 a with
  | .nan => 8
  | .inf n => if n then 0 else 7
  | .fin n m =>
    if m = 0 then (if n then 3 else 4) else if m < 2 ^ 23 then (if n then 2 else 5) else (if n then 1 else 6)

/-- A magnitude in units of 2^−149 rounded to an integer: the integer and whether the value was one. -/
def roundNat (r : Rnd) (neg : Bool) (m : Nat) : Nat × Bool :=
  let n := m / 2 ^ 149
  (if roundsUp r neg n (m % 2 ^ 149) (2 ^ 149) then n + 1 else n, m % 2 ^ 149 == 0)

/-- VFRND (R220). -/
def fRound (r : Rnd) (a : W32) : W32 :=
  match f32 a with
  | .nan => canonNaN
  | .inf _ => a
  | .fin n m => (roundF32 .rz 149 n ((roundNat r n m).1 * 2 ^ 149)).1

/-- The smallest and the largest value of an integer type. -/
def tyMin : VTy → Int
  | .i32 => -(2 ^ 31) | .n32 => 0 | .i64 => -(2 ^ 63) | .n64 => 0
def tyMax : VTy → Int
  | .i32 => 2 ^ 31 - 1 | .n32 => 2 ^ 32 - 1 | .i64 => 2 ^ 63 - 1 | .n64 => 2 ^ 64 - 1

/-- VFCVT from FP32 to an integer type (R221). -/
def fToInt (t : VTy) (r : Rnd) (a : W32) : Int × BitVec 5 :=
  match f32 a with
  | .nan => (0, fInvalid)
  | .inf n => (if n then tyMin t else tyMax t, fInvalid)
  | .fin n m =>
    let (k, ex) := roundNat r n m
    let v : Int := if n then -(k : Int) else k
    if v < tyMin t then (tyMin t, fInvalid) else if tyMax t < v then (tyMax t, fInvalid)
    else (v, if ex then 0 else fInexact)

/-- VFCVT from an integer to FP32 (R221). -/
def intToF (r : Rnd) (x : Int) : W32 × BitVec 5 := roundInt r 149 false (x * 2 ^ 149)

-- the narrow formats

/-- A layout of R76, R79 or R82: fraction bits, smallest subnormal 2^−q, exponent bits, whether it has infinities and NaNs. -/
structure Lay where
  f : Nat
  q : Nat
  e : Nat
  ieee : Bool
  deriving DecidableEq, Repr

def layF16 : Lay := ⟨10, 24, 5, true⟩
def layBF16 : Lay := ⟨7, 133, 8, true⟩
def layF8E4 : Lay := ⟨3, 9, 4, false⟩
def layF8E5 : Lay := ⟨2, 16, 5, false⟩
def layF4 : Lay := ⟨1, 1, 2, false⟩
def layE3M2 : Lay := ⟨2, 4, 3, false⟩
def layE2M3 : Lay := ⟨3, 3, 2, false⟩

def Lay.signBit (l : Lay) : Nat := 2 ^ (l.f + l.e)
/-- The largest finite code. -/
def Lay.maxCode (l : Lay) : Nat := if l.ieee then 2 ^ (l.f + l.e) - 2 ^ l.f - 1 else 2 ^ (l.f + l.e) - 1

/-- The value of a code, in units of 2^−149. -/
def Lay.val (l : Lay) (code : Nat) : Fl :=
  let neg := code / l.signBit % 2 == 1
  let c := code % l.signBit
  if l.ieee && decide (l.maxCode < c) then (if c = l.maxCode + 1 then .inf neg else .nan)
  else .fin neg (magOf l.f c * 2 ^ (149 - l.q))

/-- A value that FP32 holds exactly, as FP32. -/
def Fl.toF32 : Fl → W32
  | .nan => canonNaN
  | .inf n => f32Inf n
  | .fin n m => (roundF32 .rz 149 n m).1

/-- Narrowing to FP16 or BF16 (R84), F8E4, F8E5 or F4 (R85): the code and whether the sector is poisoned. -/
def Lay.narrow (l : Lay) (r : Rnd) (x : Fl) : Nat × Bool :=
  let sg := fun (neg : Bool) (c : Nat) => (if neg then l.signBit else 0) + c
  match x with
  | .nan => if l.ieee then (l.maxCode + 1 + 2 ^ (l.f - 1), false) else (0, true)
  | .inf n => if l.ieee then (sg n (l.maxCode + 1), false) else (sg n l.maxCode, true)
  | .fin n m =>
    let (c, _, up) := roundMag l.f l.q 149 r n m
    if c ≤ l.maxCode then (sg n c, false)
    else if l.ieee then (sg n (if overInf r n up then l.maxCode + 1 else l.maxCode), false)
    else (sg n l.maxCode, true)

/-- Narrowing to E8 (R86). -/
def narrowE8 (r : Rnd) (x : Fl) : Nat × Bool :=
  match x with
  | .nan => (0, true)
  | .inf _ => (0xFF, true)
  | .fin n m =>
    if m < 2 ^ 22 then (0, n && m != 0)
    else
      let k := Nat.log2 m
      let rem := m - 2 ^ k
      let up := match r with
        | .rn => decide (2 ^ k < 2 * rem) || (2 * rem == 2 ^ k && (k - 22) % 2 == 1)
        | .rz => false
        | .rd => false
        | .ru => rem != 0
        | .sr g => decide (2 ^ 24 ≤ rem * 2 ^ 24 / 2 ^ k + g)
      (k - 22 + (if up then 1 else 0), n)

/-- Widening from E8 (R83). -/
def widenE8 (c : Nat) : W32 := if c = 0 then 0x00400000 else BitVec.ofNat 32 (c % 256 * 2 ^ 23)

/-- The width in bits of an element of a memory format (R58). -/
def fmtBits : MFmt → Nat
  | .n8 => 8 | .n16 => 16 | .n32 => 32 | .n64 => 64 | .i8 => 8 | .f16 => 16 | .bf16 => 16 | .f8e4 => 8 | .f8e5 => 8 | .f4 => 4
  | .e8 => 8
/-- Bytes of an element; a nibble lies in one. -/
def fmtBytes (f : MFmt) : Nat := (fmtBits f + 7) / 8

/-- Formats whose elements widen to NaN from a poisoned sector (R93). -/
def fmtFloat : MFmt → Bool
  | .f16 | .bf16 | .f8e4 | .f8e5 | .f4 | .e8 => true
  | _ => false

/-- Widening on the load path (R58, R83): the register value of an element's bits. -/
def widen (f : MFmt) (x : Nat) : W64 :=
  match f with
  | .n8 | .n16 | .n32 | .n64 => BitVec.ofNat 64 x
  | .i8 => ((BitVec.ofNat 8 x).signExtend 32).setWidth 64
  | .f16 => (layF16.val x).toF32.setWidth 64
  | .bf16 => BitVec.ofNat 64 (x % 65536 * 65536)
  | .f8e4 => (layF8E4.val x).toF32.setWidth 64
  | .f8e5 => (layF8E5.val x).toF32.setWidth 64
  | .f4 => (layF4.val x).toF32.setWidth 64
  | .e8 => (widenE8 x).setWidth 64

/-- Narrowing on the store path (R84 to R87): the element's bits and the poison they create. -/
def narrow (f : MFmt) (r : Rnd) (x : W64) : Nat × Bool :=
  let w := x.setWidth 32
  match f with
  | .n8 => (x.toNat % 2 ^ 8, false)
  | .n16 => (x.toNat % 2 ^ 16, false)
  | .n32 => (x.toNat % 2 ^ 32, false)
  | .n64 => (x.toNat, false)
  | .i8 => ((BitVec.ofInt 8 (max (-128) (min 127 w.toInt))).toNat, false)
  | .f16 => layF16.narrow r (f32 w)
  | .bf16 => layBF16.narrow r (f32 w)
  | .f8e4 => layF8E4.narrow r (f32 w)
  | .f8e5 => layF8E5.narrow r (f32 w)
  | .f4 => layF4.narrow r (f32 w)
  | .e8 => narrowE8 r (f32 w)

/-- One step of a lane's generator: the new SRSEED and the 24 bits (R89). -/
def srStep (x : W32) : W32 × Nat :=
  let x : W32 := if x = 0 then 1 else x
  let x := x ^^^ (x <<< 13)
  let x := x ^^^ (x >>> 17)
  let x := x ^^^ (x <<< 5)
  (x, x.toNat / 256)

-- special functions (R222 to R224)

/-- The integer square root: the bits from `b` down, each kept where its square still fits. -/
def isqrtGo (n : Nat) : Nat → Nat → Nat
  | 0, r => r
  | b + 1, r => isqrtGo n b (if (r + 2 ^ b) * (r + 2 ^ b) ≤ n then r + 2 ^ b else r)
def isqrt (n : Nat) : Nat := isqrtGo n (Nat.log2 n / 2 + 1) 0

/-- Binary places of the fixed-point evaluations. -/
def fxP : Nat := 200
/-- π and ln 2 in units of 2^−200. -/
def fxPi : Nat := 5048344754617993871973410141242436836214643421488662971535368
def fxLn2 : Nat := 1113844574712631719546256151097547306333272293549090750737802

/-- Σ zᵏ / k! from term k on, `t` being term k − 1. -/
def expGo (z : Nat) : Nat → Nat → Nat → Nat
  | 0, _, _ => 0
  | n + 1, k, t =>
    let t' := t * z / 2 ^ fxP / k
    t' + expGo z n (k + 1) t'
/-- e^z for 0 ≤ z ≤ 1, in units of 2^−200. -/
def fxExp (z : Nat) : Nat := 2 ^ fxP + expGo z 60 1 (2 ^ fxP)
def fxSq (x : Nat) : Nat → Nat
  | 0 => x
  | n + 1 => fxSq (x * x / 2 ^ fxP) n

/-- Σ of the sine series: ± z^k / k!, alternating, from term k. -/
def sinGo (z2 : Nat) : Nat → Nat → Nat → Int
  | 0, _, _ => 0
  | n + 1, k, t => (t : Int) - sinGo z2 n (k + 2) (t * z2 / 2 ^ fxP / ((k + 1) * (k + 2)))
/-- sin z and cos z for 0 ≤ z ≤ π, in units of 2^−200. -/
def fxSin (z : Nat) : Int := sinGo (z * z / 2 ^ fxP) 40 1 z
def fxCos (z : Nat) : Int := sinGo (z * z / 2 ^ fxP) 40 0 (2 ^ fxP)

/-- The fraction bits of log2 y, 1 ≤ y < 2. -/
def logGo (y : Nat) : Nat → Nat
  | 0 => 0
  | n + 1 =>
    let y := y * y / 2 ^ fxP
    if 2 ^ (fxP + 1) ≤ y then 2 ^ n + logGo (y / 2) n else logGo y n

/-- The reduced argument of R440, |x| mod 2 folded at 1, in units of 2^−149, and whether sin changes sign by the folding. -/
def reduce2 (m : Nat) : Nat × Bool :=
  let r := m % 2 ^ 150
  if 2 ^ 149 < r then (2 ^ 150 - r, true) else (r, false)

/-- The FP32 datum of a place in the order of `f32Key`. -/
def keyF32 (k : Int) : W32 := if k < 0 then BitVec.ofNat 32 (2 ^ 31 + (-k - 1).toNat) else BitVec.ofNat 32 k.toNat

/-- A datum between two others, chosen by the free value. Log 25 (DESIGN CHOICE). -/
def pickKey (f arg : Nat) (lo hi : Int) : W32 := keyF32 (lo + ((Config.special f arg : Nat) : Int) % (hi - lo + 1))

/-- Some finite result within `k` ulp of an exact positive value between a and b × 2^−213 (R222): within it of both. Log 25 (DESIGN CHOICE). -/
def pickUlp (f arg k a b : Nat) : W32 :=
  let tol := k * 2 ^ max (Nat.log2 a - 23) 64
  let lo := (roundMag 23 149 213 .ru false (b - tol)).1
  let hi := min (roundMag 23 149 213 .rd false (a + tol)).1 0x7F7FFFFF
  pickKey f arg (lo : Nat) (hi : Nat)

/-- Some result within 2^−24 of an exact value that v × 2^−200 gives to 2^−188. Log 25 (DESIGN CHOICE). -/
def pickAbs (f arg : Nat) (v : Int) : W32 :=
  let lo := v + 2 ^ 12 - 2 ^ 176
  let hi := v - 2 ^ 12 + 2 ^ 176
  let key := fun (up : Bool) (x : Int) =>
    let c := (roundMag 23 149 200 (if up then .ru else .rd) (decide (x < 0)) x.natAbs).1
    if x < 0 then -((c : Nat) : Int) - 1 else ((c : Nat) : Int)
  pickKey f arg (key true lo) (key false hi)

/-- The special functions. -/
inductive SFun where
  | rcp | rsq | sqrt | exp2 | log2 | sinpi | cospi | tanh
  deriving DecidableEq, Repr

def SFun.num : SFun → Nat
  | .rcp => 0 | .rsq => 1 | .sqrt => 2 | .exp2 => 3 | .log2 => 4 | .sinpi => 5 | .cospi => 6 | .tanh => 7

def setSign (neg : Bool) (x : W32) : W32 := if neg then x ^^^ 0x80000000 else x

def isPow2 (m : Nat) : Bool := m == 2 ^ Nat.log2 m

/-- VRCP of a finite nonzero x = ± m × 2^−149. -/
def sRcp (neg : Bool) (m : Nat) (a : Nat) : W32 × BitVec 5 :=
  if m ≤ 2 ^ 21 then (f32Inf neg, fOverflow)
  else if isPow2 m then (setSign neg (roundF32 .rz 362 false (2 ^ (511 - Nat.log2 m)) |>.1), 0)
  else (setSign neg (pickUlp 0 a 1 (2 ^ 362 / m) (2 ^ 362 / m + 1)), 0)

/-- VRSQ of a positive finite x. -/
def sRsq (m a : Nat) : W32 :=
  if isPow2 m && (Nat.log2 m + 149) % 2 == 0 then (roundF32 .rz 213 false (2 ^ (213 - (Nat.log2 m + 149) / 2 + 149))).1
  else pickUlp 1 a 1 (isqrt (2 ^ 575 / m)) (isqrt (2 ^ 575 / m) + 1)

/-- VSQRT of a positive finite x, correctly rounded, with its flag. -/
def sSqrt (m : Nat) : W32 × BitVec 5 :=
  let n := m * 2 ^ 269
  let s := isqrt n
  let inex := s * s != n
  let (v, _) := roundF32 .rn 210 false (2 * s + (if inex then 1 else 0))
  (v, if (f32 v).int * (f32 v).int = ((m * 2 ^ 149 : Nat) : Int) then 0 else fInexact)

/-- 2^x of a finite x. -/
def sExp2 (neg : Bool) (m a : Nat) : W32 × BitVec 5 :=
  if !neg && decide (128 * 2 ^ 149 ≤ m) then (f32Inf false, fOverflow)
  else if neg && decide (151 * 2 ^ 149 ≤ m) then (0, 0)
  else
    let x : Int := if neg then -(m : Int) else m
    let n := x / 2 ^ 149
    let fr := (x % 2 ^ 149).toNat
    if fr = 0 then
      (if -149 ≤ n then ((roundF32 .rz 149 false (2 ^ (n + 149).toNat)).1, 0) else (pickUlp 3 a 2 (2 ^ (n + 213).toNat) (2 ^ (n + 213).toNat), 0))
    else
      let e := fxExp (fr * fxLn2 / 2 ^ 149)
      let at' := fun (x : Nat) => x * 2 ^ (n + 213).toNat / 2 ^ fxP
      (pickUlp 3 a 2 (at' (e - 2 ^ 10)) (at' (e + 2 ^ 10) + 1), 0)

/-- log2 of a positive finite x. -/
def sLog2 (m a : Nat) : W32 :=
  let k := Nat.log2 m
  if isPow2 m then (roundInt .rn 149 false (((k : Int) - 149) * 2 ^ 149)).1
  else
    let l : Int := ((k : Int) - 149) * 2 ^ 120 + ((logGo (m * 2 ^ fxP / 2 ^ k) 120 : Nat) : Int)
    setSign (decide (l < 0)) (pickUlp 4 a 2 ((l.natAbs - 4) * 2 ^ 93) ((l.natAbs + 4) * 2 ^ 93))

/-- sin(πx) of a finite x. Log 26 (DEDUCED). -/
def sSin (neg : Bool) (m : Nat) : W32 :=
  let (t, fl) := reduce2 m
  if t = 0 ∨ t = 2 ^ 149 then f32Zero neg
  else
    let v := if t = 2 ^ 148 then 0x3F800000 else pickAbs 5 t (fxSin (t * fxPi / 2 ^ 149))
    setSign (neg != fl) v

/-- cos(πx) of a finite x. -/
def sCos (m : Nat) : W32 :=
  let t := (reduce2 m).1
  if t = 0 then 0x3F800000
  else if t = 2 ^ 149 then 0xBF800000
  else if t = 2 ^ 148 then 0
  else pickAbs 6 t (fxCos (t * fxPi / 2 ^ 149))

/-- tanh of ± m × 2^−149, m nonzero: the series below 2^−10, (1 − e^−2x) / (1 + e^−2x) above. -/
def sTanh (neg : Bool) (m a : Nat) : W32 :=
  if 10 * 2 ^ 149 ≤ m then setSign neg 0x3F800000
  else
    let (lo, hi) :=
      if m < 2 ^ 139 then
        let x := m * 2 ^ 64
        let x3 := x * m / 2 ^ 149 * m / 2 ^ 149
        let x5 := x3 * m / 2 ^ 149 * m / 2 ^ 149
        (x - (x3 + 2) / 3 - 1, min x (x - x3 / 3 + 2 * (x5 + 2) / 15 + 1))
      else
        let t := 2 ^ (2 * fxP) / fxSq (fxExp (m * 2 ^ (fxP + 1) / 2 ^ 154)) 5
        let v := (2 ^ fxP - t) * 2 ^ 213 / (2 ^ fxP + t)
        (v - 2 ^ 32, v + 2 ^ 32)
    setSign neg (pickUlp 7 a 2 lo hi)

/-- A special function with its flags (R204, R222 to R224, R440). Log 25 (DESIGN CHOICE), 26 (DEDUCED). -/
def special (f : SFun) (x : W32) : W32 × BitVec 5 :=
  let a := x.toNat
  match f32 x with
  | .nan => (canonNaN, 0)
  | .inf n =>
    match f with
    | .rcp => (f32Zero n, 0)
    | .rsq => if n then (canonNaN, fInvalid) else (0, 0)
    | .sqrt => if n then (canonNaN, fInvalid) else (x, 0)
    | .exp2 => if n then (0, 0) else (x, 0)
    | .log2 => if n then (canonNaN, fInvalid) else (x, 0)
    | .sinpi => (canonNaN, fInvalid)
    | .cospi => (canonNaN, fInvalid)
    | .tanh => (setSign n 0x3F800000, 0)
  | .fin n m =>
    if m = 0 then
      match f with
      | .rcp => (f32Inf n, fDivZero)
      | .rsq => (f32Inf n, fDivZero)
      | .sqrt => (x, 0)
      | .exp2 => (0x3F800000, 0)
      | .log2 => (f32Inf true, fDivZero)
      | .sinpi => (x, 0)
      | .cospi => (0x3F800000, 0)
      | .tanh => (x, 0)
    else
      match f with
      | .rcp => sRcp n m a
      | .rsq => if n then (canonNaN, fInvalid) else (sRsq m a, 0)
      | .sqrt => if n then (canonNaN, fInvalid) else sSqrt m
      | .exp2 => sExp2 n m a
      | .log2 => if n then (canonNaN, fInvalid) else (sLog2 m a, 0)
      | .sinpi => (sSin n m, 0)
      | .cospi => (sCos m, 0)
      | .tanh => (sTanh n m a, 0)

-- sums of the matrix array (R96, R97)

/-- A product of two tile elements: exact in units of 2^−298, or not finite. -/
inductive Prod where
  | nan
  | inf (neg : Bool)
  | fin (neg : Bool) (m : Nat)
  deriving DecidableEq, Repr

def prodOf (a b : Fl) : Prod :=
  match a, b with
  | .nan, _ => .nan
  | _, .nan => .nan
  | .inf x, .inf y => .inf (x != y)
  | .inf x, .fin y n => if n = 0 then .nan else .inf (x != y)
  | .fin x m, .inf y => if m = 0 then .nan else .inf (x != y)
  | .fin x m, .fin y n => .fin (x != y) (m * n)

/-- A block's sum, rounded once to FP32 under .RN; an exact zero sum is −0 only where every term is. -/
def blockSum (ps : List Prod) : W32 :=
  if ps.any fun p => decide (p = .nan) then canonNaN
  else
    let pos := ps.any fun p => decide (p = .inf false)
    let neg := ps.any fun p => decide (p = .inf true)
    if pos && neg then canonNaN
    else if pos then f32Inf false
    else if neg then f32Inf true
    else
      let sum := ps.foldl (fun (s : Int) p => match p with
        | .fin true m => s - m
        | .fin false m => s + m
        | _ => s) 0
      let allNeg := ps.all fun p => match p with
        | .fin n _ => n
        | _ => false
      (roundInt .rn 298 allNeg sum).1

/-- acc + P × 2^(ea + eb − 254), P in quarters, with one .RN rounding (R97). -/
def scaleAdd (acc : W32) (p : Int) (ea eb : Nat) : W32 :=
  match f32 acc with
  | .nan => canonNaN
  | .inf n => f32Inf n
  | .fin n m => (roundInt .rn 256 false (Fl.int (.fin n m) * 2 ^ 107 + p * 2 ^ (ea + eb))).1

/-- The FP32 tree sum of VREDF.ADD (R98): one level over neighbouring pairs. -/
def treeLevel : List (W32 × BitVec 5) → List (W32 × BitVec 5)
  | a :: b :: t =>
    let (x, f) := fAdd .rn a.1 b.1
    (x, f ||| a.2 ||| b.2) :: treeLevel t
  | l => l
def treeSum (xs : List W32) : W32 × BitVec 5 :=
  (treeLevel (treeLevel (treeLevel (treeLevel (treeLevel (treeLevel (xs.map fun x => (x, (0 : BitVec 5))))))))).headD (0x80000000, 0)

end Sys2Proof.Machine
end

