-- ==== Sys2Proof/Machine/Flags.lean ====
section
/-! DEFINITION. What instructions compute besides moving data: integer types and saturation, conditions, shifts and bit operations, the
update of FPFLAGS and AMAX, and the poison check on the operands an instruction consumes. -/

namespace Sys2Proof.Machine

open Sys2Proof

/-- The scalar types as integer types of width 64. -/
def styTy : STy → VTy
  | .i64 => .i64
  | .n64 => .n64

def tyWidth (t : VTy) : Nat := if t.wide then 64 else 32

/-- The integer an operand stands for under a type (R201). -/
def tyVal (t : VTy) (x : W64) : Int :=
  match t with
  | .i32 => (x.setWidth 32).toInt
  | .n32 => ((x.setWidth 32).toNat : Int)
  | .i64 => x.toInt
  | .n64 => (x.toNat : Int)

/-- An integer wrapped to the width of a type. -/
def tyWrap (t : VTy) (x : Int) : W64 := if t.wide then BitVec.ofInt 64 x else (BitVec.ofInt 32 x).setWidth 64

/-- sat of R10. -/
def satTo (lo hi x : Int) : Int := if x < lo then lo else if hi < x then hi else x

/-- A result under .SAT or wrapped (R174, R206). -/
def tyRes (t : VTy) (sat : Bool) (x : Int) : W64 := tyWrap t (if sat then satTo (tyMin t) (tyMax t) x else x)

/-- A condition of R67. -/
def condHolds (c : Cond) (a b : Int) : Bool :=
  match c with
  | .eq => decide (a = b) | .ne => decide (a ≠ b) | .lt => decide (a < b) | .le => decide (a ≤ b) | .gt => decide (b < a)
  | .ge => decide (b ≤ a)

/-- A truth as a mask bit or a scalar. -/
def b2w (b : Bool) : W64 := if b then 1 else 0

/-- Shifts by the whole unsigned count (R176, R209). -/
def shlTy (t : VTy) (a b : W64) : W64 := if tyWidth t ≤ b.toNat then 0 else tyWrap t ((a.toNat * 2 ^ b.toNat : Nat) : Int)
def shrTy (t : VTy) (a b : W64) : W64 :=
  let x := if t.wide then a.toNat else (a.setWidth 32).toNat
  if tyWidth t ≤ b.toNat then 0 else BitVec.ofNat 64 (x / 2 ^ b.toNat)
def sarTy (t : VTy) (a b : W64) : W64 :=
  let n := min b.toNat (tyWidth t - 1)
  if t.wide then a.sshiftRight n else ((a.setWidth 32).sshiftRight n).setWidth 64

/-- Counts of R178 at a width, on a number below 2^w. -/
def popcNat (w x : Nat) : Nat := (List.range w).countP x.testBit
def clzNat (w x : Nat) : Nat := if x = 0 then w else w - 1 - Nat.log2 x
def ctzNat (w x : Nat) : Nat := ((List.range w).find? x.testBit).getD w
def brevNat (w x : Nat) : Nat := (List.range w).foldl (fun y i => if x.testBit i then y + 2 ^ (w - 1 - i) else y) 0

/-- The field of .BFX: position p, length n (R178, R210). -/
def bfxTy (t : VTy) (x p n : Nat) : W64 :=
  let w := tyWidth t
  if n = 0 ∨ w ≤ p then 0
  else
    let n' := min n (w - p)
    let f := x / 2 ^ p % 2 ^ n'
    tyWrap t (if t.signed && f.testBit (n' - 1) then (f : Int) - 2 ^ n' else f)

/-- A bit operation (R178, R210); `pn` gives the value of a position or length operand. -/
def bitTy {α : Type} (t : VTy) (op : BitOp α) (a : W64) (pn : α → Nat) : W64 :=
  let w := tyWidth t
  let x := a.toNat % 2 ^ w
  match op with
  | .popc => BitVec.ofNat 64 (popcNat w x)
  | .clz => BitVec.ofNat 64 (clzNat w x)
  | .ctz => BitVec.ofNat 64 (ctzNat w x)
  | .brev => BitVec.ofNat 64 (brevNat w x)
  | .bfx p n => bfxTy t x (pn p) (pn n)

/-- The 128-bit product's upper half at a type's width (R175, R207). -/
def mulHigh (t : VTy) (a b : W64) : W64 := tyWrap t (tyVal t a * tyVal t b / 2 ^ tyWidth t)

def minTy (t : VTy) (a b : W64) : W64 := if tyVal t b < tyVal t a then b else a
def maxTy (t : VTy) (a b : W64) : W64 := if tyVal t a < tyVal t b then b else a

/-- FPFLAGS collects flags (R180, R204). -/
def orFlags (g : Group) (f : BitVec 5) : Group := { g with sr := { g.sr with fpflags := g.sr.fpflags ||| f } }

/-- The flags of the active lanes together (R204). -/
def lanesFlags (act : LMask) (f : Lane → BitVec 5) : BitVec 5 := (lanesOf act).foldl (fun x l => x ||| f l) 0

/-- AMAX after a VST.AMAX of FP32 data (R252). -/
def amaxAfter (old : W32) (act : LMask) (f : Lane → W32) : W32 :=
  let mags := (lanesOf act).filterMap fun l => let x := f l &&& 0x7FFFFFFF; if (f32 x).isNan then none else some x
  match mags with
  | [] => old
  | m :: ms =>
    let top := ms.foldl (fun a b => if a.toNat < b.toNat then b else a) m
    if (f32 old).isNan then top
    else if (old &&& 0x7FFFFFFF).toNat < top.toNat then top else old

/-- The lanes of `lanes` that consume a poisoned element of an operand (R203). -/
def poisonLanes (x : Src) (ops : List (Bool × OOp)) (lanes : LMask) : LMask :=
  maskOf fun l => lanes.getLsbD l.val && ops.any fun o => (rdW o.1 x o.2 l).2

/-- A uniform source is poisoned (R173). -/
def poisonU (x : Src) (us : List UOp) : Bool := us.any fun u => (rdU x u).2

/-- POISON at the lanes that consumed it: in an attempt they abort alone (R370). -/
def poisonStop (m : LMask) : Stop := ⟨Cause.poison.bit, m, 0, true, none⟩

end Sys2Proof.Machine
end

