-- ==== Sys2Proof/Machine/MemPath.lean ====
section
/-! DEFINITION. The path of a group's memory accesses: judging the checks of its lanes (R149, R150, R244), reading elements sector by
sector (R245), the store buffer and what leaves it (R166, R246, R247), atomics at their home (R328, R334 to R338), remote accesses. -/

namespace Sys2Proof.Machine

open Sys2Proof

-- judging checks

/-- A lane's element: its address, as XADDR reports it, and the outcome of its checks. -/
structure Elem where
  lane : Lane
  va : W64
  res : XRes
  deriving DecidableEq, Repr

def Elem.page (e : Elem) : Nat := e.va.toNat / 65536

/-- A page whose request was answered with anything but Success (R149). Log 30 (DEDUCED). -/
def failedPage (g : Group) (page : Nat) : Bool :=
  g.pages.any fun p => p.1 == page && p.2 != some .success && p.2 != none

/-- The non-replayable cause of an element, once a page of the instruction has failed. -/
def Elem.cause (g : Group) (e : Elem) : Option Cause :=
  match e.res with
  | .fault c => some c
  | .over => if failedPage g e.page then some .page else none
  | .ok _ _ => if failedPage g e.page then some .page else none

def lanesMask (es : List Elem) : LMask := es.foldl (fun m e => m ||| laneBit e.lane.val) 0

/-- The stop of failing elements: every cause, the lanes (EXM for an instruction that acts for the group), the address of the lowest. -/
def elemStop (g : Group) (grp : Bool) (bad : List (Elem × Cause)) : Stop where
  causes := bad.foldl (fun x e => x ||| e.2.bit) 0
  mask := if grp then g.regs.exm else lanesMask (bad.map (·.1))
  addr := (bad.head?.map (·.1.va)).getD 0
  lanewise := !grp
  code := none

/-- Adds a page to a partition's requests (R148). -/
def addReq (need : Need) (p : Part) (page : Nat) : Part :=
  if p.reqs.any (·.page == page) then
    { p with reqs := p.reqs.map fun r => if r.page = page then { r with rd := r.rd || need.r, wr := r.wr || need.w, ex := r.ex || need.x } else r }
  else { p with reqs := p.reqs ++ [⟨page, need.r || need.x, need.w, need.x, false⟩] }

/-- The group enters a stopover for pages (R149): younger instructions are discarded, the window stays. Log 30 (DEDUCED), 34 (DEDUCED). -/
def enterStopover (s : State) (g : Group) (need : Need) (fetch : Bool) (pages : List Nat) : State × Group :=
  (s.modPart g.part fun p => pages.foldl (addReq need) p,
    { dropRun g g.runPos with wait := .stopover fetch, pages := pages.map fun n => (n, none) })

/-- Whether the partition's page requests are refused at once (R149, R265). Log 9 (DESIGN CHOICE). -/
def priOff (s : State) (part : Nat) : Bool :=
  match s.part? part with
  | some p => p.priFailed || !p.priEnabled
  | none => true

/-- What R149, R150 and R370 make of an instruction's elements: none when every one passes. Log 30 (DEDUCED). -/
def judge (s : State) (g : Group) (es : List Elem) (need : Need) (grp : Bool) : Option Out :=
  let bad := es.filterMap fun e => (e.cause g).map fun c => (e, c)
  let absent := es.filter fun e => decide (e.res = .over)
  if !bad.isEmpty then
    let late := fun (e : Elem) => if g.served && decide (e.res = .over) then some Cause.page else none
    some (.stop (elemStop g grp (es.filterMap fun e => ((e.cause g).or (late e)).map fun c => (e, c))))
  else if absent.isEmpty then none
  else if g.region.state = .open ∨ g.served ∨ priOff s g.part then
    some (.stop (elemStop g grp (absent.map fun e => (e, Cause.page))))
  else
    let (s, g) := enterStopover s g need false (absent.map Elem.page).eraseDups
    some (.halt s g)

def XRes.place : XRes → Option (Route × Nat)
  | .ok r a => some (r, a)
  | _ => none

-- elements and their sectors

/-- Bytes of an element: `n` bytes at a place; `k` is 1 or 2 for the low and high word of a private 64-bit element (R235). -/
structure Piece where
  lane : Lane
  route : Route
  addr : Nat
  n : Nat
  k : Nat
  deriving DecidableEq, Repr

def isRemote : Route → Bool
  | .glob .remote _ _ _ _ => true
  | _ => false

/-- The bits of a lane's element among the bytes it addresses: under .F4 the lane's nibble (R243). -/
def pieceRaw (f : MFmt) (lane : Nat) (x : Nat) : Nat := if f = .f4 then x / 16 ^ (lane % 2) % 16 else x

/-- The register elements a piece gives (R83, R93, R249). -/
def pieceElems (f : MFmt) (d : VReg) (p : Piece) (x : Nat) (pz : Bool) : List VElem :=
  let v : W64 := if pz && fmtFloat f then canonNaN.setWidth 64 else widen f (pieceRaw f p.lane.val x)
  let m := pz && !fmtFloat f
  if f.wide then
    if p.k = 1 then [⟨d, p.lane, v.setWidth 32, m⟩]
    else if p.k = 2 then [⟨d + 1, p.lane, v.setWidth 32, m⟩]
    else [⟨d, p.lane, v.setWidth 32, m⟩, ⟨d + 1, p.lane, v.extractLsb' 32 32, m⟩]
  else [⟨d, p.lane, v.setWidth 32, m⟩]

/-- The bytes of a piece in its sector. -/
def sectorPart (bs : List Byte) (a n : Nat) : Nat := leNat ((bs.drop (a % 32)).take n)

/-- The distinct sectors of pieces (R245). -/
def pieceSectors (ps : List Piece) : List (Route × Nat) := (ps.map fun p => (p.route, p.addr / 32)).eraseDups

/-- Sectors that a load has read before the instructions older than it retired (R163, R167). -/
abbrev GotSectors := List ((Route × Nat) × List Byte × Bool)

/-- Reads a sector, unless it has been read already. -/
def readOnce (s : State) (got : GotSectors) (core part : Nat) (r : Route) (sec : Nat) (nt : Bool) : State × List Byte × Bool :=
  match got.find? fun x => decide (x.1 = (r, sec)) with
  | some x => (s, x.2)
  | none => readSector (recordOwner s part core r (sec * 32)) core part r sec nt

/-- Reads the sectors of pieces that lie on this device, one delivery for each (R245). -/
def readPieces (got : GotSectors) (core part : Nat) (f : MFmt) (d : VReg) (nt : Bool) (ps : List Piece) (s : State) :
    List (Route × Nat) → State × List Landing
  | [] => (s, [])
  | (r, sec) :: t =>
    let (s, bs, pz) := readOnce s got core part r sec nt
    let es := (ps.filter fun p => decide (p.route = r) && p.addr / 32 == sec).flatMap fun p =>
      pieceElems f d p (sectorPart bs p.addr p.n) pz
    let (s, ls) := readPieces got core part f d nt ps s t
    (s, .vec es :: ls)

/-- What the oldest instruction has read of memory already. -/
def gotOf (g : Group) : GotSectors := (g.rob.head?.map (·.got)).getD []

def scopeOf : AOrd → Option Scope
  | .rel s | .ar s => some s
  | _ => none

def BufOp.rel : BufOp → Option Scope
  | .store _ _ r _ => r
  | .atomic _ _ _ _ o => scopeOf o

/-- The system releases of a list of entries, which an access that passes them comes after (R407). -/
def sysRels (l : List BufOp) : Nat := l.countP fun b => decide (b.rel = some .sys)

/-- Sends the request for a remote sector (R245, R398). -/
def requestSector (s : State) (g : Group) (ta : BitVec 3) (f : MFmt) (elems : List (VReg × Lane × Nat × Nat))
    (scal : Option (BitVec 6 × Nat)) (acq : Bool) (dev sec : Nat) : State :=
  let sid := streamTo s g.part (dieOf g.core) dev (sec * 32) 3
  let tag := s.fabric.nextTag
  let (s, _) := sendSeq s sid 3 false 0 tag 0 0 (sec * 32) 0 1 []
  s.modFabric fun fb =>
    { fb with nextTag := (tag + 1) % 65536, reqs := fb.reqs ++ [⟨tag, sid, g.gid, ta, f, elems, scal, acq, tag, none, none, sec, sysRels g.stbuf⟩] }

def routeDev : Route → Nat
  | .glob _ _ _ _ d => d
  | _ => 0

/-- Requests the remote sectors of pieces. Log 67 (DEDUCED). -/
def requestPieces (g : Group) (ta : BitVec 3) (f : MFmt) (d : VReg) (acq : Bool) (ps : List Piece) (s : State) :
    List (Route × Nat) → State
  | [] => s
  | (r, sec) :: t =>
    let es := (ps.filter fun p => decide (p.route = r) && p.addr / 32 == sec).map fun p => (d, p.lane, p.addr % 32, p.k)
    requestPieces g ta f d acq ps (requestSector s g ta f es none acq (routeDev r) sec) t

/-- An access of the group to a remote sector is on its way in another stream, which nothing orders with this one (R311, R316). -/
def otherStream (s : State) (g : Group) (sid : StreamId) (sec : Nat) : Bool :=
  let at' := fun (y : StreamId) => decide (y ≠ sid) && y.peer.dev == sid.peer.dev
  (s.fabric.reqs.any fun r => r.gid == g.gid && r.eng.isNone && r.sec == sec && at' r.sid) ||
  g.remWr.any fun w => at' w.sid && ((srcOf? s w.sid).map fun x => x.unacked.any fun u => u.1 == w.seq && (pktSectors u.2.1).contains sec).getD false

/-- Whether every stream the sectors need can take a packet (R403), and nothing of the group's is on its way to them in another. -/
def canRequest (s : State) (g : Group) (tc : Nat) (secs : List (Route × Nat)) : Bool :=
  secs.all fun x => !isRemote x.1 ||
    (let sid := streamTo s g.part (dieOf g.core) (routeDev x.1) (x.2 * 32) tc
     canSend s sid secs.length && !otherStream s g sid x.2)

/-- What an operation has read of a sector. -/
inductive ERead where
  | data (bs : List Byte) (p : Bool)
  | fault (c : Cause)
  | over
  /-- A remote sector that has not come. -/
  | away (r : Route) (sec : Nat)

/-- What another device has answered an operation for a sector. -/
def engGot (s : State) (op : Nat) (r : Route) (sec : Nat) : Option ERead :=
  (s.engIn.filter (·.1 == op)).findSome? fun y => match y.2 with
    | .sect d k bs p => if d = routeDev r ∧ k = sec then some (.data bs p) else none
    | .refused d k => if d = routeDev r ∧ k = sec then some (.fault .perm) else none
    | _ => none

/-- Asks another device for a sector on behalf of an operation, once (R398). -/
def askSector (s : State) (sid : StreamId) (gid op sec : Nat) : State :=
  if s.fabric.reqs.any (fun q => q.eng == some op && q.sec == sec && decide (q.sid = sid)) || !canSend s sid 1 then s
  else
    let tag := s.fabric.nextTag
    let (s, _) := sendSeq s sid 3 false 0 tag 0 0 (sec * 32) 0 1 []
    answerLost (s.modFabric fun fb =>
      { fb with
        nextTag := (tag + 1) % 65536
        reqs := fb.reqs ++ [⟨tag, sid, gid, 0, .n8, [], none, false, tag, none, some op, sec, 0⟩] }) sid

/-- The key of a route. -/
def routeTag : Route → KeyTag
  | .glob _ _ k _ _ => k
  | _ => .clear

/-- An acquire of the group whose remote answer has not come (R247, R337). -/
def acqPending (s : State) (g : Group) : Bool := s.fabric.reqs.any fun r => r.gid == g.gid && r.acq
/-- Remote loads and atomics of the group that are not answered. -/
def reqPending (s : State) (g : Group) : Bool := s.fabric.reqs.any fun r => r.gid == g.gid && r.eng.isNone

-- atomics at their home

/-- The value an atomic writes (R334 to R336). -/
def atomNew (f : AFun) (wide : Bool) (old b c : W64) : W64 :=
  let t : VTy := if wide then .n64 else .n32
  let ts : VTy := if wide then .i64 else .i32
  match f with
  | .cas => if old = b then c else old
  | .fadd => (fAdd .rn (old.setWidth 32) (b.setWidth 32)).1.setWidth 64
  | .op o signed =>
    match o with
    | .add => tyWrap t ((old.toNat : Int) + b.toNat)
    | .sub => tyWrap t ((old.toNat : Int) - b.toNat)
    | .and => old &&& b
    | .or => old ||| b
    | .xor => old ^^^ b
    | .min => minTy (if signed then ts else t) old b
    | .max => maxTy (if signed then ts else t) old b
    | .xchg => b
    | .inc => if b.toNat ≤ old.toNat then 0 else tyWrap t (old.toNat + 1)

/-- One lane of an atomic at its home (R328, R339): the old value and whether its sector is poisoned. The core's own L1 copy of an
SW-coherent or core-private line is written back and dropped first, and so is the slice's copy of a host line. A host's AtomicOp may complete
otherwise than successfully, with memory as it was or written. Log 22 (DESIGN CHOICE). -/
def atomAt (s : State) (core part : Nat) (r : Route) (a : Nat) (f : AFun) (wide : Bool) (b c : W64) : State × W64 × Bool :=
  let n := if wide then 8 else 4
  let s := if writesBack r then
      match l1Find s core ((routeTier r).getD .hbm) (a / 128) with
      | some x => flushLine s core x
      | none => s
    else s
  let s := match r with
    | .glob .host .sw _ _ _ => dropCopy s part (a / 128)
    | _ => sliceFill s part r (a / 128) false
  let s := recordOwner s part core r a
  let (k, s) := if routeTier r = some .host then s.choose 3 else (0, s)
  let old := BitVec.ofNat 64 (leNat ((List.range n).map fun i => homeRead s r (a + i)))
  let pz := homePois s r (a / 32)
  let new := natLe n (atomNew f wide old b c).toNat
  if k = 1 then (s, old, true)
  else
    let s := (List.range n).foldl (fun s i => homeWrite s r (a + i) 0xFF (new[i]?.getD 0)) s
    (stampLine s part none none false r (a / 128), old, pz || k == 2)

/-- The register elements of a returned old value. -/
def oldElems (wide : Bool) (d : VReg) (l : Lane) (old : W64) (pz : Bool) : List VElem :=
  if wide then [⟨d, l, old.setWidth 32, pz⟩, ⟨d + 1, l, old.extractLsb' 32 32, pz⟩] else [⟨d, l, old.setWidth 32, pz⟩]

/-- The lanes of an atomic on this device, in ascending order; each element with the place its sector is known by. -/
def atomLanes (core part : Nat) (f : AFun) (wide : Bool) (d : VReg) (s : State) : List AtomLane → State × List ((Route × Nat) × VElem)
  | [] => (s, [])
  | x :: t =>
    let (s, old, pz) := atomAt s core part x.route x.addr f wide x.b x.c
    let (s, es) := atomLanes core part f wide d s t
    (s, (oldElems wide d x.lane old pz).map (fun e => ((x.route, x.addr / 32), e)) ++ es)

/-- Sends a remote lane of an atomic (R338, R398), with how many lanes at its address follow (R310) and how many system releases it has passed.
Log 22 (DESIGN CHOICE), 64 (DESIGN CHOICE). -/
def requestAtom (s : State) (g : Group) (ret : Option ARet) (f : AFun) (wide : Bool) (ord : AOrd) (batch left after : Nat) (x : AtomLane) :
    State :=
  let rel := match ord with
    | .rel _ | .ar _ => true
    | _ => false
  let acq := match ord with
    | .acq _ | .ar _ => true
    | _ => false
  let sid := streamTo s g.part (dieOf g.core) (routeDev x.route) x.addr (if rel then 6 else 5)
  let key := match x.route with
    | .glob _ _ _ k _ => k
    | _ => 0
  let tag := s.fabric.nextTag
  let (s, _) := sendSeq s sid 5 rel key tag (atomArg f wide) 0 x.addr 0 1
    (sealBytes (routeTag x.route) x.addr (natLe 8 x.b.toNat ++ natLe 8 x.c.toNat ++ natLe 16 left))
  let d := (ret.map (·.d)).getD 0
  s.modFabric fun fb =>
    { fb with
      nextTag := (tag + 1) % 65536
      reqs := fb.reqs ++
        [⟨tag, sid, g.gid, (ret.map (·.ta)).getD 0, if wide then .n64 else .n32, [(d, x.lane, 0, 0)], none, acq, batch, none, none, x.addr / 32,
          after⟩] }

/-- Lanes by address: those of one address together, in ascending order. -/
def byAddress (xs : List AtomLane) : List AtomLane :=
  ((xs.map fun x => (x.route, x.addr)).eraseDups).flatMap fun k => xs.filter fun x => decide ((x.route, x.addr) = k)

/-- Sends the remote lanes of an atomic, those of one sector as one batch, those at one address as one sequence (R310). -/
def requestAtoms (g : Group) (ret : Option ARet) (f : AFun) (wide : Bool) (ord : AOrd) (after : Nat) (seen : List ((Route × Nat) × Nat))
    (s : State) : List AtomLane → State
  | [] => s
  | x :: t =>
    let k := (x.route, x.addr / 32)
    let batch := ((seen.find? fun y => decide (y.1 = k)).map (·.2)).getD s.fabric.nextTag
    let left := t.countP fun y => decide ((y.route, y.addr) = (x.route, x.addr))
    requestAtoms g ret f wide ord after ((k, batch) :: seen) (requestAtom s g ret f wide ord batch left after x) t

-- remote and host writes

/-- The value a byte of a carried write has: nibbles not written are zero (R246). Log 23 (DEDUCED). -/
def carriedByte (ws : List ByteWr) (r : Route) (a : Nat) : Option Byte :=
  match ws.filter fun w => decide (w.route = r) && w.addr == a with
  | [] => none
  | mine => some (mine.foldl (fun b w => maskByte b w.mask w.val) 0)

/-- A nibble store to the host is carried as a whole byte (R246). Log 23 (DEDUCED). -/
def hostWhole (ws : List ByteWr) (w : ByteWr) : ByteWr :=
  match w.route with
  | .glob .host .hw _ _ _ => if w.mask = 0xFF then w else { w with mask := 0xFF, val := (carriedByte ws w.route w.addr).getD 0 }
  | _ => w

/-- Sends the write of one remote sector, which has passed `after` system releases: WR when whole, WRB otherwise (R398); one on a broken stream
is lost (R405). Log 66 (DEDUCED). -/
def sendSector (s : State) (g : Group) (tc after : Nat) (rel : Bool) (ws : List ByteWr) (r : Route) (sec : Nat) (pz : Bool) : State × Group :=
  let bs := (List.range 32).map fun i => carriedByte ws r (sec * 32 + i)
  let sid := streamTo s g.part (dieOf g.core) (routeDev r) (sec * 32) tc
  let key := match r with
    | .glob _ _ _ k _ => k
    | _ => 0
  let whole := bs.all Option.isSome
  let en := (List.range 32).foldl (fun (x : Nat) i => if (bs[i]?.join).isSome then x + 2 ^ (32 + i) else x) 0
  let dw3 : W64 := BitVec.ofNat 64 ((if whole then 0 else en) + if pz then 1 else 0)
  let lost := streamLost s sid
  let (s, seq) := sendSeq s sid (if whole then 1 else 2) rel key 0 0 0 (sec * 32) dw3 1 (sealBytes (routeTag r) (sec * 32) (bs.map fun b => b.getD 0))
  (s, { g with remWr := g.remWr ++ [⟨sid, seq, after, lost⟩] })

/-- Log 23 (DEDUCED), 67 (DEDUCED). -/
def sendSectors (tc after : Nat) (rel : Bool) (ws : List ByteWr) (pois : List (Route × Nat)) (s : State) (g : Group) :
    List (Route × Nat) → State × Group
  | [] => (s, g)
  | (r, sec) :: t =>
    let (s, g) := sendSector s g tc after rel ws r sec (pois.contains (r, sec))
    sendSectors tc after rel ws pois s g t

-- the store buffer

/-- A system release waits for the group's earlier remote reads and writes; one of a smaller scope for nothing in the fabric (R247, R329,
R407). -/
def releaseHeld (s : State) (g : Group) (rel : Option Scope) : Bool :=
  decide (rel = some .sys) &&
    ((s.fabric.reqs.any fun r => r.gid == g.gid && r.eng.isNone && r.after == 0) || g.remWr.any fun w => !w.lost && w.after == 0)

/-- An earlier remote write of the group has been discarded: its system releases are never applied (R405). -/
def writesLost (g : Group) : Bool := g.remWr.any fun w => w.lost && w.after == 0

/-- A system release of the store buffer is over: what had passed it has one fewer before it. -/
def releaseOver (s : State) (g : Group) : State × Group :=
  (s.modFabric fun f => { f with reqs := f.reqs.map fun r => if r.gid = g.gid then { r with after := r.after - 1 } else r },
   { g with remWr := g.remWr.map fun w => { w with after := w.after - 1 } })

/-- Old values that will not come, marked poisoned (R405). -/
def poisonOld (ls : List AtomLane) (wide : Bool) (ret : Option ARet) (g : Group) : Group :=
  match ret with
  | none => g
  | some r =>
    ((ls.map fun x => (x.route, x.addr / 32)).eraseDups).foldl (fun g k =>
      deliverTo r.ta [.vec ((ls.filter fun x => decide ((x.route, x.addr / 32) = k)).flatMap fun x => oldElems wide r.d x.lane 0 true)] g) g

def isScratch : Route → Bool
  | .scratch _ => true
  | _ => false

/-- Performs an entry of the store buffer that has passed `after` system releases; none while it must wait. A releasing scratchpad store empties
the operand cache (R277). -/
def performEntry (s : State) (g : Group) (after : Nat) : BufOp → Option (State × Group)
  | .store ws pois rel nt =>
    let loc := (ws.filter fun w => !isRemote w.route).map (hostWhole ws)
    let rem := ws.filter fun w => isRemote w.route
    let secs := wrSectors rem
    let tc := if rel.isSome then 6 else 3
    if ws.any (fun w => scratchAway s w.route) ∨ !canRequest s g tc secs then none
    else
      let s := applyWrites s g.core g.part nt none loc pois
      let s := if rel.isSome && ws.all (fun w => isScratch w.route) then s.modCore g.core fun c => { c with ocache := [] } else s
      some (sendSectors tc after rel.isSome rem pois s g secs)
  | .atomic ls f wide ret ord =>
    let loc := ls.filter fun x => !isRemote x.route
    let rem := ls.filter fun x => isRemote x.route
    let secs := rem.map fun x => (x.route, x.addr / 32)
    if ls.any (fun x => scratchAway s x.route)
        ∨ !canRequest s g (if (scopeOf ord).isSome then 6 else 5) secs then none
    else
      let d := (ret.map (·.d)).getD 0
      let (s, es) := atomLanes g.core g.part f wide d s loc
      let ks := (es.map (·.1)).eraseDups
      let g := match ret with
        | none => g
        | some r => ks.foldl (fun g k => deliverTo r.ta [.vec ((es.filter fun e => decide (e.1 = k)).map (·.2))] g) g
      some (requestAtoms g ret f wide ord after [] s (byAddress rem), g)

/-- Applies an entry of the store buffer; none while it must wait. A system release held for a discarded write is discarded (R405).
Log 13 (DESIGN CHOICE). -/
def applyEntry (s : State) (g : Group) (after : Nat) (b : BufOp) : Option (State × Group) :=
  if b.rel = some .sys then
    if writesLost g then
      let (s, g) := releaseOver s g
      some (s, match b with
        | .atomic ls _ wide ret _ => poisonOld ls wide ret g
        | _ => g)
    else if releaseHeld s g (some .sys) then none
    else let (s, g) := releaseOver s g; performEntry s g after b
  else performEntry s g after b

/-- The places an entry touches. -/
def BufOp.places : BufOp → List (Route × Nat × Nat)
  | .store ws _ _ _ => ws.map fun w => (w.route, w.addr, 1)
  | .atomic ls _ wide _ _ => ls.map fun x => (x.route, x.addr, if wide then 8 else 4)

/-- The memory a route reaches, whatever the attribute and key of the mapping. -/
def samePlace : Route → Route → Bool
  | .glob .remote _ _ _ d, .glob .remote _ _ _ e => d == e
  | .glob .host _ _ _ _, .glob .host _ _ _ _ => true
  | .glob .host _ _ _ _, .glob _ _ _ _ _ => false
  | .glob .remote _ _ _ _, .glob _ _ _ _ _ => false
  | .glob _ _ _ _ _, .glob .host _ _ _ _ => false
  | .glob _ _ _ _ _, .glob .remote _ _ _ _ => false
  | .glob _ _ _ _ _, .glob _ _ _ _ _ => true
  | .scratch a, .scratch b => a == b
  | _, _ => false

def overlaps (x y : Route × Nat × Nat) : Bool :=
  samePlace x.1 y.1 && decide (x.2.1 < y.2.1 + y.2.2 ∧ y.2.1 < x.2.1 + x.2.2)

/-- Applies the first `n` entries of a group's store buffer in order; none while one must wait. Log 13 (DESIGN CHOICE). -/
def drainN (s : State) (g : Group) : Nat → Option (State × Group)
  | 0 => some (s, g)
  | n + 1 =>
    match g.stbuf with
    | [] => some (s, g)
    | b :: t =>
      match applyEntry s { g with stbuf := t } 0 b with
      | some (s, g) => drainN s g n
      | none => none

/-- Log 14 (DEDUCED). -/
def drainAll (s : State) (g : Group) : Option (State × Group) := drainN s g g.stbuf.length

/-- The last entry that overlaps one of the places, as a count of entries to apply. -/
def overlapCount (ps : List (Route × Nat × Nat)) (n best : Nat) : List BufOp → Nat
  | [] => best
  | b :: t => overlapCount ps (n + 1) (if b.places.any (fun x => ps.any (overlaps x)) then n + 1 else best) t

/-- An acquiring atomic that has not been performed holds back younger accesses (R337). -/
def acqCount (n best : Nat) : List BufOp → Nat
  | [] => best
  | b :: t =>
    let acq := match b with
      | .atomic _ _ _ _ (.acq _) | .atomic _ _ _ _ (.ar _) => true
      | _ => false
    acqCount (n + 1) (if acq then n + 1 else best) t

/-- Before an access: the older entries it overlaps are applied (R246), and older acquires are performed (R247, R337). Log 13 (DESIGN CHOICE). -/
def orderBefore (s : State) (g : Group) (ps : List (Route × Nat × Nat)) : Option (State × Group) :=
  match drainN s g (max (overlapCount ps 0 0 g.stbuf) (acqCount 0 0 g.stbuf)) with
  | none => none
  | some (s, g) => if acqPending s g then none else some (s, g)

/-- Every older access of the group is performed at a scope (R319, R320, R376): its stores and atomics applied, its remote reads
answered, and at system scope its remote writes acknowledged or discarded. Log 14 (DEDUCED). -/
def performAll (s : State) (g : Group) (sys : Bool) : Option (State × Group) :=
  match drainAll s g with
  | none => none
  | some (s, g) => if reqPending s g ∨ (sys ∧ g.remWr.any (!·.lost)) then none else some (s, g)

/-- The sub-core's store buffer has no free entry (R166); the retired stores of groups that have left or ended stay in it until they are
applied (R331). -/
def stbufFull (s : State) (g : Group) : Bool :=
  decide (32 ≤ ((s.allGroups.filter fun x => x.core == g.core && x.sub == g.sub && x.gid != g.gid).map fun x => x.stbuf.length).sum
    + g.stbuf.length)

/-- Whether entry `k` may be applied ahead of the older ones: it is no release, and nothing older overlaps it or acquires. Log 13 (DESIGN CHOICE). -/
def mayPass (g : Group) (k : Nat) : Bool :=
  match g.stbuf[k]? with
  | none => false
  | some b =>
    k == 0 || (b.rel == none &&
      (g.stbuf.take k).all fun o => !(o.places.any fun x => b.places.any (overlaps x)) && acqCount 0 0 [o] == 0)

/-- Applies entry `k` of a group's store buffer. -/
def applyAt (s : State) (g : Group) (k : Nat) : Option (State × Group) :=
  match g.stbuf[k]? with
  | none => none
  | some b => applyEntry s { g with stbuf := g.stbuf.eraseIdx k } (sysRels (g.stbuf.take k)) b

end Sys2Proof.Machine
end

