-- ==== Sys2Proof/Machine/Control.lean ====
section
/-! DEFINITION. Control transfer and the waymark stack (R46, R47, R187 to R199), TRAP and RTE (R419, R420). -/

namespace Sys2Proof.Machine

open Sys2Proof

/-- The target of a format J instruction (R187). -/
def jTarget (g : Group) (ofs : BitVec 32) : W64 := g.pc + 8 * ofs.signExtend 64
def nextWord (g : Group) : W64 := g.pc + 8

-- the stack in memory (R46, R47)

/-- The spill slot of depth d. -/
def slotVa (g : Group) (d : Nat) : W64 := g.sr.privbase - BitVec.ofNat 64 (32 * (d + 1))

/-- The layout of a spilled waymark. -/
def markBytes (w : Waymark) : List Byte :=
  natLe 8 ((if w.loop then 2 ^ 62 else 0) + (if w.phase then 2 ^ 61 else 0) + w.rpc.toNat % 2 ^ 55) ++ natLe 8 w.pmask.toNat
    ++ natLe 8 w.fmask.toNat ++ natLe 8 0
def markOf (bs : List Byte) : Waymark :=
  ⟨(dw bs 0).testBit 62, (dw bs 0).testBit 61, BitVec.ofNat 64 (dw bs 0 % 2 ^ 55), BitVec.ofNat 64 (dw bs 1), BitVec.ofNat 64 (dw bs 2)⟩

/-- A waymark as it is read back while a region is open: lanes that aborted or left are cleared (R370). Log 33 (DEDUCED). -/
def refilled (g : Group) (d : Nat) (w : Waymark) : Waymark :=
  if g.region.state ≠ .none ∧ g.region.rdepth ≤ d then
    let x := g.region.pend ||| g.region.left
    { w with pmask := w.pmask &&& ~~~x, fmask := w.fmask &&& ~~~x }
  else w

/-- The access to a spill slot, checked as an access of the group to its private segment (R193). -/
def slotElem (s : State) (g : Group) (need : Need) (d : Nat) : Elem :=
  ⟨0, slotVa g d, checkGlobal s g (slotVa g d).toNat 32 need⟩

/-- The translations of the slots of depths (R145). -/
def touchSlotPages (s : State) (g : Group) (ds : List Nat) : State := touchPages s g.part g.core (ds.map fun d => (slotVa g d).toNat)

/-- Goes on with the places of spill slots once every one passes its checks and older overlapping stores are applied. -/
def withSlots (s : State) (g : Group) (need : Need) (ds : List Nat) (k : State → Group → List (Nat × Route × Nat) → Out) : Out :=
  if ds.isEmpty then k s g []
  else
    let es := ds.map fun d => (d, slotElem s g need d)
    match judge s g (es.map (·.2)) need true with
    | some o => o
    | none =>
      let ps := es.filterMap fun e => e.2.res.place.map fun p => (e.1, p.1, p.2)
      match orderBefore (touchSlotPages s g ds) g (ps.map fun p => (p.2.1, p.2.2, 32)) with
      | none => .wait s g
      | some (s, g) => k s g ps

/-- A spill slot as a refill reads it: on another device, what has come under the group's operation (R47). -/
def slotRead (s : State) (g : Group) (r : Route) (a : Nat) : State × ERead :=
  if isRemote r then (s, ((g.markOp.bind fun op => engGot s op r (a / 32))).getD (.away r (a / 32)))
  else
    let (s, bs, pz) := readSector (recordOwner s g.part g.core r a) g.core g.part r (a / 32) false
    (s, .data bs pz)

/-- The slots among those of a refill that have not come. -/
def slotsAway (s : State) (g : Group) (ps : List (Nat × Route × Nat)) : List (Route × Nat) :=
  ps.filterMap fun p => match (slotRead s g p.2.1 p.2.2).2 with
    | .away r sec => some (r, sec)
    | _ => none

/-- Asks another device for slots, as the group's plain reads, under an operation of the instruction. -/
def askSlots (s : State) (g : Group) (secs : List (Route × Nat)) : State × Group :=
  let op := g.markOp.getD s.nextId
  let s := if g.markOp.isSome then s else { s with nextId := s.nextId + 1 }
  (secs.foldl (fun s x =>
    if canRequest s g 3 [x] then askSector s (streamTo s g.part (dieOf g.core) (routeDev x.1) (x.2 * 32) 3) g.gid op x.2 else s) s,
    { g with markOp := some op })

/-- The instruction has its slots. -/
def slotsDone (s : State) (g : Group) : State × Group :=
  match g.markOp with
  | some op => ({ s with engIn := s.engIn.filter (·.1 != op) }, { g with markOp := none })
  | none => (s, g)

/-- Reads spilled waymarks that have all come; the cause where one is poisoned or refused. Log 33 (DEDUCED). -/
def readMarks (g : Group) (s : State) : List (Nat × Route × Nat) → State × Except Cause (List (Nat × Waymark))
  | [] => (s, .ok [])
  | (d, r, a) :: t =>
    let (s, x) := slotRead s g r a
    let (s, rest) := readMarks g s t
    (s, match x with
      | .data bs false => rest.map fun l => (d, refilled g d (markOf bs)) :: l
      | .data _ true => .error .poison
      | .fault c => .error c
      | _ => .error .page)

/-- Goes on with the waymarks spilled at some depths: their slots pass their checks, and what lies on another device has come. -/
def withMarks (s : State) (g : Group) (need : Need) (ds : List Nat)
    (k : State → Group → List (Nat × Route × Nat) → List (Nat × Waymark) → Out) : Out :=
  if ds.isEmpty then k s g [] []
  else withSlots s g need ds fun s g ps =>
    let away := slotsAway s g ps
    if away.isEmpty then
      match readMarks g s ps with
      | (_, .error c) => .stop (stopAll g c 0)
      | (s, .ok ms) =>
        let (s, g) := slotsDone s g
        k s g ps ms
    else
      let (s, g) := askSlots s g away
      .wait s g

/-- Log 33 (DEDUCED). -/
def markWrites (p : Nat × Route × Nat) (w : Waymark) : List ByteWr :=
  (markBytes w).zipIdx.map fun b => ⟨p.2.1, p.2.2 + b.2, 0xFF, b.1⟩

/-- A push (R47, R193): the slot of the new depth is checked, the oldest held waymark spilled where 16 are held. -/
def pushMark (s : State) (g : Group) (w : Waymark) (k : State → Group → Out) : Out :=
  if 127 ≤ g.wmDepth then .stop (stopAll g .page (slotVa g g.wmDepth))
  else
    let full := decide (16 ≤ g.wmHw.length)
    let need : Need := ⟨false, true, false⟩
    let es := (slotElem s g need g.wmDepth) :: if full then [slotElem s g need (g.wmDepth - 16)] else []
    match judge s g es need true with
    | some o => o
    | none =>
      let g' := { g with wmHw := (w :: g.wmHw).take 16, wmDepth := g.wmDepth + 1 }
      match full, g.wmHw.getLast?, (slotElem s g need (g.wmDepth - 16)).res.place with
      | true, some old, some (r, a) =>
        if stbufFull s g then .wait s g
        else k (recordOwner (touchSlotPages s g [g.wmDepth, g.wmDepth - 16]) g.part g.core r a) { g' with stbuf := g'.stbuf ++ [.store (markWrites (0, r, a) old) [] none false] }
      | _, _, _ => k (touchSlotPages s g [g.wmDepth]) g'

/-- Makes sure the top of a stack that is not empty is held in hardware. -/
def withTop (s : State) (g : Group) (k : State → Group → Waymark → Out) : Out :=
  match g.wmHw with
  | w :: _ => k s g w
  | [] =>
    withMarks s g ⟨true, false, false⟩ [g.wmDepth - 1] fun s g _ ms =>
      match ms with
      | (_, w) :: _ => k s { g with wmHw := [w] } w
      | [] => .wait s g

/-- A pop: the most recent spilled waymark is read back when the hardware is left empty (R47). -/
def popMark (s : State) (g : Group) (k : State → Group → Out) : Out :=
  let g' := { g with wmHw := g.wmHw.tail, wmDepth := g.wmDepth - 1 }
  if g'.wmHw.isEmpty ∧ 0 < g'.wmDepth then
    withMarks s g ⟨true, false, false⟩ [g'.wmDepth - 1] fun s g _ ms =>
      match ms with
      | (_, w) :: _ => k s { g with wmHw := [w], wmDepth := g.wmDepth - 1 }
      | [] => .wait s g
  else k s g'

def setExm (g : Group) (x : LMask) : Group := { g with regs := { g.regs with exm := x } }

-- uniform transfers

def execNop (h : Hdr) (s : State) : Host.Outcome State Fault Refusal := issue (.nop h) (fun s g => .done s g .none) s

def execBr (h : Hdr) (ofs : BitVec 32) (s : State) : Host.Outcome State Fault Refusal :=
  issue (.br h ofs) (fun s g => .goto s g (jTarget g ofs)) s

/-- The tests of BRC (R188). -/
def brHolds (t : BrTest) (v : Int) : Bool :=
  match t with
  | .nz => decide (v ≠ 0) | .z => decide (v = 0) | .ltz => decide (v < 0) | .gez => decide (0 ≤ v) | .gtz => decide (0 < v)
  | .lez => decide (v ≤ 0)

def execBrc (h : Hdr) (cond : UOp) (t : BrTest) (ofs : BitVec 32) (s : State) : Host.Outcome State Fault Refusal :=
  let i := Instr.brc h cond t ofs
  issue i (fun s g =>
    let x := srcOf s g
    if poisonU x (iUs i) then .stop (stopAll g .poison 0)
    else .goto s g (if brHolds t (rdU x cond).1.toInt then jTarget g ofs else nextWord g)) s

def execCall (h : Hdr) (link : SDst) (ofs : BitVec 32) (s : State) : Host.Outcome State Fault Refusal :=
  issue (.call h link ofs) (fun s g =>
    let target := jTarget g ofs
    let (s, g) := writeS s g (some link) (nextWord g)
    .goto s g target) s

/-- RET and JMPR (R190). -/
def jumpTo (i : Instr) (a : UOp) (s : State) (g : Group) : Out :=
  let x := srcOf s g
  if poisonU x (iUs i) then .stop (stopAll g .poison 0)
  else
    let v := (rdU x a).1
    if v.toNat % 8 ≠ 0 then .stop (stopAll g .align v) else .goto s g v

def execRet (h : Hdr) (a : UOp) (s : State) : Host.Outcome State Fault Refusal := issue (.ret h a) (jumpTo (.ret h a) a) s
def execJmpr (h : Hdr) (a : UOp) (s : State) : Host.Outcome State Fault Refusal := issue (.jmpr h a) (jumpTo (.jmpr h a) a) s

/-- R192: not ready for 32 issue clocks. -/
def execYield (h : Hdr) (s : State) : Host.Outcome State Fault Refusal :=
  issue (.yield h) (fun s g =>
    .halt s { retireTo g (nextWord g) with wait := .yielded (g.sr.clk2 + 64) }) s

-- the waymark stack

/-- The lanes a mask register names under .NOT. -/
def pickMask (g : Group) (c : BitVec 3) (neg : Bool) : LMask := if neg then ~~~(g.regs.m[c.toNat]) else g.regs.m[c.toNat]

def execBrd (h : Hdr) (c : BitVec 3) (neg : Bool) (ofs : BitVec 32) (s : State) : Host.Outcome State Fault Refusal :=
  issue (.brd h c neg ofs) (fun s g =>
    let f := g.regs.exm
    let t := f &&& pickMask g c neg
    pushMark s g ⟨false, false, nextWord g &&& 0x007FFFFFFFFFFFFF, f &&& ~~~t, f⟩ fun s g => .goto s (setExm g t) (jTarget g ofs)) s

/-- JOIN performs every older access of the group before it goes on (R196). Log 14 (DEDUCED). -/
def execJoin (h : Hdr) (s : State) : Host.Outcome State Fault Refusal :=
  issue (.join h) (fun s g =>
    if g.wmDepth = 0 ∨ (g.region.state = .open ∧ g.wmDepth = g.region.rdepth) then .stop (stopAll g .ill 0)
    else
      match performAll s g false with
      | none => .wait s g
      | some (s, g) =>
      withTop s g fun s g w =>
        if !w.loop && !w.phase && w.pmask != 0 then
          .goto s (setExm { g with wmHw := { w with rpc := nextWord g &&& 0x007FFFFFFFFFFFFF, phase := true } :: g.wmHw.tail } w.pmask) w.rpc
        else
          popMark s g fun s g => .goto s (setExm g w.fmask) (if !w.loop && w.phase then w.rpc else nextWord g)) s

def execLoop (h : Hdr) (ofs : BitVec 32) (s : State) : Host.Outcome State Fault Refusal :=
  issue (.loop h ofs) (fun s g =>
    pushMark s g ⟨true, false, jTarget g ofs &&& 0x007FFFFFFFFFFFFF, 0, g.regs.exm⟩ fun s g => .done s g .none) s

/-- The depths of the spilled waymarks, highest first. -/
def spilledDepths (g : Group) : List Nat := (List.range (g.wmDepth - g.wmHw.length)).reverse

def clearLanes (b : LMask) (w : Waymark) : Waymark := { w with pmask := w.pmask &&& ~~~b, fmask := w.fmask &&& ~~~b }

/-- BRK's edit of a list of waymarks, top first: the divergent ones above the innermost loop lose the lanes, the loop gathers them;
none where there is no loop. -/
def brkMarks (b : LMask) : List Waymark → Option (List Waymark)
  | [] => none
  | w :: ws => if w.loop then some ({ w with pmask := w.pmask ||| b } :: ws) else (brkMarks b ws).map fun r => clearLanes b w :: r

/-- Reads spilled waymarks one by one, top first, until a loop is found, or one that cannot be read or has not come: the depths read. -/
def loopDepths (s : State) (g : Group) : List Nat → List Nat
  | [] => []
  | d :: ds =>
    match (slotElem s g ⟨true, true, false⟩ d).res.place with
    | some (r, a) =>
      (match (slotRead s g r a).2 with
      | .data bs _ => if (markOf bs).loop then [d] else d :: loopDepths s g ds
      | _ => [d])
    | none => [d]

/-- Stores edited waymarks back to their slots. -/
def storeMarks (g : Group) (ps : List (Nat × Route × Nat)) (ws : List Waymark) : Group :=
  if ps.isEmpty then g
  else { g with stbuf := g.stbuf ++ [.store ((ps.zip ws).flatMap fun x => markWrites x.1 x.2) [] none false] }

/-- The end of BRK: lanes leave EXM, and control goes to the loop's JOIN when none is left and the loop is on top. -/
def brkEnd (ofs : BitVec 32) (b : LMask) (top : Bool) (s : State) (g : Group) : Out :=
  let g := setExm g (g.regs.exm &&& ~~~b)
  .goto s g (if g.regs.exm = 0 ∧ top = true then jTarget g ofs else nextWord g)

def execBrk (h : Hdr) (c : BitVec 3) (neg : Bool) (ofs : BitVec 32) (s : State) : Host.Outcome State Fault Refusal :=
  issue (.brk h c neg ofs) (fun s g =>
    let b := g.regs.exm &&& pickMask g c neg
    let held := g.wmHw
    match held.findIdx? (·.loop) with
    | some k =>
      if g.region.state = .open ∧ g.wmDepth - 1 - k < g.region.rdepth then .stop (stopAll g .ill 0)
      else brkEnd ofs b (k == 0) s { g with wmHw := (brkMarks b held).getD held }
    | none =>
      match orderBefore s g ((spilledDepths g).filterMap fun d => (slotElem s g ⟨true, true, false⟩ d).res.place.map fun p => (p.1, p.2, 32)) with
      | none => .wait s g
      | some (s, g) =>
        let ds := loopDepths s g (spilledDepths g)
        withMarks s g ⟨true, true, false⟩ ds fun s g ps ms =>
          let all := held ++ ms.map (·.2)
          match brkMarks b all with
          | none => .stop (stopAll g .ill 0)
          | some ws =>
            if g.region.state = .open ∧ g.wmDepth - ws.length < g.region.rdepth then .stop (stopAll g .ill 0)
            else if stbufFull s g then .wait s g
            else brkEnd ofs b (held.isEmpty && ((ms.head?.map (·.2.loop)).getD false)) s (storeMarks { g with wmHw := ws.take held.length } ps (ws.drop held.length))) s

/-- The group has ended its lanes and awaits R433. -/
def beginExit (g : Group) : Group := { retireTo g g.pc with exiting := true }

def execExit (h : Hdr) (s : State) : Host.Outcome State Fault Refusal :=
  issue (.exit h) (fun s g =>
    let x := g.regs.exm
    let ds := spilledDepths g
    withMarks s g ⟨true, true, false⟩ ds fun s g ps ms =>
      let held := g.wmHw.map (clearLanes x)
      let away := ms.map fun m => clearLanes x m.2
      if !ps.isEmpty && stbufFull s g then .wait s g
      else
        let g := setExm (storeMarks { g with wmHw := held } ps away) 0
        if g.wmDepth = 0 ∨ (held ++ away).all (fun w => w.pmask == 0 && w.fmask == 0) = true then .halt s (beginExit g)
        else .goto s g (nextWord g)) s

-- traps (R419, R420)

def execTrap (h : Hdr) (code : BitVec 16) (s : State) : Host.Outcome State Fault Refusal :=
  issue (.trap h code) (fun _ g => .stop ⟨Cause.swtrap.bit, g.regs.exm, 0, false, some code⟩) s

/-- Return from the handler: EXM, and the interrupted run with its window where it is still valid. -/
def returnFromTrap (g : Group) : Group :=
  let t := g.trap
  let g := newRun (countRetired g) t.xpc
  { setExm g t.xexm with
    win := if t.wv then t.saved else []
    runPos := if t.wv then t.rcnt else 0
    bufRun := if t.wv then t.rcnt else 0
    trap := { t with wv := false, inh := false, saved := [], rcnt := 0, armed := t.stepen, stepped := false } }

def execRte (h : Hdr) (s : State) : Host.Outcome State Fault Refusal :=
  issue (.rte h) (fun s g => if g.trap.inh then .halt s (returnFromTrap g) else .stop (stopAll g .ill 0)) s

end Sys2Proof.Machine
end

