-- ==== Sys2Proof/Machine/Memory.lean ====
section
/-! DEFINITION. The memory instructions (R242 to R260), inside and outside transactional attempts (R367 to R369). -/

namespace Sys2Proof.Machine

open Sys2Proof

/-- Bytes a lane's element takes: `n` at an address, with the outcome of its checks; `k` as in `Piece`. -/
structure Ref where
  elem : Elem
  n : Nat
  k : Nat
  deriving DecidableEq, Repr

def Ref.piece (r : Ref) : Option Piece := r.elem.res.place.map fun p => ⟨r.elem.lane, p.1, p.2, r.n, r.k⟩

-- the addresses of lanes

/-- A global element (R56, R243). -/
def refGlobal (s : State) (g : Group) (f : MFmt) (need : Need) (l : Lane) (ea : W64) : List Ref :=
  [⟨⟨l, ea, checkLane s g l.val ea.toNat (fmtBytes f) need⟩, fmtBytes f, 0⟩]

/-- A scratchpad element (R253). -/
def refScratch (s : State) (g : Group) (f : MFmt) (l : Lane) (ea : W32) : List Ref :=
  [⟨⟨l, ea.setWidth 64, checkScratch s g ea.toNat (fmtBytes f)⟩, fmtBytes f, 0⟩]

/-- The place of a failing check in R244's order; 6 for none. -/
def XRes.rank : XRes → Nat
  | .ok _ _ => 6
  | .over => 3
  | .fault .align => 2
  | .fault .coherence => 4
  | .fault .range => 5
  | .fault _ => 3

/-- The words of one element whose checks decide (R244): both where they pass or both wait for the host, else the one that fails first. -/
def firstFail (a b : Ref) : List Ref :=
  let x := a.elem.res
  let y := b.elem.res
  if x.rank = 6 ∧ y.rank = 6 ∨ x = .over ∧ y = .over then [a, b] else if x.rank ≤ y.rank then [a] else [b]

/-- A private element (R235, R254): two words for 64 bits. -/
def refPrivate (s : State) (g : Group) (f : MFmt) (need : Need) (l : Lane) (o : W32) : List Ref :=
  let n := fmtBytes f
  let p := ((s.launch? g.lid).map (·.priv)).getD 0
  let a : W64 := BitVec.ofNat 64 (privAddr g.sr.privbase.toNat o.toNat l.val)
  if p < o.toNat + n then [⟨⟨l, a, .fault .perm⟩, n, 0⟩]
  else if o.toNat % n ≠ 0 then [⟨⟨l, a, .fault .align⟩, n, 0⟩]
  else if n = 8 then
    firstFail ⟨⟨l, a, checkLane s g l.val a.toNat 4 need⟩, 4, 1⟩ ⟨⟨l, a + 256, checkLane s g l.val (a + 256).toNat 4 need⟩, 4, 2⟩
  else [⟨⟨l, a, checkLane s g l.val a.toNat n need⟩, n, 0⟩]

/-- The address of a lane under format M and indexed (R56). -/
def eaM (x : Src) (a : OOp) (off : BitVec 16) (l : Lane) : W64 := (rd64 x a l).1 + off.signExtend 64
def eaX (x : Src) (a b : OOp) (c : BitVec 8) (l : Lane) : W64 :=
  (rd64 x a l).1 + (rd32 x b l).1.signExtend 64 + c.signExtend 64
def ea32 (x : Src) (a : OOp) (off : BitVec 16) (l : Lane) : W32 := (rd32 x a l).1 + off.signExtend 32
/-- The lanes of a block load (R250). -/
def eaBlock (base : W64) (f : MFmt) (l : Lane) : W64 :=
  base + BitVec.ofNat 64 (if f = .f4 then l.val / 2 else l.val * fmtBytes f)

-- transactional accesses (R367 to R369)

/-- The lines of this device that a lane has read or written, by number, whatever the mapping it went through (R369). -/
def logLines (rs : List RLog) (l : Nat) : List Nat := ((rs.filter (·.lane == l)).map fun r => r.sector / 4).eraseDups
def wlogLines (ws : List WLog) (l : Nat) : List Nat := ((ws.filter (·.lane == l)).map fun w => w.wr.addr / 128).eraseDups

/-- A page an attempt may access (R367). -/
def txRoute : Route → Bool
  | .glob .hbm .hw _ _ _ => true
  | .glob .vault .hw _ _ _ => true
  | _ => false

/-- Speculative sectors of the core outside this group (R369). -/
def specElsewhere (s : State) (g : Group) : Nat :=
  ((s.groups.filter fun x => x.core == g.core && x.gid != g.gid).map fun x => (wlogSectors x.region.wlog).length).sum

/-- Room in L1 for `n` more speculative sectors (R2). Log 83 (DESIGN CHOICE). -/
def specRoom (s : State) (core n : Nat) : State := (List.range n).foldl (fun s k => l1Room s core (k + 1)) s

/-- The abort of a lane that reads at a place, if any (R367 to R369). -/
def txReadAbort (s : State) (g : Group) (p : Piece) : Option TxCode :=
  let line := p.addr / 128
  let ls := logLines g.region.rlog p.lane.val
  if !txRoute p.route then some .space
  else if !ls.contains line && decide (32 ≤ ls.length) then some .capacity
  else if g.region.ts && decide (g.region.start[p.lane.val] < lineVersion s g.part p.route (p.addr / 128)) then some .validate
  else none

/-- The abort of a lane that writes at a place. -/
def txWriteAbort (s : State) (g : Group) (p : Piece) : Option TxCode :=
  let line := p.addr / 128
  let ls := wlogLines g.region.wlog p.lane.val
  let secs := wlogSectors g.region.wlog
  if !txRoute p.route then some .space
  else if !ls.contains line && decide (16 ≤ ls.length) then some .capacity
  else if !secs.contains (p.lane.val, p.addr / 32) && decide (8192 ≤ specElsewhere s g + secs.length) then some .capacity
  else none

/-- Logs the first read of a sector by a lane (R368). -/
def txLog (s : State) (g : Group) (p : Piece) : Group :=
  if g.region.rlog.any fun r => r.lane == p.lane.val && samePlace r.route p.route && r.sector == p.addr / 32 then g
  else
    let bs := (List.range 32).map fun i => homeRead s p.route (p.addr / 32 * 32 + i)
    { g with region := { g.region with
      rlog := g.region.rlog ++ [⟨p.lane.val, p.route, p.addr / 32, bs, homePois s p.route (p.addr / 32)⟩] } }

/-- What a lane reads of a sector: its snapshot with its own writes over it, and the poison it reads with. -/
def txView (g : Group) (p : Piece) : List Byte × Bool :=
  let sec := p.addr / 32
  let own := g.region.wlog.filter fun w => w.lane == p.lane.val && samePlace w.wr.route p.route && w.wr.addr / 32 == sec
  let snap := g.region.rlog.find? fun r => r.lane == p.lane.val && samePlace r.route p.route && r.sector == sec
  let bs := (snap.map (·.data)).getD (List.replicate 32 0)
  let bs := own.foldl (fun bs w => bs.modify (w.wr.addr % 32) fun b => maskByte b w.wr.mask w.wr.val) bs
  let created := own.any (·.pois)
  (bs, created || (!coversSector (own.map fun w => { w.wr with route := p.route }) (p.route, sec) && ((snap.map (·.pois)).getD false)))

/-- The lanes whose own checks fail abort, one by one (R370). -/
def txAborts (now : Nat) (f : Piece → Option TxCode) (g : Group) : List Piece → Group
  | [] => g
  | p :: t =>
    match if g.regs.exm.getLsbD p.lane.val then f p else none with
    | some c => txAborts now f (abortLane now c g p.lane.val) t
    | none => txAborts now f g t

/-- Loads of an attempt, lane by lane in ascending order: each is checked against the logs as they stand, and logged. -/
def txReads (s : State) (g : Group) : List Piece → Group × List Piece
  | [] => (g, [])
  | p :: t =>
    if !g.regs.exm.getLsbD p.lane.val then txReads s g t
    else
      match txReadAbort s g p with
      | some c => txReads s (abortLane g.sr.clk2 c g p.lane.val) t
      | none =>
        let (g, ps) := txReads s (txLog s g p) t
        (g, p :: ps)

-- loads

/-- The destination and the deliveries of a load that has been checked (R245, R249). -/
def finishLoad (ta : BitVec 3) (f : MFmt) (d : VReg) (acq nt : Bool) (lanes : LMask) (ps : List Piece) (s : State) (g : Group) : Out :=
  let secs := pieceSectors ps
  let loc := secs.filter fun x => !isRemote x.1
  let rem := secs.filter fun x => isRemote x.1
  if ps.any (fun p => scratchAway s p.route) ∨ !canRequest s g 3 rem then .wait s g
  else
    let (s, ls) := readPieces (gotOf g) g.core g.part f d nt ps s loc
    let s := requestPieces g ta f d acq ps s rem
    .done s (allocTag g ta (pairRegs f.wide d) none lanes rem.length ls) .async

/-- A load inside an attempt (R367, R368). -/
def txLoad (ta : BitVec 3) (f : MFmt) (d : VReg) (nt : Bool) (ps : List Piece) (s : State) (g : Group) : Out :=
  let (g, ps) := txReads s g ps
  let ps := ps.filter fun p => g.regs.exm.getLsbD p.lane.val
  let ls := (pieceSectors ps).map fun x =>
    Landing.vec ((ps.filter fun p => decide (p.route = x.1) && p.addr / 32 == x.2).flatMap fun p =>
      let (bs, pz) := txView g p
      pieceElems f d p (sectorPart bs p.addr p.n) pz)
  let s := (pieceSectors ps).foldl (fun s x => sliceFill s g.part x.1 (x.2 / 4) nt) s
  .done s (allocTag g ta (pairRegs f.wide d) none (lanesMask (ps.map fun p => ⟨p.lane, 0, .over⟩)) 0 ls) .async

/-- Whether a memory access inside an attempt is logged, aborts (SPACE), or acts as outside (R367). -/
inductive TxWay where
  | logged | space | plain
  deriving DecidableEq, Repr

/-- Aborts lanes with SPACE (R367). -/
def spaceOut (s : State) (g : Group) (act : LMask) : Out := .done s (abortLanes g.sr.clk2 .space g act) .async

/-- The translations an access of global elements uses (R145). -/
def touchRefs (s : State) (g : Group) (way : TxWay) (rs : List Ref) : State :=
  if way = .space then s else touchPages s g.part g.core (rs.map fun r => r.elem.va.toNat)

/-- The owner records of the lines an access touches (R237). -/
def recordOwners (s : State) (g : Group) (ps : List (Route × Nat)) : State := ps.foldl (fun s p => recordOwner s g.part g.core p.1 p.2) s

/-- A vector load: operands consumed (R203), elements judged (R244), older accesses ordered before it (R246), data read. -/
def vecLoad (i : Instr) (ta : BitVec 3) (d : VReg) (sel : BitVec 3) (f : MFmt) (acq nt : Bool) (way : TxWay) (need : Need)
    (refs : Src → Lane → List Ref) (s : State) (g : Group) : Out :=
  let x := srcOf s g
  let act := active g.regs sel
  let p := poisonLanes x (iOs i) act ||| (if poisonU x (iUs i) then act else 0)
  if p ≠ 0 then .stop (poisonStop p)
  else if g.region.state = .open ∧ way = .space then spaceOut s g act
  else
    let rs := (lanesOf act).flatMap (refs x)
    match judge s g (rs.map (·.elem)) need false with
    | some o => o
    | none =>
      let ps := rs.filterMap Ref.piece
      let s := touchRefs s g way rs
      match orderBefore s g (ps.map fun p => (p.route, p.addr, p.n)) with
      | none => .wait s g
      | some (s, g) => if g.region.state = .open ∧ way = .logged then txLoad ta f d nt ps s g else finishLoad ta f d acq nt act ps s g

def needR : Need := ⟨true, false, false⟩
def needW : Need := ⟨false, true, false⟩
def needRW : Need := ⟨true, true, false⟩

def execVld (h : Hdr) (ta : BitVec 3) (d : VReg) (a : OOp) (off : BitVec 16) (sel : BitVec 3) (f : MFmt) (acq : Option Scope)
    (nt : Bool) (s : State) : Host.Outcome State Fault Refusal :=
  let i := Instr.vld h ta d a off sel f acq nt
  issue i (fun s g => vecLoad i ta d sel f acq.isSome nt .logged needR (fun x l => refGlobal s g f needR l (eaM x a off l)) s g) s

def execVldIndexed (h : Hdr) (ta : BitVec 3) (d : VReg) (a b : OOp) (c : BitVec 8) (sel : BitVec 3) (f : MFmt) (acq : Option Scope)
    (nt : Bool) (s : State) : Host.Outcome State Fault Refusal :=
  let i := Instr.vldIndexed h ta d a b c sel f acq nt
  issue i (fun s g => vecLoad i ta d sel f acq.isSome nt .logged needR (fun x l => refGlobal s g f needR l (eaX x a b c l)) s g) s

def execVldb (h : Hdr) (ta : BitVec 3) (d : VReg) (a : UOp) (off : BitVec 16) (sel : BitVec 3) (f : MFmt) (acq : Option Scope)
    (nt : Bool) (s : State) : Host.Outcome State Fault Refusal :=
  let i := Instr.vldb h ta d a off sel f acq nt
  issue i (fun s g =>
    vecLoad i ta d sel f acq.isSome nt .logged needR
      (fun x l => refGlobal s g f needR l (eaBlock ((rdU x a).1 + off.signExtend 64) f l)) s g) s

def execVlds (h : Hdr) (ta : BitVec 3) (d : VReg) (a : OOp) (off : BitVec 16) (sel : BitVec 3) (f : MFmt) (acq : Option Scope)
    (s : State) : Host.Outcome State Fault Refusal :=
  let i := Instr.vlds h ta d a off sel f acq
  issue i (fun s g => vecLoad i ta d sel f acq.isSome false .space needR (fun x l => refScratch s g f l (ea32 x a off l)) s g) s

def execVldp (h : Hdr) (ta : BitVec 3) (d : VReg) (a : OOp) (off : BitVec 16) (sel : BitVec 3) (f : MFmt) (nt : Bool) (s : State) :
    Host.Outcome State Fault Refusal :=
  let i := Instr.vldp h ta d a off sel f nt
  issue i (fun s g => vecLoad i ta d sel f false nt .plain needR (fun x l => refPrivate s g f needR l (ea32 x a off l)) s g) s

/-- The value SLD writes (R255). -/
def scalarLoad (f : MFmt) (x : Nat) : W64 := if f = .i8 then (BitVec.ofNat 8 x).signExtend 64 else BitVec.ofNat 64 x

/-- A uniform access whose address or data is marked poisoned: the group stops; in an attempt every lane of EXM fails (R367, R370). -/
def poisonGroup (g : Group) (w : WinEntry) (s : State) : Out :=
  if g.region.state ≠ .open then .stop (stopAll g .poison 0)
  else if g.regs.exm = 0 then .done s g w
  else .stop (poisonStop g.regs.exm)

def sldGo (i : Instr) (ta : BitVec 3) (d : BitVec 6) (a : UOp) (off : BitVec 16) (f : MFmt) (acq nt : Bool) (s : State) (g : Group) : Out :=
  let x := srcOf s g
  if poisonU x (iUs i) then poisonGroup g .async s
  else
    let ea := (rdU x a).1 + off.signExtend 64
    let n := fmtBytes f
    let res := checkGlobal s g ea.toNat n needR
    let openTx := decide (g.region.state = .open)
    let lanes := if openTx then lanesOf g.regs.exm else [laneOf0]
    match judge s g (lanes.map fun l => ⟨l, ea, res⟩) needR (!openTx) with
    | some o => o
    | none =>
      match res.place with
      | none => .done s g .async
      | some (r, pa) =>
        match orderBefore (touchPage s g.part g.core ea.toNat) g [(r, pa, n)] with
        | none => .wait s g
        | some (s, g) =>
          if openTx then
            let (g, ps) := txReads s g (lanes.map fun l => ⟨l, r, pa, n, 0⟩)
            match ps.filter fun p => g.regs.exm.getLsbD p.lane.val with
            | [] => .done s g .async
            | p :: _ =>
              let (bs, pz) := txView g p
              .done (sliceFill s g.part r (pa / 128) nt) (allocTag g ta [] (some d) 0 0 [.scal d (scalarLoad f (sectorPart bs pa n)) pz]) .async
          else if isRemote r then
            if canRequest s g 3 [(r, pa / 32)] then
              .done (requestSector s g ta f [] (some (d, pa % 32)) acq (routeDev r) (pa / 32)) (allocTag g ta [] (some d) 0 1 []) .async
            else .wait s g
          else
            let (s, bs, pz) := readOnce s (gotOf g) g.core g.part r (pa / 32) nt
            .done s (allocTag g ta [] (some d) 0 0 [.scal d (scalarLoad f (sectorPart bs pa n)) pz]) .async
where
  /-- Lane 0, standing for the group. -/
  laneOf0 : Lane := 0

def execSld (h : Hdr) (ta : BitVec 3) (d : BitVec 6) (a : UOp) (off : BitVec 16) (f : MFmt) (acq : Option Scope) (nt : Bool)
    (s : State) : Host.Outcome State Fault Refusal :=
  let i := Instr.sld h ta d a off f acq nt
  issue i (sldGo i ta d a off f acq.isSome nt) s

-- loads whose reads come before the instructions older than them retire (R163, R167)

/-- A load of global or private memory that is no acquire: its non-temporal hint, and the elements it names, lane by lane. -/
def plainLoad (s : State) (g : Group) (x : Src) : Instr → Option (Bool × List Ref)
  | .vld _ _ _ a off sel f none nt => some (nt, (lanesOf (active g.regs sel)).flatMap fun l => refGlobal s g f needR l (eaM x a off l))
  | .vldIndexed _ _ _ a b c sel f none nt => some (nt, (lanesOf (active g.regs sel)).flatMap fun l => refGlobal s g f needR l (eaX x a b c l))
  | .vldb _ _ _ a off sel f none nt =>
    some (nt, (lanesOf (active g.regs sel)).flatMap fun l => refGlobal s g f needR l (eaBlock ((rdU x a).1 + off.signExtend 64) f l))
  | .vldp _ _ _ a off sel f nt => some (nt, (lanesOf (active g.regs sel)).flatMap fun l => refPrivate s g f needR l (ea32 x a off l))
  | .sld _ _ _ a off f none nt => some (nt, refGlobal s g f needR 0 ((rdU x a).1 + off.signExtend 64))
  | _ => none

/-- The elements of a load are all on this device, and nothing of the group's own comes before them. -/
def mayReadNow (s : State) (g : Group) (rs : List Ref) : Bool :=
  let ps := rs.filterMap Ref.piece
  rs.all (fun r => r.elem.res.place.isSome && !failedPage g r.elem.page) && !ps.isEmpty && ps.all (fun p => !isRemote p.route) &&
  overlapCount (ps.map fun p => (p.route, p.addr, p.n)) 0 0 g.stbuf == 0 && acqCount 0 0 g.stbuf == 0 && !acqPending s g

/-- Reads the sectors of its elements. -/
def readAhead (s : State) (g : Group) (nt : Bool) (rs : List Ref) : State × GotSectors :=
  (pieceSectors (rs.filterMap Ref.piece)).foldl (fun (x : State × GotSectors) k =>
    let (s, y) := readOnce x.1 [] g.core g.part k.1 k.2 nt
    (s, x.2 ++ [(k, y)])) (touchRefs s g .logged rs, [])

-- stores

/-- The bytes a piece of an element writes. -/
def pieceWrites (f : MFmt) (p : Piece) (y : Nat) : List ByteWr :=
  if f = .f4 then [⟨p.route, p.addr, if p.lane.val % 2 = 0 then 0x0F else 0xF0, BitVec.ofNat 8 (y % 16 * 17)⟩]
  else
    (natLe p.n (if p.k = 2 then y / 2 ^ 32 else y)).zipIdx.map fun b => ⟨p.route, p.addr + b.2, 0xFF, b.1⟩

/-- The element a lane stores, the poison it creates and the lane's generator after it (R89, R90, R251). -/
def convertLane (f : MFmt) (r : SRnd) (v : W64) (seed : W32) : Nat × Bool × W32 :=
  match r with
  | .det m => let (y, p) := narrow f (rndOf m) v; (y, p, seed)
  | .sr =>
    let (seed', b) := srStep seed
    let (y, p) := narrow f (.sr b) v
    (y, p, seed')

/-- What a lane converts: its element, its poison, its next SRSEED. -/
def laneStore (x : Src) (g : Group) (d : OOp) (f : MFmt) (r : SRnd) (l : Lane) : Nat × Bool × W32 :=
  convertLane f r (rdW f.wide x d l).1 (g.sr.srseed[l.val])

/-- The generators of the lanes that stored (R90). -/
def stepSeeds (x : Src) (g : Group) (d : OOp) (f : MFmt) (r : SRnd) (act : LMask) : Group :=
  match r with
  | .det _ => g
  | .sr =>
    { g with sr := { g.sr with
      srseed := Vector.ofFn fun l => if act.getLsbD l.val then (laneStore x g d f .sr l).2.2 else g.sr.srseed[l.val] } }

def bumpAmax (on : Bool) (x : Src) (g : Group) (d : OOp) (act : LMask) : Group :=
  if on then { g with sr := { g.sr with amax := amaxAfter g.sr.amax act fun l => (rd32 x d l).1 } } else g

/-- The stores of an attempt: each lane is checked against the limits and its bytes logged (R368, R369). -/
def txWrites (s : State) (conv : Lane → Nat × Bool × W32) (f : MFmt) (nt : Bool) (g : Group) : List Piece → Group
  | [] => g
  | p :: t =>
    if !g.regs.exm.getLsbD p.lane.val then txWrites s conv f nt g t
    else
      match txWriteAbort s g p with
      | some c => txWrites s conv f nt (abortLane g.sr.clk2 c g p.lane.val) t
      | none =>
        let (y, pz, _) := conv p.lane
        let ws := (pieceWrites f p y).map fun w => (⟨p.lane.val, w, pz, nt⟩ : WLog)
        txWrites s conv f nt { g with region := { g.region with wlog := g.region.wlog ++ ws } } t

/-- Those stores, with room in L1 for the sectors they add (R2, R369). -/
def logWrites (s : State) (conv : Lane → Nat × Bool × W32) (f : MFmt) (nt : Bool) (g : Group) (ps : List Piece) : State × Group :=
  let g' := txWrites s conv f nt g ps
  (specRoom s g.core ((wlogSectors g'.region.wlog).length - (wlogSectors g.region.wlog).length), g')

/-- A vector store: data and address consumed, elements judged, conversion made, the store buffered (R246, R251). -/
def vecStore (i : Instr) (d : OOp) (sel : BitVec 3) (f : MFmt) (rnd : SRnd) (rel : Option Scope) (nt amax : Bool) (way : TxWay)
    (refs : Src → Lane → List Ref) (s : State) (g : Group) : Out :=
  let x := srcOf s g
  let act := active g.regs sel
  let p := poisonLanes x (iOs i) act
  if p ≠ 0 then .stop (poisonStop p)
  else if g.region.state = .open ∧ way = .space then .done s (abortLanes g.sr.clk2 .space g act) .none
  else
    let rs := (lanesOf act).flatMap (refs x)
    match judge s g (rs.map (·.elem)) needW false with
    | some o => o
    | none =>
      let ps := rs.filterMap Ref.piece
      let conv := laneStore x g d f rnd
      match orderBefore (touchRefs s g way rs) g [] with
      | none => .wait s g
      | some (s, g) =>
        if g.region.state = .open ∧ way = .logged then
          let (s, g) := logWrites s conv f nt g ps
          let act := act &&& g.regs.exm
          .done s (bumpAmax amax x (stepSeeds x g d f rnd act) d act) .none
        else if ps.isEmpty && !(decide (way = .space) && rel.isSome) then .done s g .none
        else if stbufFull s g then .wait s g
        else
          let ws := ps.flatMap fun p => pieceWrites f p (conv p.lane).1
          let pz := ((ps.filter fun p => (conv p.lane).2.1).map fun p => (p.route, p.addr / 32)).eraseDups
          let g := { g with stbuf := g.stbuf ++ [.store ws pz rel nt] }
          .done (recordOwners s g (ps.map fun p => (p.route, p.addr))) (bumpAmax amax x (stepSeeds x g d f rnd act) d act) .none

def execVst (h : Hdr) (d a : OOp) (off : BitVec 16) (sel : BitVec 3) (f : MFmt) (rnd : SRnd) (rel : Option Scope) (nt : Bool)
    (s : State) : Host.Outcome State Fault Refusal :=
  let i := Instr.vst h d a off sel f rnd rel nt
  issue i (fun s g => vecStore i d sel f rnd rel nt false .logged (fun x l => refGlobal s g f needW l (eaM x a off l)) s g) s

def execVstIndexed (h : Hdr) (d a b : OOp) (c : BitVec 8) (sel : BitVec 3) (f : MFmt) (rnd : SRnd) (rel : Option Scope) (nt : Bool)
    (s : State) : Host.Outcome State Fault Refusal :=
  let i := Instr.vstIndexed h d a b c sel f rnd rel nt
  issue i (fun s g => vecStore i d sel f rnd rel nt false .logged (fun x l => refGlobal s g f needW l (eaX x a b c l)) s g) s

def execVstAmax (h : Hdr) (d a : OOp) (off : BitVec 16) (sel : BitVec 3) (f : MFmt) (rnd : SRnd) (rel : Option Scope) (nt : Bool)
    (s : State) : Host.Outcome State Fault Refusal :=
  let i := Instr.vstAmax h d a off sel f rnd rel nt
  issue i (fun s g => vecStore i d sel f rnd rel nt true .logged (fun x l => refGlobal s g f needW l (eaM x a off l)) s g) s

def execVstAmaxIndexed (h : Hdr) (d a b : OOp) (c : BitVec 8) (sel : BitVec 3) (f : MFmt) (rnd : SRnd) (rel : Option Scope)
    (nt : Bool) (s : State) : Host.Outcome State Fault Refusal :=
  let i := Instr.vstAmaxIndexed h d a b c sel f rnd rel nt
  issue i (fun s g => vecStore i d sel f rnd rel nt true .logged (fun x l => refGlobal s g f needW l (eaX x a b c l)) s g) s

def execVsts (h : Hdr) (d a : OOp) (off : BitVec 16) (sel : BitVec 3) (f : MFmt) (rnd : SRnd) (rel : Option Scope) (s : State) :
    Host.Outcome State Fault Refusal :=
  let i := Instr.vsts h d a off sel f rnd rel
  issue i (fun s g => vecStore i d sel f rnd rel false false .space (fun x l => refScratch s g f l (ea32 x a off l)) s g) s

def execVstp (h : Hdr) (d a : OOp) (off : BitVec 16) (sel : BitVec 3) (f : MFmt) (rnd : SRnd) (nt : Bool) (s : State) :
    Host.Outcome State Fault Refusal :=
  let i := Instr.vstp h d a off sel f rnd nt
  issue i (fun s g => vecStore i d sel f rnd none nt false .plain (fun x l => refPrivate s g f needW l (ea32 x a off l)) s g) s

/-- The bits SST writes (R256). -/
def scalarStore (f : MFmt) (v : W64) : Nat :=
  match f with
  | .i8 => (BitVec.ofInt 8 (satTo (-128) 127 v.toInt)).toNat
  | _ => v.toNat % 2 ^ fmtBits f

def sstGo (i : Instr) (d a : UOp) (off : BitVec 16) (f : MFmt) (rel : Option Scope) (nt : Bool) (s : State) (g : Group) : Out :=
  let x := srcOf s g
  if poisonU x (iUs i) then poisonGroup g .none s
  else
    let ea := (rdU x a).1 + off.signExtend 64
    let n := fmtBytes f
    let res := checkGlobal s g ea.toNat n needW
    let openTx := decide (g.region.state = .open)
    let lanes := if openTx then lanesOf g.regs.exm else [(0 : Lane)]
    match judge s g (lanes.map fun l => ⟨l, ea, res⟩) needW (!openTx) with
    | some o => o
    | none =>
      match res.place with
      | none => .done s g .none
      | some (r, pa) =>
        let y := scalarStore f (rdU x d).1
        match orderBefore (touchPage s g.part g.core ea.toNat) g [] with
        | none => .wait s g
        | some (s, g) =>
          if openTx then
            let (s, g) := logWrites s (fun _ => (y, false, 0)) f nt g (lanes.map fun l => ⟨l, r, pa, n, 0⟩)
            .done s g .none
          else if stbufFull s g then .wait s g
          else .done (recordOwner s g.part g.core r pa) { g with stbuf := g.stbuf ++ [.store (pieceWrites f ⟨0, r, pa, n, 0⟩ y) [] rel nt] } .none

def execSst (h : Hdr) (d a : UOp) (off : BitVec 16) (f : MFmt) (rel : Option Scope) (nt : Bool) (s : State) :
    Host.Outcome State Fault Refusal :=
  let i := Instr.sst h d a off f rel nt
  issue i (sstGo i d a off f rel nt) s

-- prefetch and cache management

/-- PREF of one lane: brings the line into L1 where R236 lets it be cached there, or into its home slice only (R257). Log 20 (DEDUCED). -/
def prefLane (g : Group) (nt : Bool) (s : State) (l : Nat) (ea : W64) : State :=
  match checkLane s g l ea.toNat 4 needR with
  | .ok r pa =>
    if inL1 r then
      let s := recordOwner (touchPage s g.part g.core ea.toNat) g.part g.core r pa
      if nt then sliceFill s g.part r (pa / 128) true else ensureL1 s g.core g.part r (pa / 128) false
    else s
  | _ => s

/-- Log 20 (DEDUCED). -/
def execPref (h : Hdr) (a : OOp) (off : BitVec 16) (sel : BitVec 3) (nt : Bool) (s : State) : Host.Outcome State Fault Refusal :=
  issue (.pref h a off sel nt) (fun s g =>
    let x := srcOf s g
    let ls := (lanesOf (active g.regs sel)).filter fun l => !(rd64 x a l).2
    match orderBefore s g [] with
    | none => .wait s g
    | some (s, g) => .done (ls.foldl (fun s l => prefLane g nt s l.val (eaM x a off l)) s) g .none) s

/-- The line CWB, CINV or ICINV names: none with .ALL, after its checks (R258, R260). -/
def withLine (i : Instr) (addr : Option UAddr) (need : Need) (s : State) (g : Group) (k : State → Group → Option (Route × Nat) → Out) :
    Out :=
  match addr with
  | none => k s g none
  | some u =>
    let x := srcOf s g
    if poisonU x (iUs i) then .stop (stopAll g .poison 0)
    else
      let ea := (rdU x u.a).1 + u.off.signExtend 64
      let res := if need.x then xlatCode s g ea.toNat else xlat s g ea.toNat need
      match judge s g [⟨0, ea, res⟩] need true with
      | some o => o
      | none => k (if need.x then s else touchPage s g.part g.core ea.toNat) g res.place

/-- The L1 lines of a core that an instruction names; HW-coherent ones are unaffected (R258, R259). Log 21 (DEDUCED). -/
def namedLines (s : State) (core : Nat) : Option (Route × Nat) → List L1Line
  | none => (s.core core).l1.filter fun x => decide (x.coh ≠ .hw)
  | some (r, pa) => (s.core core).l1.filter fun x => sameLine ((routeTier r).getD .hbm) (pa / 128) x && decide (x.coh ≠ .hw)

/-- The slice copies of host lines that an instruction names. Log 21 (DEDUCED). -/
def namedCopies (s : State) (part : Nat) : Option (Route × Nat) → List L1Line
  | none => ((s.part? part).map (·.hostCopies)).getD []
  | some (r, pa) =>
    if routeTier r = some .host then (((s.part? part).map (·.hostCopies)).getD []).filter fun x => x.line == pa / 128 else []

/-- Carries the named slice copies to host memory, and drops or cleans them. -/
def hostCarry (part : Nat) (drop : Bool) (s : State) (l : List L1Line) : State :=
  l.foldl (fun s x =>
    (sliceToHost s x).modPart part fun p =>
      { p with hostCopies :=
          if drop then p.hostCopies.filter fun y => y.line != x.line
          else p.hostCopies.map fun y => if y.line = x.line then { y with dirty := 0 } else y }) s

/-- Log 21 (DEDUCED). -/
def scopeWide (sc : Scope) : Bool := !(decide (sc = .gp) || decide (sc = .tm))

/-- CWB and CINV (R258, R259). Log 21 (DEDUCED). -/
def cacheOp (i : Instr) (addr : Option UAddr) (sc : Scope) (inv : Bool) (s : State) (g : Group) : Out :=
  withLine i addr needR s g fun s g ln =>
    match drainAll s g with
    | none => .wait s g
    | some (s, g) =>
      if acqPending s g then .wait s g
      else if !scopeWide sc then .done s g .none
      else
        let s := (namedLines s g.core ln).foldl (fun s x => if inv then flushLine s g.core x else cleanLine s g.core x) s
        let s := if sc = .sys then hostCarry g.part inv s (namedCopies s g.part ln) else s
        .done s g .none

def execCwb (h : Hdr) (addr : Option UAddr) (sc : Scope) (s : State) : Host.Outcome State Fault Refusal :=
  issue (.cwb h addr sc) (cacheOp (.cwb h addr sc) addr sc false) s
def execCinv (h : Hdr) (addr : Option UAddr) (sc : Scope) (s : State) : Host.Outcome State Fault Refusal :=
  issue (.cinv h addr sc) (cacheOp (.cinv h addr sc) addr sc true) s

/-- The die sector of a core (R124). -/
def sectorOf (core : Nat) : Nat := core / 16
def ownsCore (p : Part) (core : Nat) : Bool := p.sectors.contains (sectorOf core)

/-- Whether two routes name the same memory and the lines agree. -/
def sameCode (r : Route) (line : Nat) (x : ILine) : Bool := samePlace r x.route && x.line == line

/-- Drops the lines and translations ICINV names on one core, what other devices have been asked for them, and its filled run buffers that
have not begun delivery (R153). -/
def icinvCore (va : W64) (ln : Option (Route × Nat)) (s : State) (core : Nat) : State :=
  let named := fun (r : Route) (line : Nat) => match ln with
    | none => true
    | some (r', pa) => samePlace r' r && line == pa / 128
  let ops := ((s.core core).codeReqs.filter fun x => named x.2.2.1 x.2.2.2).map (·.1)
  let s := { s with engIn := s.engIn.filter fun e => !ops.contains e.1 }
  let s := s.modCore core fun c =>
    { c with
      codeReqs := c.codeReqs.filter fun x => !ops.contains x.1
      icache := match ln with
        | none => []
        | some (r, pa) => c.icache.filter fun x => !sameCode r (pa / 128) x
      itlbs := match ln with
        | none => Vector.replicate 4 []
        | some _ => c.itlbs.map fun l => l.filter fun t => !t.covers (va.toNat / 65536) }
  { s with groups := s.groups.map fun g =>
      if g.core = core ∧ g.begun = false then { g with buf := [], bufStop := none, fetched := false } else g }

/-- Log 19 (DEDUCED). -/
def execIcinv (h : Hdr) (addr : Option UAddr) (dev : Bool) (s : State) : Host.Outcome State Fault Refusal :=
  let i := Instr.icinv h addr dev
  issue i (fun s g =>
    withLine i addr ⟨false, false, true⟩ s g fun s g ln =>
      let va := match addr with
        | some u => (rdU (srcOf s g) u.a).1 + u.off.signExtend 64
        | none => 0
      let cores := (s.cores.map (·.1) ++ s.groups.map (·.core)).eraseDups.filter fun n =>
        ((s.part? g.part).map fun p => ownsCore p n).getD false && (dev || dieOf n == dieOf g.core)
      match orderBefore s g [] with
      | none => .wait s g
      | some (s, g) => .done (cores.foldl (icinvCore va ln) s) g .none) s

end Sys2Proof.Machine
end

