-- ==== Sys2Proof/Machine/Sync.lean ====
section
/-! DEFINITION. Atomics, fences and barriers (R332 to R345), parking and notification (R356 to R359). -/

namespace Sys2Proof.Machine

open Sys2Proof

/-- The scratchpad alias (R332). -/
def isAlias (x : W64) : Bool := x.toNat / 2 ^ 32 == 0x007FFEFF
def aliasAddr (x : W64) : Nat := x.toNat % 2 ^ 32

-- atomics

/-- The atomics a host-tier page takes (R338). Log 22 (DESIGN CHOICE). -/
def hostAtomic : AFun → Bool
  | .op .add _ | .op .xchg _ => true
  | .cas => true
  | _ => false

/-- The checks of a lane of an atomic (R332, R339). -/
def atomElem (s : State) (g : Group) (f : AFun) (wide : Bool) (l : Lane) (ea : W64) : Elem :=
  let n := if wide then 8 else 4
  let res := if isAlias ea then checkScratch s g (aliasAddr ea) n else checkLane s g l.val ea.toNat n needRW
  ⟨l, ea, match res with
    | .ok r a => if routeTier r = some .host ∧ !hostAtomic f then .fault .perm else .ok r a
    | x => x⟩

/-- An atomic: operands consumed, lanes judged, and the request buffered until it is performed at its home (R334, R337). -/
def atomic (i : Instr) (ret : Option ARet) (f : AFun) (wide : Bool) (ord : AOrd) (sel : BitVec 3) (a b : OOp) (c : Option OOp)
    (s : State) (g : Group) : Out :=
  let x := srcOf s g
  let act := active g.regs sel
  let p := poisonLanes x (iOs i) act
  if p ≠ 0 then .stop (poisonStop p)
  else
    let es := (lanesOf act).map fun l => atomElem s g f wide l (rd64 x a l).1
    match judge s g es needRW false with
    | some o => o
    | none =>
      let ls := es.filterMap fun e => e.res.place.map fun p =>
        (⟨e.lane, p.1, p.2, (rdW wide x b e.lane).1, (c.map fun o => (rdW wide x o e.lane).1).getD 0⟩ : AtomLane)
      let vas := (es.filter fun e => !isAlias e.va).map fun e => e.va.toNat
      match orderBefore (touchPages s g.part g.core vas) g [] with
      | none => .wait s g
      | some (s, g) =>
        if ls.isEmpty then .done s g (if ret.isSome then .async else .none)
        else if stbufFull s g then .wait s g
        else
          let g := { g with stbuf := g.stbuf ++ [.atomic ls f wide ret ord] }
          let n := ((ls.map fun x => (x.route, x.addr / 32)).eraseDups).length
          let s := recordOwners s g (ls.map fun x => (x.route, x.addr))
          match ret with
          | some r => .done s (allocTag g r.ta (pairRegs wide r.d) none act n []) .async
          | none => .done s g .none

def execAtom (h : Hdr) (r : Option ARet) (a b : OOp) (sel : BitVec 3) (f : AFmt) (op : AOp) (ord : AOrd) (s : State) :
    Host.Outcome State Fault Refusal :=
  let i := Instr.atom h r a b sel f op ord
  let signed := match f with
    | .i32 | .i64 => true
    | _ => false
  issue i (atomic i r (.op op signed) f.wide ord sel a b none) s

def execAcas (h : Hdr) (r : Option ARet) (a b c : OOp) (sel : BitVec 3) (f : AFmt) (ord : AOrd) (s : State) :
    Host.Outcome State Fault Refusal :=
  let i := Instr.acas h r a b c sel f ord
  issue i (atomic i r .cas f.wide ord sel a b (some c)) s

def execAfadd (h : Hdr) (r : Option ARet) (a b : OOp) (sel : BitVec 3) (ord : AOrd) (s : State) :
    Host.Outcome State Fault Refusal :=
  let i := Instr.afadd h r a b sel ord
  issue i (atomic i r .fadd false ord sel a b none) s

-- fences

/-- The entries up to the last atomic: what an acquire fence has performed (R320). -/
def lastAtomic (n best : Nat) : List BufOp → Nat
  | [] => best
  | .atomic _ _ _ _ _ :: t => lastAtomic (n + 1) (n + 1) t
  | _ :: t => lastAtomic (n + 1) best t

/-- What a fence waits for (R320, R340). -/
def fenceDone (s : State) (g : Group) (ord : FOrd) (sc : Scope) (sp : Bool) : Option (State × Group) :=
  match ord with
  | .acq =>
    match drainN s g (lastAtomic 0 0 g.stbuf) with
    | some (s, g) => if !sp && reqPending s g then none else some (s, g)
    | none => none
  | _ => if sp then drainAll s g else performAll s g (decide (sc = .sys))

def execFence (h : Hdr) (ord : FOrd) (sc : Scope) (sp : Bool) (s : State) : Host.Outcome State Fault Refusal :=
  issue (.fence h ord sc sp) (fun s g =>
    match fenceDone s g ord sc sp with
    | none => .wait s g
    | some (s, g) =>
      let empties := sp && !decide (ord = .acq)
      .done (if empties then s.modCore g.core fun c => { c with ocache := [] } else s) g .none) s

-- parking and notification (R356 to R359)

def samePt (x y : Route × Nat) : Bool := samePlace x.1 y.1 && x.2 == y.2

/-- Notifications to the cores of groups, one for each core. -/
def notesTo (s : State) (part : Nat) (r : Route) (a : Nat) (gids : List Nat) : List (Nat × Nat × Route × Nat) :=
  ((gids.filterMap s.group?).map (·.core)).eraseDups.map fun c => (part, c, r, a)

/-- The home notifies every core that waits for an object and empties the set (R356). -/
def notifyObj (s : State) (part : Nat) (r : Route) (a : Nat) : State :=
  match s.part? part with
  | none => s
  | some p =>
    let mine := p.waiters.filter fun w => samePt (w.1, w.2.1) (r, a)
    { (s.modPart part fun p => { p with waiters := p.waiters.filter fun w => !samePt (w.1, w.2.1) (r, a) }) with
      notes := s.notes ++ notesTo s part r a (mine.map (·.2.2)) }

/-- The instruction of an entry of the reorder buffer. -/
def RobEnt.instr (e : RobEnt) : Option Instr :=
  match decodeWords e.words with
  | .ok (i, _) => some i
  | .error _ => none

/-- The oldest unretired instruction of a group. -/
def headInstr (g : Group) : Option Instr := g.rob.head?.bind RobEnt.instr

def isSpecend : Instr → Bool
  | .specend _ => true
  | _ => false

/-- Entries of the engine command queue in use (R273); MMA.F4 takes two, one held for its MSCALE. -/
def cmdEntries (k : Cmd) : Nat := if k.isMma && decide (mmaty? (k.f.extractLsb' 9 4) = some .f4) then 2 else 1
def queueRoom (s : State) (core : Nat) : Nat := 64 - ((s.core core).cmds.map cmdEntries).sum

/-- The entries the command of a group's oldest instruction takes. -/
def entriesWanted (g : Group) : Nat :=
  match headInstr g with
  | some (.mma _ _ _ _ ty _) => if ty = .f4 then 2 else 1
  | _ => 1

/-- Parked under R356 and not under R357: in the waiter set of its object, or waiting for entries of the engine queue (R273). -/
def gateParked (s : State) (g : Group) : Bool :=
  match g.wait with
  | .parked r a false =>
    ((s.part? g.part).map fun p =>
      (p.waiters.any fun w => w.2.2 == g.gid && samePt (w.1, w.2.1) (r, a)) ||
      p.tasks.any fun t => t.waiters.contains g.gid && samePt (t.route, t.addr) (r, a)).getD false
  | .engine => decide (queueRoom s g.core < entriesWanted g)
  | _ => false

/-- CORE_CLOCK_GATE: the issue clocks stop when every resident group is parked and none polls (R358). -/
def clockGate (s : State) (core : Nat) : State :=
  let gs := s.groups.filter (·.core == core)
  if !gs.isEmpty && gs.all (gateParked s) then s.modCore core fun c => { c with asleep := true, wakeIn := none }
  else s.modCore core fun c => { c with asleep := false }

/-- The core's issue clocks stand still: they were stopped and every group there is parked still. A group that a stop has taken out of its
wait runs (R358). Log 35 (DEDUCED). -/
def clocksStopped (s : State) (core : Nat) : Bool :=
  (s.core core).asleep && (s.groups.filter (·.core == core)).all fun g => match g.wait with
    | .parked _ _ _ | .engine => true
    | _ => false

/-- The core's clocks run, and have run for 200 clocks since they restarted. -/
def coreAwake (s : State) (core : Nat) : Bool := !clocksStopped s core && (s.core core).wakeIn.getD 0 == 0

/-- Parks an instruction on its object: `set` where the home keeps a waiter set (R356, R357). Log 34 (DEDUCED). -/
def park (s : State) (g : Group) (r : Route) (a : Nat) (set : Bool) : Out :=
  let g := { g with wait := .parked r a false, spoilt := false, parkedAt := s.now, parkedClk := g.sr.clk2, waitFrom := none }
  let s := s.modPart g.part fun p =>
    { p with waiters := (p.waiters.filter fun w => w.2.2 != g.gid) ++ if set then [(r, a, g.gid)] else [] }
  .halt (clockGate (s.setGroup g) g.core) g

-- barriers

/-- A barrier object (R341). -/
def barBad (v : Nat) : Bool :=
  bits v 62 56 != 0 || bits v 31 24 != 0 || bits v 55 32 == 0 || decide (bits v 55 32 ≤ bits v 23 0)
def barPhase (v : Nat) : Bool := v.testBit 63

def homeNat (s : State) (r : Route) (a n : Nat) : Nat := leNat ((List.range n).map fun i => homeRead s r (a + i))
/-- Writes a number at an object's home. -/
def homePut (s : State) (part : Nat) (r : Route) (a n v : Nat) : State :=
  let bs := natLe n v
  let s := (List.range n).foldl (fun s i => homeWrite s r (a + i) 0xFF (bs[i]?.getD 0)) s
  stampLine s part none none false r (a / 128)

/-- The barrier after an arrival. -/
def barNext (v : Nat) : Nat :=
  let count := bits v 23 0 + 1
  if count = bits v 55 32 then (v - bits v 23 0) ^^^ 2 ^ 63 else v + 1

/-- Sends a QOP: an operation on an object at its home on another device, with one sector of 64-bit operands where it has any. Code 1 arrives
at a barrier, 2 and 3 wait for the phase to differ from the token 0 and 1; on a record (R297, R305), 4 and 5 add 1 to REFCNT and take 1 from it,
6 replaces CUR where it still is the first operand, 7 sets RETIRED. Log 64 (DESIGN CHOICE). -/
def sendQop (s : State) (sid : StreamId) (r : Route) (pa code : Nat) (operands : List Nat) : State × Nat :=
  let tag := s.fabric.nextTag
  let key := match r with
    | .glob _ _ _ k _ => k
    | _ => 0
  let s :=
    if operands.isEmpty then (sendSeq s sid 10 false 0 tag code 0 pa 0 0 []).1
    else (sendSeq s sid 10 false key tag code 0 pa 0 1 (sealBytes (routeTag r) pa ((operands.flatMap (natLe 8) ++ List.replicate 32 0).take 32))).1
  (s.modFabric fun f => { f with nextTag := (tag + 1) % 65536 }, tag)

/-- Sends the notifications that the streams of a partition can take, by a QRSP with the model's own code 6, and the operations on records that
nobody waits for; the others wait for an ACK (R356, R403). Log 64 (DESIGN CHOICE). -/
def sendDue (s : State) (part : Nat) : State :=
  match s.part? part with
  | none => s
  | some p =>
    let s := p.remDue.foldl (fun s w =>
      if canSend s w.2.1 1 then (sendSeq s w.2.1 11 false 0 w.2.2 6 0 w.1 0 0 []).1
      else s.modPart part fun p => { p with remDue := p.remDue ++ [w] }) (s.modPart part fun p => { p with remDue := [] })
    p.recDue.foldl (fun s w =>
      if canSend s w.1 1 then (sendQop s w.1 w.2.1.1 w.2.1.2 w.2.2.1 w.2.2.2).1
      else s.modPart part fun p => { p with recDue := p.recDue ++ [w] }) (s.modPart part fun p => { p with recDue := [] })

/-- Groups of other devices whose wait is over are notified (R356). -/
def answerWaits (s : State) (part a : Nat) (phase : Bool) : State :=
  match s.part? part with
  | none => s
  | some p =>
    let done := p.remWaiters.filter fun w => w.1 == a && w.2.2.2 != phase
    sendDue (s.modPart part fun p => { p with
      remWaiters := p.remWaiters.filter fun w => !(w.1 == a && w.2.2.2 != phase)
      remDue := p.remDue ++ done.map fun w => (a, w.2.1, w.2.2.1) }) part

/-- BARRIER_ARRIVAL at the home (R343): the token, or none for a corrupt object. -/
def barArrive (s : State) (part : Nat) (r : Route) (a : Nat) : State × Option Bool :=
  let v := homeNat s r a 8
  if barBad v then (s, none)
  else
    let n := barNext v
    let s := homePut s part r a 8 n
    let s := if barPhase n != barPhase v then answerWaits (notifyObj s part r a) part a (barPhase n) else s
    (s, some (barPhase v))

/-- The place of a barrier, after its checks (R342). -/
def withBarrier (i : Instr) (a : UOp) (sp : Bool) (s : State) (g : Group) (k : State → W64 → Route → Nat → Out) : Out :=
  let x := srcOf s g
  if poisonU x (iUs i) then .stop (stopAll g .poison 0)
  else
    let ea := (rdU x a).1
    let res := if sp then checkScratch s g (ea.toNat % 2 ^ 32) 8
      else match checkGlobal s g ea.toNat 8 needRW with
        | .ok r pa => if routeTier r = some .host then .fault .perm else if !isHw r then .fault .coherence else .ok r pa
        | y => y
    let va := if sp then (ea.setWidth 32).setWidth 64 else ea
    match judge s g [⟨0, va, res⟩] needRW true with
    | some o => o
    | none =>
      match res.place with
      | some (r, pa) => k (if sp then s else touchPage s g.part g.core ea.toNat) va r pa
      | none => .wait s g

/-- Sends an operation of a group to an object's home on another device (`sendQop`) and waits for its answer. -/
def sendHomeOp (s : State) (g : Group) (r : Route) (pa code : Nat) (operands : List Nat) : Out :=
  let sid := streamTo s g.part (dieOf g.core) (routeDev r) pa 5
  if !canSend s sid 1 || otherStream s g sid (pa / 32) then .wait s g
  else
    let (s, tag) := sendQop s sid r pa code operands
    .wait s { g with remOp := some (sid, tag, if streamLost s sid then some 4 else none) }

/-- An arrival, after every older access is performed at the scope (R343): the token and whether it is poisoned; one at system scope that waited
for a discarded write is not made (R405). -/
def arriveThen (va : W64) (r : Route) (pa : Nat) (sc : Scope) (s : State) (g : Group) (k : State → Group → Bool → Bool → Out) : Out :=
  match performAll s g (decide (sc = .sys)) with
  | none => .wait s g
  | some (s, g) =>
    if sc = .sys ∧ writesLost g = true then k s { g with remOp := none } false true
    else if isRemote r then
      match g.remOp with
      | none => sendHomeOp s g r pa 1 []
      | some (_, _, none) => .wait s g
      | some (_, _, some v) =>
        if v = 3 then .stop (stopAll g .qcorrupt va) else k s { g with remOp := none } (v == 1) (v == 4)
    else if scratchAway s r then .wait s g
    else
      match barArrive s g.part r pa with
      | (s, some tok) => k s g tok false
      | (_, none) => .stop (stopAll g .qcorrupt va)

/-- The wait for a phase other than the token's, once older acquires and the group's own stores to the object are performed (R319). -/
def phaseWait (va : W64) (r : Route) (pa : Nat) (tok : Bool) (s : State) (g : Group) (k : State → Group → Out) : Out :=
  match orderBefore s g [(r, pa, 8)] with
  | none => .wait s g
  | some (s, g) =>
  if isRemote r then
    match g.remOp with
    | none => sendHomeOp s g r pa (if tok then 3 else 2) []
    | some (_, _, none) => .wait s g
    | some (_, _, some v) =>
      if v = 3 then .stop (stopAll g .qcorrupt va)
      else if v = 4 then .stop (stopAll g .poison 0)
      else k s { g with remOp := none }
  else if scratchAway s r then .wait s g
  else
    let v := homeNat s r pa 8
    if barBad v then .stop (stopAll g .qcorrupt va)
    else if barPhase v != tok then k s g
    else park s g r pa true

/-- Marks a scalar destination poisoned. -/
def poisonS (s : State) (g : Group) (d : Option SDst) : State × Group :=
  match d with
  | none => (s, g)
  | some (.s n) => (s, { g with regs := g.regs.setS n (g.regs.s[n.toNat]?.getD 0) true })
  | some (.c n) => (s.modTeam g.tid fun t => { t with cp := t.cp ||| (1#16 <<< n.toNat) }, g)

def baraGo (i : Instr) (d : Option SDst) (a : UOp) (sc : Scope) (sp : Bool) (s : State) (g : Group) : Out :=
  withBarrier i a sp s g fun s va r pa =>
    arriveThen va r pa sc s g fun s g tok pz =>
      let (s, g) := writeS s g d (b2w tok)
      let (s, g) := if pz then poisonS s g d else (s, g)
      .done s g (.scalar (b2w tok) pz)

def barwGo (i : Instr) (a b : UOp) (sp : Bool) (s : State) (g : Group) : Out :=
  withBarrier i a sp s g fun s va r pa => phaseWait va r pa ((rdU (srcOf s g) b).1.getLsbD 0) s g fun s g => .done s g .none

def barGo (i : Instr) (a : UOp) (sc : Scope) (sp : Bool) (s : State) (g : Group) : Out :=
  withBarrier i a sp s g fun s va r pa =>
    let fin := fun (s : State) (g : Group) => Out.done s { g with barTok := none } .none
    match g.barTok with
    | some tok => phaseWait va r pa tok s g fin
    | none =>
      arriveThen va r pa sc s g fun s g tok pz =>
        if pz then .stop (stopAll g .poison 0) else phaseWait va r pa tok s { g with barTok := some tok } fin

def execBara (h : Hdr) (d : Option SDst) (a : UOp) (sc : Scope) (sp : Bool) (s : State) : Host.Outcome State Fault Refusal :=
  let i := Instr.bara h d a sc sp
  issue i (baraGo i d a sc sp) s
def execBarw (h : Hdr) (a b : UOp) (sc : Scope) (sp : Bool) (s : State) : Host.Outcome State Fault Refusal :=
  let i := Instr.barw h a b sc sp
  issue i (barwGo i a b sp) s
def execBar (h : Hdr) (a : UOp) (sc : Scope) (sp : Bool) (s : State) : Host.Outcome State Fault Refusal :=
  let i := Instr.bar h a sc sp
  issue i (barGo i a sc sp) s

end Sys2Proof.Machine
end

