-- ==== Sys2Proof/Machine/Queue.lean ====
section
/-! DEFINITION. Queue objects (R346 to R361), their capabilities (R129, R349, R444), task queues and their in-flight tables (R128, R362
to R364). -/

namespace Sys2Proof.Machine

open Sys2Proof

-- the control block (R346)

/-- One byte of a CRC-16 with polynomial 0x1021, most significant bit first. -/
def crc16Byte (c : BitVec 16) (b : Byte) : BitVec 16 :=
  (List.range 8).foldl (fun c _ => if c.getLsbD 15 then (c <<< 1) ^^^ 0x1021#16 else c <<< 1) (c ^^^ (b.setWidth 16 <<< 8))
/-- The CRC of a block: initial value 0xFFFF, no final XOR. -/
def crc16 (bs : List Byte) : BitVec 16 := bs.foldl crc16Byte 0xFFFF#16

/-- The fields of a control block. -/
structure QBlk where
  eszlog : Nat
  caplog : Nat
  scope : Nat
  block : Bool
  multi : Bool
  pois : Bool
  task : Bool
  owner : Nat
  tail : Nat
  head : Nat
  resv : Nat
  free : Nat
  slots : Nat
  deriving DecidableEq, Repr

def qBlkOf (bs : List Byte) : QBlk where
  eszlog := bits (dw bs 0) 39 35
  caplog := bits (dw bs 0) 34 30
  scope := bits (dw bs 0) 29 27
  block := (dw bs 0).testBit 26
  multi := (dw bs 0).testBit 25
  pois := (dw bs 0).testBit 24
  task := (dw bs 0).testBit 23
  owner := bits (dw bs 0) 22 18
  tail := bits (dw bs 1) 63 32
  head := bits (dw bs 1) 31 0
  resv := bits (dw bs 2) 63 32
  free := bits (dw bs 2) 24 0
  slots := bits (dw bs 3) 54 0

def bitN (b : Bool) (k : Nat) : Nat := if b then 2 ^ k else 0

/-- The bytes of a block with a fresh CRC. -/
def qBytes (b : QBlk) : List Byte :=
  let d0 := 0x5143 * 2 ^ 48 + 2 ^ 40 + b.eszlog * 2 ^ 35 + b.caplog * 2 ^ 30 + b.scope * 2 ^ 27 + bitN b.block 26 + bitN b.multi 25
    + bitN b.pois 24 + bitN b.task 23 + b.owner * 2 ^ 18
  let body := natLe 8 d0 ++ natLe 8 (b.tail * 2 ^ 32 + b.head) ++ natLe 8 (b.resv * 2 ^ 32 + b.free) ++ natLe 8 b.slots
    ++ natLe 30 0
  body ++ natLe 2 (crc16 body).toNat

def QBlk.cap (b : QBlk) : Nat := 2 ^ b.caplog
def QBlk.esz (b : QBlk) : Nat := 2 ^ b.eszlog
def sub32 (a b : Nat) : Nat := (a + 2 ^ 32 - b) % 2 ^ 32
/-- Elements in the queue. -/
def QBlk.count (b : QBlk) : Nat := sub32 b.tail b.head
/-- Slots neither full nor reserved (R351). -/
def QBlk.space (b : QBlk) : Nat := b.cap - sub32 b.resv b.head

def qCrcOk (bs : List Byte) : Bool := leNat (bs.drop 62) == (crc16 (bs.take 62)).toNat

/-- The fields of R346 lie in their ranges. -/
def qShapeBad (b : QBlk) (scratch : Bool) : Bool :=
  decide (b.eszlog < 3 ∨ 16 < b.eszlog ∨ 24 < b.caplog) || (b.task && b.eszlog != 5) ||
  (if scratch then b.scope != 2 else decide (b.scope < 3 ∨ 6 < b.scope)) || (scratch && b.multi)

/-- R347: the block is corrupt. -/
def qCorrupt (bs : List Byte) (scratch poisoned : Bool) : Bool :=
  let b := qBlkOf bs
  bits (dw bs 0) 63 48 != 0x5143 || bits (dw bs 0) 47 40 != 1 || bits (dw bs 0) 17 0 != 0 || bits (dw bs 2) 31 25 != 0 ||
  bits (dw bs 3) 63 55 != 0 || dw bs 4 != 0 || dw bs 5 != 0 || dw bs 6 != 0 || bits (dw bs 7) 47 0 != 0 ||
  qShapeBad b scratch || decide (b.cap < b.count) || b.free != b.cap - b.count ||
  decide (b.free < sub32 b.resv b.tail) || (!scratch && b.resv != b.tail) || !qCrcOk bs || b.pois || poisoned

-- the block at its home

/-- A block's place: its address as XADDR reports it, whether it is reached through a scratchpad alias, its home. -/
structure QAt where
  va : W64
  sp : Bool
  route : Route
  pa : Nat
  allow : Nat
  deriving DecidableEq, Repr

def homeBytes (s : State) (r : Route) (a n : Nat) : List Byte := (List.range n).map fun i => homeRead s r (a + i)

/-- Writes bytes at an object's home. -/
def homePutBytes (s : State) (part : Nat) (r : Route) (a : Nat) (bs : List Byte) : State :=
  let s := bs.zipIdx.foldl (fun s b => homeWrite s r (a + b.2) 0xFF b.1) s
  stampLine s part none none false r (a / 128)

def qRead (s : State) (r : Route) (pa : Nat) : List Byte := homeBytes s r pa 64
def qPoisoned (s : State) (r : Route) (pa : Nat) : Bool := homePois s r (pa / 32) || homePois s r (pa / 32 + 1)
def qBad (s : State) (r : Route) (pa : Nat) : Bool := qCorrupt (qRead s r pa) (isScratch r) (qPoisoned s r pa)

/-- Wakes every instruction parked on an object, in a waiter set or not (R355, R361). -/
def wakeAll (s : State) (part : Nat) (r : Route) (pa : Nat) : State :=
  let gs := s.groups.filter fun g => g.part == part &&
    (match g.wait with
      | .parked r' a' false => samePt (r', a') (r, pa)
      | _ => false)
  { (s.modPart part fun p => { p with
      waiters := p.waiters.filter fun w => !samePt (w.1, w.2.1) (r, pa)
      tasks := p.tasks.map fun t => if samePt (t.route, t.addr) (r, pa) then { t with waiters := [] } else t }) with
    notes := s.notes ++ notesTo s part r pa (gs.map (·.gid)) }

def parkedOn (g : Group) (r : Route) (pa : Nat) : Bool :=
  match g.wait with
  | .parked r' a' _ => samePt (r', a') (r, pa)
  | _ => false

def sameRing (tid pa : Nat) (c : CopyOp) : Bool := c.tid == tid && (c.ring.map (·.1)) == some pa

/-- The reservations of copies on a corrupt ring fail their operations: one still in transfer at its end, one that waits to be published at once
(step 4 of R361). -/
def failCopies (s : State) (r : Route) (pa : Nat) : State :=
  match r with
  | .scratch t =>
    let va : W64 := BitVec.ofNat 64 pa
    let late := s.cores.flatMap fun (c : Nat × CoreSt) => c.2.copies.filter fun o => sameRing t pa o && o.finished && o.spoilt.isNone
    let s := { s with cores := s.cores.map fun (c : Nat × CoreSt) =>
      (c.1, { c.2 with copies := c.2.copies.map fun o => if sameRing t pa o then { o with spoilt := some va } else o }) }
    late.foldl (fun s o => s.modAny o.gid fun g =>
      { g with copyS := { g.copyS with fails := insertFail ⟨o.opId, o.batch, Cause.qcorrupt.bit, va⟩ g.copyS.fails } }) s
  | _ => s

/-- QUEUE_CORRUPT: steps 1, 3 and 4 of R361. -/
def qSpoil (s : State) (part : Nat) (r : Route) (pa : Nat) : State :=
  let bs := qRead s r pa
  let body := (bs.take 62).modify 3 fun b => b ||| 1
  let s := wakeAll (failCopies (homePutBytes s part r pa (body ++ natLe 2 (crc16 body).toNat)) r pa) part r pa
  { s with groups := s.groups.map fun g => if g.part = part ∧ parkedOn g r pa = true then { g with spoilt := true } else g }

/-- Writes a block back; a change of TAIL or HEAD notifies the waiter set (R356). -/
def qWrite (s : State) (part : Nat) (r : Route) (pa : Nat) (b : QBlk) : State :=
  let s := homePutBytes s part r pa (qBytes b)
  if b.block then notifyObj s part r pa else s

/-- The block after `k` elements have been published (and, for a push, reserved). -/
def QBlk.pushed (b : QBlk) (k : Nat) : QBlk :=
  { b with tail := (b.tail + k) % 2 ^ 32, resv := (b.resv + k) % 2 ^ 32, free := b.free - k }
def QBlk.popped (b : QBlk) (k : Nat) : QBlk := { b with head := (b.head + k) % 2 ^ 32, free := b.free + k }

/-- The die sector of an object's home slice (R104). -/
def homeSectorNo (s : State) (part : Nat) (r : Route) (pa : Nat) : Nat :=
  match routeTier r with
  | some .vault => 3 * bits pa 32 30 + bits pa 29 26 / 4
  | _ => ((s.part? part).map fun p => homeSlice p pa / 8).getD 0

/-- What the second-level TLB of a die sector, or its walk, gives for an address (R145, R348). -/
def sectorWalk (s : State) (p : Part) (sec a : Nat) : Walk :=
  lookupIn s ((s.sectorTlb sec).ents.find? (·.isFor p.id (a / 65536))) p (16 * sec) 64 a

/-- The home's access to a slot in global memory, under a launch's keys (R348). -/
def slotGlobal (s : State) (p : Part) (l : Launch) (sec a : Nat) (need : Need) : XRes :=
  match translate s p l (sectorWalk s p sec a) a need with
  | .ok r pa =>
    (match routeTier r with
      | some .hbm | some .vault => if isHw r then .ok r pa else .fault .coherence
      | _ => .fault .perm)
  | .over => .fault .page
  | x => x

/-- The home's access to a slot of `n` bytes in the scratchpad of the block's team (R233, R348). -/
def slotScratch (s : State) (tid a n : Nat) : XRes :=
  match s.team? tid with
  | some t =>
    if bits a 31 29 ≠ 0 ∨ bits a 27 21 ≠ 0 ∨ t.scratchSize < bits a 20 0 + n then .fault .perm else .ok (.scratch tid) (bits a 20 0)
  | none => .fault .perm

/-- The slot of counter n of a block at a place (R332, R346, R348): its address and where it lies. -/
def slotAt (s : State) (part : Nat) (l : Option Launch) (r : Route) (pa : Nat) (b : QBlk) (need : Need) (n : Nat) : W64 × XRes :=
  let a := b.slots + n % b.cap * b.esz
  let va := BitVec.ofNat 64 a
  (va,
    if isAlias (BitVec.ofNat 64 b.slots) && b.slots.testBit 28 then .fault .capability
    else
      match r with
      | .scratch t => if isAlias va then slotScratch s t a b.esz else .fault .perm
      | _ =>
        if isAlias va then .fault .perm
        else
          match s.part? part, l with
          | some p, some l => slotGlobal s p l (homeSectorNo s part r pa) a need
          | _, _ => .fault .page)

def slotPois (s : State) (r : Route) (pa e : Nat) : Bool :=
  (List.range ((pa % 32 + e + 31) / 32)).any fun i => homePois s r (pa / 32 + i)

/-- Writes an element; the slot sectors written are unpoisoned (R351). Log 49 (DEDUCED). -/
def slotWrite (s : State) (part : Nat) (r : Route) (pa : Nat) (bs : List Byte) : State :=
  let s := homePutBytes s part r pa bs
  (List.range ((pa % 32 + bs.length + 31) / 32)).foldl (fun s i => homeSetPois s r (pa / 32 + i) false) s

-- stops

/-- A stop after the home has changed something: the trap is taken in the state given. -/
def stopWith (s : State) (g : Group) (st : Stop) : Out :=
  let s := groupStop s g st
  .halt s ((s.group? g.gid).getD g)

-- the checks at the issuing core (R349)

/-- The capability entry of slot q, valid by R129. -/
def capEntry (s : State) (g : Group) (q : BitVec 6) : W64 × W64 := (((s.launch? g.lid).bind fun l => l.caps[q.toNat]?).getD (0, 0))
def capValid (c : W64 × W64) : Bool :=
  c.1.getLsbD 63 && bits c.1.toNat 57 55 == 0 && bits c.2.toNat 63 16 == 0 && bits c.1.toNat 54 0 % 64 == 0
def capAddr (c : W64 × W64) : W64 := if c.1.getLsbD 63 then BitVec.ofNat 64 (bits c.1.toNat 54 0) else 0
def capAllow (c : W64 × W64) : Nat := if bits c.2.toNat 15 0 = 0 then 64 else bits c.2.toNat 15 0

/-- Steps 1 to 3 of R349; `lanes` is the count that ALLOW limits. -/
def withQueue (q : BitVec 6) (perm : Bool → Bool → Bool) (lanes : Nat) (s : State) (g : Group) (k : State → QAt → Out) : Out :=
  let c := capEntry s g q
  let deny := Out.stop (stopAll g .capability (capAddr c))
  if !capValid c || !perm (c.1.getLsbD 62) (c.1.getLsbD 61) || decide (capAllow c < lanes) then deny
  else
    let va := capAddr c
    if isAlias va then
      if va.getLsbD 28 then deny
      else
        match checkScratch s g (aliasAddr va) 64 with
        | .ok r pa => k s ⟨va, true, r, pa, capAllow c⟩
        | .fault x => .stop (stopAll g x va)
        | .over => .wait s g
    else
      let res := match xlat s g va.toNat needRW with
        | .ok r pa =>
          (match routeTier r with
            | some .hbm | some .vault => if isHw r then .ok r pa else .fault .coherence
            | _ => .fault .perm)
        | x => x
      match judge s g [⟨0, va, res⟩] needRW true with
      | some o => o
      | none =>
        match res.place with
        | none => .wait s g
        | some (r, pa) =>
          let multi := (qBlkOf (qRead s r pa)).multi
          let home := homeDie s g.part r pa
          if (home != dieOf g.core && !multi) || (multi && bits c.1.toNat 60 58 != home) then deny
          else k (touchPage s g.part g.core va.toNat) ⟨va, false, r, pa, capAllow c⟩

-- the checks at the home (R444)

/-- Checks 3 to 5 of R444. -/
def atHome (q : QAt) (kind : QBlk → Bool) (s : State) (g : Group) (k : QBlk → Out) : Out :=
  if g.spoilt then .stop (stopAll g .qcorrupt q.va)
  else if qBad s q.route q.pa then
    stopWith (qSpoil s g.part q.route q.pa) g (stopAll g .qcorrupt q.va)
  else
    let b := qBlkOf (qRead s q.route q.pa)
    if b.owner ≠ g.part % 32 ∨ kind b = false then .stop (stopAll g .capability q.va) else k b

/-- Checks 6 to 8 of R444. -/
def elemStops (g : Group) (b : QBlk) (scal : Bool) (d lanes : Nat) : Option Stop :=
  if 64 < b.esz then some (stopAll g .ill 0)
  else if (if scal then 64 < d + b.esz / 8 else g.sr.budget < d + b.esz / 4) then some (stopAll g .illop 0)
  else if b.cap < lanes then some (stopAll g .ill 0)
  else none

/-- The slots of `k` elements from counter `n`, or the stop of the first that fails its checks. -/
def slotsFrom (s : State) (g : Group) (q : QAt) (b : QBlk) (need : Need) (n : Nat) : Nat → Except Stop (List (Route × Nat))
  | 0 => .ok []
  | k + 1 =>
    match slotAt s g.part (s.launch? g.lid) q.route q.pa b need n with
    | (_, .ok r pa) =>
      match slotsFrom s g q b need (n + 1) k with
      | .ok l => .ok ((r, pa) :: l)
      | .error e => .error e
    | (va, .fault c) => .error (stopAll g c (if c = .capability then q.va else va))
    | (va, .over) => .error (stopAll g .page va)

-- elements

/-- The bytes a push takes from a lane's registers, or from scalar registers (R351, R353). -/
def pushBytes (g : Group) (scal : Bool) (d e : Nat) (l : Lane) : List Byte :=
  if scal then (List.range (e / 8)).flatMap fun k => natLe 8 (g.regs.getS (BitVec.ofNat 6 (d + k))).toNat
  else (List.range (e / 4)).flatMap fun k => natLe 4 (g.regs.getV (BitVec.ofNat 7 (d + k)) l).toNat

/-- The poisoned lanes of a run of registers. Log 49 (DEDUCED). -/
def pushPois (g : Group) (scal : Bool) (d e : Nat) (mask : LMask) : LMask :=
  if scal then (if (List.range (e / 8)).any fun k => g.regs.getSP (BitVec.ofNat 6 (d + k)) then g.regs.exm else 0)
  else (List.range (e / 4)).foldl (fun m k => m ||| (g.regs.vp[(d + k) % 128]?.getD 0 &&& mask)) 0
def pushHasPois (g : Group) (scal : Bool) (d e : Nat) (mask : LMask) : Bool :=
  if scal then (List.range (e / 8)).any fun k => g.regs.getSP (BitVec.ofNat 6 (d + k)) else pushPois g scal d e mask != 0

/-- Writes a popped element to a lane's registers, or to scalar registers (R352, R353). -/
def popElem (scal : Bool) (d : Nat) (g : Group) (l : Lane) (bs : List Byte) (pz : Bool) : Group :=
  if scal then
    (List.range (bs.length / 8)).foldl (fun g k =>
      let n := BitVec.ofNat 6 (d + k)
      { g with regs := g.regs.setS n (BitVec.ofNat 64 (dw bs k)) pz, tags := renameS g.tags n }) g
  else
    (List.range (bs.length / 4)).foldl (fun g k =>
      let n : VReg := BitVec.ofNat 7 (d + k)
      { g with
        regs := g.regs.setElem n l (BitVec.ofNat 32 (leNat ((bs.drop (4 * k)).take 4))) pz
        tags := renameV g.tags [n] }) g

/-- Pops elements into lanes, in order. -/
def popInto (s : State) (scal : Bool) (d e : Nat) (g : Group) : List (Lane × (Route × Nat)) → Group
  | [] => g
  | (l, r, pa) :: t => popInto s scal d e (popElem scal d g l (homeBytes s r pa e) (slotPois s r pa e)) t

def setM0 (on : Bool) (g : Group) (m : LMask) : Group := if on then { g with regs := g.regs.setM 0 m } else g
def listMask (ls : List Lane) : LMask := ls.foldl (fun m l => m ||| laneBit l.val) 0

/-- The TLB of the home's die sector has translated the slots of `k` elements from counter `n` (R145, R348). -/
def touchSlots (s : State) (part : Nat) (r : Route) (pa : Nat) (b : QBlk) (n k : Nat) : State :=
  match s.part? part with
  | some p =>
    if isScratch r then s
    else (((List.range k).map fun i => (b.slots + (n + i) % b.cap * b.esz) / 65536).eraseDups).foldl
      (fun s pg => keepWalk s p (homeSectorNo s part r pa) (65536 * pg)) s
  | none => s

/-- Every older access performed at the send scope of R350: team scope for a scratchpad block, else system scope. -/
def sendReady (s : State) (g : Group) (sp : Bool) : Option (State × Group) := performAll s g (!sp)

-- pushes and pops (R350 to R353)

/-- A push: of the active lanes, or of the group's scalars; `try'` for the forms that never park. One held for a discarded write pushes nothing
(R405). Log 66 (DEDUCED). -/
def pushGo (i : Instr) (scal try' : Bool) (d : Nat) (q : BitVec 6) (act : LMask) (s : State) (g : Group) : Out :=
  let _ := i
  let ls : List Lane := if scal then [0] else lanesOf act
  let a := ls.length
  if a = 0 then .done s (setM0 try' g 0) .none
  else
    withQueue q (fun push _ => push) (if scal || try' then 0 else a) s g fun s at' =>
      match sendReady s g at'.sp with
      | none => .wait s g
      | some (s, g) =>
        if !at'.sp && writesLost g then .done s (setM0 try' g 0) .none
        else atHome at' (fun _ => true) s g fun b =>
          match elemStops g b scal d (if try' then 0 else a) with
          | some st => .stop st
          | none =>
            let k := if try' then (if b.resv = b.tail then min a (min at'.allow b.space) else 0) else a
            if !try' && (decide (b.space < a) || b.resv != b.tail) then park s g at'.route at'.pa b.block
            else
              let ls := ls.take k
              let m := listMask ls
              if k ≠ 0 ∧ pushHasPois g scal d b.esz m then .stop (if scal then stopAll g .poison 0 else poisonStop (pushPois g scal d b.esz m))
              else
                match slotsFrom s g at' b needW b.tail k with
                | .error st => .stop st
                | .ok places =>
                  if k = 0 then .done s (setM0 try' g 0) .none
                  else
                    let s := (ls.zip places).foldl (fun s x =>
                      slotWrite s g.part x.2.1 x.2.2 (pushBytes g scal d b.esz x.1)) s
                    .done (qWrite (touchSlots s g.part at'.route at'.pa b b.tail k) g.part at'.route at'.pa (b.pushed k)) (setM0 try' g m) .none

/-- A pop into the active lanes, or into the group's scalars, after the group's own stores to the slots (R316); in place, with no pending tag on
its registers (R160). -/
def popGo (i : Instr) (scal try' : Bool) (d : Nat) (q : BitVec 6) (act : LMask) (s : State) (g : Group) : Out :=
  let _ := i
  let ls : List Lane := if scal then [0] else lanesOf act
  let a := ls.length
  if a = 0 then .done s (setM0 try' g 0) .none
  else
    withQueue q (fun _ pop => pop) 0 s g fun s at' =>
      match orderBefore s g [] with
      | none => .wait s g
      | some (s, g) =>
        atHome at' (fun b => !b.task) s g fun b =>
          match elemStops g b scal d (if try' then 0 else a) with
          | some st => .stop st
          | none =>
            let k := if try' then min a b.count else a
            if b.count < k then park s g at'.route at'.pa b.block
            else
              let ls := ls.take k
              match slotsFrom s g at' b needR b.head k with
              | .error st => .stop st
              | .ok places =>
                match orderBefore s g (places.map fun x => (x.1, x.2, b.esz)) with
                | none => .wait s g
                | some (s', h) =>
                  if h.stbuf.length < g.stbuf.length then .wait s' h
                  else if !scal && inPlaceBusy g ((List.range (b.esz / 4)).map fun n => BitVec.ofNat 7 (d + n)) then .wait s g
                  else
                    let g' := popInto s scal d b.esz g (ls.zip places)
                    let s := if k = 0 then s else
                      qWrite (touchSlots s g.part at'.route at'.pa b b.head k) g.part at'.route at'.pa (b.popped k)
                    .done s (setM0 try' g' (listMask ls)) .none

def execQpush (h : Hdr) (d : VReg) (q : BitVec 6) (sel : BitVec 3) (s : State) : Host.Outcome State Fault Refusal :=
  let i := Instr.qpush h d q sel
  issue i (fun s g => pushGo i false false d.toNat q (active g.regs sel) s g) s
def execQtrypush (h : Hdr) (d : VReg) (q : BitVec 6) (sel : BitVec 3) (s : State) : Host.Outcome State Fault Refusal :=
  let i := Instr.qtrypush h d q sel
  issue i (fun s g => pushGo i false true d.toNat q (active g.regs sel) s g) s
def execQpop (h : Hdr) (d : VReg) (q : BitVec 6) (sel : BitVec 3) (s : State) : Host.Outcome State Fault Refusal :=
  let i := Instr.qpop h d q sel
  issue i (fun s g => popGo i false false d.toNat q (active g.regs sel) s g) s
def execQtrypop (h : Hdr) (d : VReg) (q : BitVec 6) (sel : BitVec 3) (s : State) : Host.Outcome State Fault Refusal :=
  let i := Instr.qtrypop h d q sel
  issue i (fun s g => popGo i false true d.toNat q (active g.regs sel) s g) s
def execSqpush (h : Hdr) (d q : BitVec 6) (s : State) : Host.Outcome State Fault Refusal :=
  let i := Instr.sqpush h d q
  issue i (fun s g => pushGo i true false d.toNat q 0 s g) s
def execSqpop (h : Hdr) (d q : BitVec 6) (s : State) : Host.Outcome State Fault Refusal :=
  let i := Instr.sqpop h d q
  issue i (fun s g => popGo i true false d.toNat q 0 s g) s

-- QSTAT (R354)

/-- The block is corrupt and not yet marked so under a valid CRC. -/
def qUnmarked (s : State) (r : Route) (pa : Nat) : Bool :=
  let bs := qRead s r pa
  qBad s r pa && !((qBlkOf bs).pois && qCrcOk bs)

/-- The word QSTAT writes. -/
def qStatus (b : QBlk) : W64 := BitVec.ofNat 64 (bitN b.pois 63 + bitN b.task 62 + b.free * 2 ^ 32 + b.count)

def qstatGo (d : Option SDst) (q : BitVec 6) (s : State) (g : Group) : Out :=
  withQueue q (fun push pop => push || pop) 0 s g fun s at' =>
    match orderBefore s g [] with
    | none => .wait s g
    | some (s, g) =>
      let s := if qUnmarked s at'.route at'.pa then qSpoil s g.part at'.route at'.pa else s
      let b := qBlkOf (qRead s at'.route at'.pa)
      if b.owner ≠ g.part % 32 then stopWith s g (stopAll g .capability at'.va)
      else
        let v := qStatus b
        let (s, g) := writeS s g d v
        .done s g (.scalar v false)

def execQstat (h : Hdr) (d : Option SDst) (q : BitVec 6) (s : State) : Host.Outcome State Fault Refusal :=
  issue (.qstat h d q) (qstatGo d q) s

-- QINIT (R355)

/-- The block QINIT writes from B and C. -/
def qFresh (b c : W64) (owner : Nat) : QBlk :=
  let x := b.toNat
  { eszlog := bits x 39 35, caplog := bits x 34 30, scope := bits x 29 27, block := x.testBit 26, multi := x.testBit 25,
    pois := x.testBit 24, task := x.testBit 23, owner := owner % 32, tail := 0, head := 0, resv := 0, free := 2 ^ bits x 34 30,
    slots := bits c.toNat 54 0 }

/-- The ILL checks of R355. -/
def qinitIll (s : State) (g : Group) (a b c : W64) : Bool :=
  let sp := isAlias a
  let q := qFresh b c 0
  bits b.toNat 63 40 != 0 || bits b.toNat 22 0 != 0 || q.pois || qShapeBad q sp || c.toNat % 64 != 0 ||
  isAlias c != sp || (sp && (a.getLsbD 28 || c.getLsbD 28)) ||
  (!sp && bits c.toNat 63 55 != 0) ||
  (sp && (scratchTeam s g (aliasAddr c) (q.cap * q.esz)).isNone)

/-- Log 49 (DEDUCED). -/
def qinitGo (i : Instr) (a b c : UOp) (s : State) (g : Group) : Out :=
  let x := srcOf s g
  if poisonU x (iUs i) then .stop (stopAll g .poison 0)
  else
    let va := (rdU x a).1
    let pb := (rdU x b).1
    let pc := (rdU x c).1
    if qinitIll s g va pb pc then .stop (stopAll g .ill 0)
    else if va.toNat % 64 ≠ 0 then .stop (stopAll g .align va)
    else
      let sp := isAlias va
      let res := if sp then checkScratch s g (aliasAddr va) 64
        else match xlat s g va.toNat needW with
          | .ok r pa =>
            (match routeTier r with
              | some .hbm | some .vault => if isHw r then .ok r pa else .fault .coherence
              | _ => .fault .perm)
          | y => y
      match judge s g [⟨0, va, res⟩] needW true with
      | some o => o
      | none =>
        match res.place with
        | none => .wait s g
        | some (r, pa) =>
          match orderBefore s g [(r, pa, 64)] with
          | none => .wait s g
          | some (s, g) =>
            let blk := qFresh pb pc g.part
            let s := homePutBytes s g.part r pa (qBytes blk)
            let s := homeSetPois (homeSetPois s r (pa / 32) false) r (pa / 32 + 1) false
            let s := wakeAll s g.part r pa
            let s := s.modPart g.part fun p =>
              { p with tasks :=
                  if p.tasks.any fun t => samePt (t.route, t.addr) (r, pa) then
                    p.tasks.map fun t => if samePt (t.route, t.addr) (r, pa) then { t with ents := [], waiters := [] } else t
                  else if blk.task then p.tasks ++ [⟨r, pa, 0, [], []⟩]
                  else p.tasks }
            let s := if sp then s.modCore g.core fun c =>
                { c with
                  ocache := []
                  copies := c.copies.map fun o => if sameRing g.tid pa o then { o with ring := none } else o }
              else s
            .done s g .none

def execQinit (h : Hdr) (a b c : UOp) (s : State) : Host.Outcome State Fault Refusal :=
  let i := Instr.qinit h a b c
  issue i (qinitGo i a b c) s

-- task queues (R128, R362 to R364)

def taskTab? (s : State) (part : Nat) (r : Route) (pa : Nat) : Option TaskTab :=
  (s.part? part).bind fun p => p.tasks.find? fun t => samePt (t.route, t.addr) (r, pa)

/-- Changes the in-flight table of a task queue, which begins empty. -/
def modTask (s : State) (part : Nat) (r : Route) (pa : Nat) (f : TaskTab → TaskTab) : State :=
  s.modPart part fun p =>
    if p.tasks.any fun t => samePt (t.route, t.addr) (r, pa) then
      { p with tasks := p.tasks.map fun t => if samePt (t.route, t.addr) (r, pa) then f t else t }
    else { p with tasks := p.tasks ++ [f ⟨r, pa, 0, [], []⟩] }

/-- A range of a task entry in 256-byte granules, first and end (R127). -/
def taskRange (x : W64) : Nat × Nat :=
  let b := bits x.toNat 63 16 / 256
  (b, min (b + bits x.toNat 15 0) (2 ^ 40))
def rangesMeet (a b : Nat × Nat) : Bool := decide (max a.1 b.1 < min a.2 b.2)

/-- The dwords of a task entry that a group receives. -/
def TaskEnt.dword (e : TaskEnt) (n : Nat) : W64 := e.dws[n]?.getD 0
def TaskEnt.nodep (e : TaskEnt) : Bool := (e.dword 1).getLsbD 48
/-- The rule of R118 between a younger entry and an older one (R128). -/
def taskConflict (young old : TaskEnt) : Bool :=
  !young.nodep && !old.nodep &&
  (let yr := taskRange (young.dword 2)
   let yw := taskRange (young.dword 3)
   let or' := taskRange (old.dword 2)
   let ow := taskRange (old.dword 3)
   rangesMeet yr ow || rangesMeet yw or' || rangesMeet yw ow)

/-- The oldest entry of the table that is not given and conflicts with no older one. -/
def readyTask : List TaskEnt → List TaskEnt → Option TaskEnt
  | _, [] => none
  | older, e :: t => if e.given.isNone && !(older.any (taskConflict e)) then some e else readyTask (older ++ [e]) t

/-- Ready entries go to the waiting groups, oldest to longest (R128). -/
def giveTasks (s : State) (part : Nat) (r : Route) (pa : Nat) : Nat → State
  | 0 => s
  | n + 1 =>
    match taskTab? s part r pa with
    | none => s
    | some t =>
      match t.waiters, readyTask [] t.ents with
      | w :: ws, some e =>
        let s := modTask s part r pa fun t =>
          { t with waiters := ws, ents := t.ents.map fun x => if x.num = e.num then { x with given := some w } else x }
        let s := s.modPart part fun p => { p with waiters := p.waiters.filter fun x => x.2.2 != w }
        giveTasks { s with notes := s.notes ++ notesTo s part r pa [w] } part r pa n
      | _, _ => s

/-- The slot the home itself reads next: under every key slot of the partition (R348). Log 51 (DEDUCED). -/
def homeSlot (s : State) (part : Nat) (r : Route) (pa : Nat) (b : QBlk) : XRes :=
  (slotAt s part ((s.launches.find? (·.part == part)).map fun l => { l with keymask := s.slots.map fun k => (k.1, k.2.load) }) r pa b needR b.head).2

/-- The home would move an element into the table, and its slot fails its checks. -/
def slotFails (s : State) (part : Nat) (t : TaskTab) (b : QBlk) : Bool :=
  decide (0 < b.count ∧ t.ents.length < 256) &&
    (match homeSlot s part t.route t.addr b with
      | .ok _ _ => false
      | _ => true)

/-- Entries move from the queue into the table while it has room (R128). Log 51 (DEDUCED). -/
def moveTasks (s : State) (part : Nat) (r : Route) (pa : Nat) : Nat → State
  | 0 => s
  | n + 1 =>
    match taskTab? s part r pa with
    | none => s
    | some t =>
      if 256 ≤ t.ents.length then s
      else if qBad s r pa then qSpoil s part r pa
      else
        let b := qBlkOf (qRead s r pa)
        if b.count = 0 ∨ b.task = false then s
        else
          match homeSlot s part r pa b with
          | .ok sr spa =>
            let bs := homeBytes s sr spa 32
            let e : TaskEnt := ⟨t.next, (List.range 4).map fun k => BitVec.ofNat 64 (dw bs k), slotPois s sr spa 32, none⟩
            let s := modTask s part r pa fun t => { t with next := t.next + 1, ents := t.ents ++ [e] }
            moveTasks (qWrite (touchSlots s part r pa b b.head 1) part r pa (b.popped 1)) part r pa n
          | _ => s

/-- The waiters of a queue whose next slot fails execute again, and stop there (R348, R444). -/
def wakeFailed (s : State) (part : Nat) (r : Route) (pa : Nat) : State :=
  match taskTab? s part r pa with
  | some t => if slotFails s part t (qBlkOf (qRead s r pa)) && !t.waiters.isEmpty then wakeAll s part r pa else s
  | none => s

/-- TASK_DISPATCH on a queue. -/
def taskDispatch (s : State) (part : Nat) (r : Route) (pa : Nat) : State :=
  match s.part? part with
  | none => s
  | some _ =>
    if qUnmarked s r pa then giveTasks (qSpoil s part r pa) part r pa 256
    else if qBad s r pa then giveTasks s part r pa 256
    else wakeFailed (giveTasks (moveTasks s part r pa 256) part r pa 256) part r pa

/-- TASK_DISPATCH has something to do: elements that can enter the table, a corrupt block to mark, an entry for a waiting group. -/
def dispatches (s : State) (part : Nat) (t : TaskTab) : Bool :=
  let b := qBlkOf (qRead s t.route t.addr)
  qUnmarked s t.route t.addr ||
  (!qBad s t.route t.addr && b.task && decide (0 < b.count ∧ t.ents.length < 256) && (!t.waiters.isEmpty || !slotFails s part t b)) ||
  (!t.waiters.isEmpty && (readyTask [] t.ents).isSome)

/-- The entry of a table that has been given to a group. -/
def givenTask (s : State) (part gid : Nat) (r : Route) (pa : Nat) : Option TaskEnt :=
  (taskTab? s part r pa).bind fun t => t.ents.find? fun e => e.given == some gid

/-- The delivery of R362: dw0 to dw3 into s1 to s4. -/
def takeTask (g : Group) (r : Route) (pa : Nat) (e : TaskEnt) : Group :=
  let g := (List.range 4).foldl (fun g k =>
    let n := BitVec.ofNat 6 (k + 1)
    { g with regs := g.regs.setS n (e.dword k) e.pois, tags := renameS g.tags n }) g
  { g with task := some (r, pa, e.num) }

/-- The home of the parked TASKWAIT a delivery has been chosen for. -/
def chosenTask (s : State) (g : Group) : Option (Route × Nat × TaskEnt) :=
  match g.wait with
  | .parked r pa _ => (givenTask s g.part g.gid r pa).map fun e => (r, pa, e)
  | _ => none

/-- TASKWAIT on a queue whose home keeps no waiter set (R357): each execution takes a ready entry or parks. Log 50 (DEDUCED). -/
def pollTask (q : QAt) (s : State) (g : Group) : Out :=
  let s := moveTasks s g.part q.route q.pa 256
  match (taskTab? s g.part q.route q.pa).bind fun t => readyTask [] t.ents with
  | some e =>
    .done (modTask s g.part q.route q.pa fun t =>
      { t with ents := t.ents.map fun x => if x.num = e.num then { x with given := some g.gid } else x }) (takeTask g q.route q.pa e) .none
  | none => park s g q.route q.pa false

/-- Log 50 (DEDUCED). -/
def taskwaitGo (q : BitVec 6) (s : State) (g : Group) : Out :=
  if g.task.isSome then .stop (stopAll g .ill 0)
  else
    match chosenTask s g with
    | some (r, pa, e) => .done s (takeTask g r pa e) .none
    | none =>
      withQueue q (fun _ pop => pop) 0 s g fun s at' =>
        match orderBefore s g [] with
        | none => .wait s g
        | some (s, g) =>
          atHome at' (·.task) s g fun b =>
            let t := (taskTab? s g.part at'.route at'.pa).getD ⟨at'.route, at'.pa, 0, [], []⟩
            let reads := decide (0 < b.count ∧ t.ents.length < 256) && (readyTask [] t.ents).isNone
            match slotsFrom s g at' b needR b.head (if reads then 1 else 0) with
            | .error st => .stop st
            | .ok _ =>
            if b.block then
              let s := modTask s g.part at'.route at'.pa fun t =>
                { t with waiters := if t.waiters.contains g.gid then t.waiters else t.waiters ++ [g.gid] }
              park s g at'.route at'.pa true
            else pollTask at' s g

def execTaskwait (h : Hdr) (q : BitVec 6) (s : State) : Host.Outcome State Fault Refusal :=
  issue (.taskwait h q) (taskwaitGo q) s

/-- The home retires a held entry and what it held may be given (R128, R363). -/
def retireTask (s : State) (part : Nat) (t : Route × Nat × Nat) : State :=
  modTask s part t.1 t.2.1 fun x => { x with ents := x.ents.filter (·.num != t.2.2) }

/-- Log 50 (DEDUCED). -/
def taskdoneGo (q : BitVec 6) (s : State) (g : Group) : Out :=
  match g.task with
  | none => .stop (stopAll g .ill 0)
  | some t =>
    withQueue q (fun _ pop => pop) 0 s g fun s at' =>
      if !samePt (t.1, t.2.1) (at'.route, at'.pa) then .stop (stopAll g .ill 0)
      else
        match sendReady s g at'.sp with
        | none => .wait s g
        | some (s, g) =>
          if !at'.sp && writesLost g then .done s { g with task := none } .none
          else
          let fin := fun s => Out.done (retireTask s g.part t) { g with task := none } .none
          if qBad s at'.route at'.pa then fin (qSpoil s g.part at'.route at'.pa)
          else atHome at' (·.task) s g fun _ => fin s

def execTaskdone (h : Hdr) (q : BitVec 6) (s : State) : Host.Outcome State Fault Refusal :=
  issue (.taskdone h q) (taskdoneGo q) s

end Sys2Proof.Machine
end

