-- ==== Sys2Proof/Machine/Tx.lean ====
section
/-! DEFINITION. Transactions and ordered speculation (R365 to R388): begin, commit, abort and status instructions, the wait between
attempts, the serial token, domains and their turns. -/

namespace Sys2Proof.Machine

open Sys2Proof

/-- The start stamp of now (R372). -/
def startStamp (s : State) : Nat := s.ns * 8 + 7

/-- The group's part of a state after something has been done to it there. Log 34 (DEDUCED). -/
def haltAt (s : State) (g : Group) : Out := .halt s ((s.group? g.gid).getD g)

-- begins (R381, R386)

/-- The first begin of a region. -/
def openRegion (g : Group) (spec ts : Bool) (lanes : LMask) : Group :=
  { g with
    region := { Region.reset with
      spec := spec, ts := ts, rpc := g.pc, rdepth := g.wmDepth, rfmask := g.regs.exm, rlanes := lanes }
    regs := { g.regs with exm := lanes } }

/-- STATE becomes OPEN or IRREV; an OPEN attempt starts with clear logs and its start stamps. -/
def beginAttempt (s : State) (g : Group) : Group :=
  let r := g.region
  if r.alone.isSome then { g with region := { r with state := .irrev, rlog := [], wlog := [], alive := g.regs.exm, gone := 0, turns := none } }
  else
    { g with region := { r with
      state := .open, rlog := [], wlog := [], alive := g.regs.exm, gone := 0
      start := Vector.ofFn fun l => if g.regs.exm.getLsbD l.val then startStamp s else r.start[l.val] } }

/-- A begin instruction outside an OPEN attempt; `first` opens the region. Log 59 (DEDUCED). -/
def beginThen (s : State) (g : Group) (first : State → Group → Out) : Out :=
  match performAll s g false with
  | none => .wait s g
  | some (s, g) =>
    match g.region.state with
    | .none => first s g
    | .wait => if g.pc = g.region.rpc then .done s (beginAttempt s g) .none else .stop (stopAll g .ill 0)
    | _ => .stop (stopAll g .ill 0)

def execTxbeg (h : Hdr) (sel : BitVec 3) (ts : Bool) (s : State) : Host.Outcome State Fault Refusal :=
  issue (.txbeg h sel ts) (fun s g =>
    beginThen s g fun s g => .done s (beginAttempt s (openRegion g false ts (active g.regs sel))) .none) s

-- speculation domains (R385)

def domNext (s : State) (d : Route × Nat) : Nat := homeNat s d.1 (d.2 + 8) 4
/-- NEXT changes: waiters of the domain are notified. -/
def setDomNext (s : State) (part : Nat) (d : Route × Nat) (v : Nat) : State :=
  notifyObj (homePut s part d.1 (d.2 + 8) 4 (v % 2 ^ 32)) part d.1 d.2
/-- Orders count from NEXT: how far ahead a number lies. -/
def orderDist (next : Nat) (o : W32) : Nat := sub32 o.toNat next
def passed (next : Nat) (o : W32) : Bool := decide (2 ^ 31 ≤ orderDist next o)

/-- The block of a domain is not as R385 lays it out. -/
def domBad (bs : List Byte) : Bool :=
  bits (dw bs 0) 63 48 != 0x5344 || bits (dw bs 0) 47 40 != 1 || bits (dw bs 0) 39 0 != 0 || bits (dw bs 1) 63 32 != 0 ||
  (dw bs 3 != 0 || dw bs 4 != 0 || dw bs 5 != 0 || dw bs 6 != 0 || dw bs 7 != 0)

/-- The checks of a domain's address. -/
def domElem (s : State) (g : Group) (va : W64) : Elem :=
  ⟨0, va,
    if va.toNat % 64 ≠ 0 then .fault .align
    else
      match xlat s g va.toNat needRW with
      | .ok r pa =>
        (match routeTier r with
          | some .hbm | some .vault => if isHw r then .ok r pa else .fault .coherence
          | _ => .fault .perm)
      | x => x⟩

/-- The lanes whose order number has passed leave with STALE. -/
def leaveStale (g : Group) (next : Nat) (m : LMask) : Group :=
  abortLanes g.sr.clk2 .stale g (maskOf fun l => m.getLsbD l.val && passed next (g.region.order[l.val]))

/-- The first SPECBEG of a region. -/
def specFirst (i : Instr) (a : UOp) (b : OOp) (sel : BitVec 3) (s : State) (g : Group) : Out :=
  let x := srcOf s g
  let lanes := active g.regs sel
  let p := poisonLanes x (iOs i) lanes
  if poisonU x (iUs i) then .stop (stopAll g .poison 0)
  else if p ≠ 0 then .stop (poisonStop p)
  else
    let va := (rdU x a).1
    let e := domElem s g va
    match judge s g [e] needRW true with
    | some o => o
    | none =>
      match e.res.place with
      | none => .wait s g
      | some d =>
        if domBad (homeBytes s d.1 d.2 64) then .stop (stopAll g .ill 0)
        else
          let g := openRegion g true false lanes
          let g := { g with region := { g.region with
            domain := va, domRoute := some d
            order := Vector.ofFn fun l => if lanes.getLsbD l.val then (rd32 x b l).1 else 0 } }
          let g := leaveStale g (domNext s d) lanes
          .done s (beginAttempt s g) .none

/-- Log 59 (DEDUCED). -/
def execSpecbeg (h : Hdr) (a : UOp) (b : OOp) (sel : BitVec 3) (s : State) : Host.Outcome State Fault Refusal :=
  let i := Instr.specbeg h a b sel
  issue i (fun s g => beginThen s g (specFirst i a b sel)) s

-- commit (R373, R374)

/-- The tags allocated inside the attempt. Log 62 (DEDUCED). -/
def attTags (g : Group) : List Nat := allTags.filter fun n => ((g.tags[n]?.join).map (·.att)).getD false

/-- The sectors a lane has read and written, by number, whatever the mapping. -/
def rSectors (r : Region) (l : Nat) : List Nat := (r.rlog.filter (·.lane == l)).map (·.sector)
def wSectors (r : Region) (l : Nat) : List Nat := ((r.wlog.filter (·.lane == l)).map fun x => x.wr.addr / 32).eraseDups
def meets (a b : List Nat) : Bool := a.any b.contains

/-- Another commit holds one of the lines locked. -/
def lockedBy (s : State) (g : Group) (lines : List Nat) : Bool :=
  ((s.part? g.part).map fun p => p.txLocks.any fun k => k.1 != g.gid && lines.any k.2.contains).getD false

/-- A commit locks the lines it writes; it writes none before every one is locked, and what is written is seen from then on (R374, R375). Log
101 (DESIGN CHOICE). -/
def lockLines (s : State) (g : Group) (lines : List Nat) : State :=
  if lines.isEmpty then s else s.modPart g.part fun p => { p with txLocks := p.txLocks ++ [(g.gid, lines)] }

/-- The oldest commit's lines are unlocked. -/
def unlockLines (s : State) (part : Nat) : State := s.modPart part fun p => { p with txLocks := p.txLocks.tail }

/-- The conflict unit: the lanes kept, in ascending order. -/
def keepLanes (r : Region) (kept : List Nat) : List Nat → List Nat
  | [] => kept
  | l :: ls =>
    if kept.any fun m => meets (wSectors r l) (rSectors r m) || meets (wSectors r l) (wSectors r m) || meets (rSectors r l) (wSectors r m)
    then keepLanes r kept ls
    else keepLanes r (kept ++ [l]) ls

/-- A line the lane has read is locked by another commit: it fails its validation in either mode (R374, R443). -/
def readsLocked (s : State) (g : Group) (l : Nat) : Bool := lockedBy s g (logLines g.region.rlog l)

/-- Validation of a lane: the bytes and poison it read, or under .TS the versions of the lines it read. -/
def validLane (s : State) (part : Nat) (r : Region) (l : Nat) : Bool :=
  (r.rlog.filter (·.lane == l)).all fun x =>
    if r.ts then decide (lineVersion s part x.route (x.sector / 4) ≤ r.start[l]?.getD 0)
    else
      ((List.range 32).map fun i => homeRead s x.route (x.sector * 32 + i)) == x.data && homePois s x.route x.sector == x.pois

/-- Applies a lane's logged writes with the stamp of their commit, line by line, each with the hint of the store that named it first (R57). -/
def applyLane (stamp : Nat) (s : State) (g : Group) (l : Nat) : State :=
  (wlogLines g.region.wlog l).foldl (fun s n =>
    let ws := g.region.wlog.filter fun w => w.lane == l && w.wr.addr / 128 == n
    applyWrites s g.core g.part ((ws.head?.map (·.nt)).getD false) (some stamp) (ws.map (·.wr))
      (((ws.filter (·.pois)).map fun x => (x.wr.route, x.wr.addr / 32)).eraseDups)) s

/-- A lane has committed. -/
def laneDone (g : Group) (l : Nat) : Group :=
  { g with region := { g.region with
    done := g.region.done ||| laneBit l, aborts := g.region.aborts.setIfInBounds l 0, irr := g.region.irr &&& ~~~laneBit l } }

def laneNums (m : LMask) : List Nat := (lanesOf m).map (·.val)

/-- The lines that the lanes of a commit write. -/
def commitLines (g : Group) (ls : List Nat) : List Nat := (ls.flatMap (wlogLines g.region.wlog)).eraseDups

/-- The committing lanes that survive the conflict unit. -/
def survivors (g : Group) (sel : LMask) : List Nat := keepLanes g.region [] (laneNums (g.region.liveLanes &&& sel))

/-- TX_COMMIT of an attempt whose committing lanes are `sel`, once no line it writes is locked by another commit. Log 101 (DESIGN CHOICE). -/
def commit (s : State) (g : Group) (sel : LMask) : State × Group :=
  let live := g.region.liveLanes
  let kept := survivors g sel
  let g := abortLanes g.sr.clk2 .retry g (live &&& ~~~sel)
  let all := laneNums (live &&& sel)
  let ok := kept.filter fun l => validLane s g.part g.region l && !readsLocked s g l
  let s' := ok.foldl (fun s' l => applyLane (writeStamp s (dieOf g.core)) s' g l) (lockLines s g (commitLines g kept))
  let g := (all.filter fun l => !kept.contains l).foldl (abortLane g.sr.clk2 .group) g
  let g := (kept.filter fun l => !ok.contains l).foldl (abortLane g.sr.clk2 .validate) g
  (s', ok.foldl laneDone g)

/-- The group returns the partition's serial token (R380). -/
def returnToken (s : State) (g : Group) : State :=
  s.modPart g.part fun p =>
    { p with
      serialHolder := if p.serialHolder = some g.gid then none else p.serialHolder
      serialQueue := p.serialQueue.filter (· != g.gid) }

/-- An end instruction in an IRREV attempt: `last` does what the kind of region adds. -/
def endIrrev (s : State) (g : Group) (last : State → Group → State) : Out :=
  match performAll s g false with
  | none => .wait s g
  | some (s, g) =>
    let s := last s g
    let s := returnToken s g
    let g := match g.region.alone with
      | some l => laneDone g l
      | none => g
    let (s, g) := endAttempt s (countRetired g) (nextWord g)
    .halt s g

/-- TXEND: a commit is a release at device scope (R376). Log 61 (DEDUCED), 62 (DEDUCED). -/
def txendGo (i : Instr) (sel : BitVec 3) (s : State) (g : Group) : Out :=
  let wrong := g.region.spec || g.wmDepth != g.region.rdepth
  match g.region.state with
  | .open =>
    if wrong then haltAt (instrAbort s g i) g
    else
      match waitTags g (attTags g) with
      | none => .wait s g
      | some g =>
        match performAll s g false with
        | none => .wait s g
        | some (s, g) =>
          if lockedBy s g (commitLines g (survivors g (active g.regs sel))) then .wait s g
          else
            let (s, g) := commit s g (active g.regs sel)
            let (s, g) := endAttempt s (countRetired g) (nextWord g)
            .halt s g
  | .irrev => if wrong then .stop (stopAll g .ill 0) else endIrrev s g fun s _ => s
  | _ => .stop (stopAll g .ill 0)

def execTxend (h : Hdr) (sel : BitVec 3) (s : State) : Host.Outcome State Fault Refusal :=
  let i := Instr.txend h sel
  issue i (txendGo i sel) s

/-- TXABT (R383). -/
def execTxabt (h : Hdr) (sel : BitVec 3) (s : State) : Host.Outcome State Fault Refusal :=
  issue (.txabt h sel) (fun s g =>
    match g.region.state with
    | .open =>
      let b := active g.regs sel
      let g := abortLanes g.sr.clk2 .explicit g b
      let g := if g.region.spec then { g with region := { g.region with gone := g.region.gone ||| b } } else g
      .goto s g (nextWord g)
    | _ => .stop (stopAll g .ill 0)) s

/-- The status word of a lane (R384). -/
def txWord (g : Group) (l : Lane) : W32 :=
  let r := g.region
  let b := fun (x : LMask) (k : Nat) => bitN (x.getLsbD l.val) k
  let live : LMask := match r.state with
    | .open => r.liveLanes
    | .irrev => (r.alone.map laneBit).getD 0
    | _ => 0
  let irr := r.irr ||| (if r.state = .irrev then live else 0)
  if r.state = .none then (g.sr.txstatus[l.val]) &&& 0xFF
  else
    BitVec.ofNat 32 ((if r.spec then b r.rlanes 17 else 0) + b irr 16 + b r.pend 15 + b live 14 + b r.done 13
      + 256 * (r.aborts[l.val]) + (g.sr.txstatus[l.val]).toNat % 256)

def execTxstat (h : Hdr) (d : Option VReg) (sel : BitVec 3) (s : State) : Host.Outcome State Fault Refusal :=
  issue (.txstat h d sel) (fun s g =>
    let (g', w) := writeV32 g d (active g.regs sel) (txWord g)
    .done s g' w) s

-- SPECEND (R386)

/-- The lane whose turn comes first among a mask, with its distance from NEXT. -/
def firstOrder (g : Group) (next : Nat) (m : LMask) : Option Nat :=
  (laneNums m).foldl (fun b l =>
    match b with
    | none => some l
    | some k => if orderDist next (g.region.order[l]?.getD 0) < orderDist next (g.region.order[k]?.getD 0) then some l else some k) none

def setGone (g : Group) (x : LMask) : Group := { g with region := { g.region with gone := x } }

/-- Lanes in ascending order of their distance from NEXT (R386). -/
def byOrder (g : Group) (next : Nat) : List Nat → List Nat
  | [] => []
  | l :: ls => place l (byOrder g next ls)
where
  dist (l : Nat) : Nat := orderDist next (g.region.order[l]?.getD 0)
  place (l : Nat) : List Nat → List Nat
    | [] => [l]
    | k :: ks => if dist k < dist l then k :: place l ks else l :: k :: ks

/-- What SPECEND's loop comes to: every turn taken or a failed lane, a lane that must wait for its turn, or one that waits for a lock. -/
inductive Turns where
  | over (s : State) (g : Group)
  | park (s : State) (g : Group)
  | wait (s : State) (g : Group)

/-- FAILS of the domain counts a failing lane. -/
def countFail (s : State) (g : Group) (d : Route × Nat) : State :=
  homePut s g.part d.1 (d.2 + 16) 8 ((homeNat s d.1 (d.2 + 16) 8 + 1) % 2 ^ 64)

/-- A lane fails its validation at its turn: every later live lane aborts with it. Log 60 (DEDUCED). -/
def failTurn (s : State) (g : Group) (d : Route × Nat) (l : Nat) : State × Group :=
  let s := countFail s g d
  let later := g.region.liveLanes &&& ~~~laneBit l
  let g := abortLane g.sr.clk2 .order g l
  let g := abortLanes g.sr.clk2 .orderLater g later
  (handOrders s g g.region.gone, setGone g 0)

/-- The turns of an attempt's lanes, taken in the order found when SPECEND began. Log 60 (DEDUCED). -/
def takeTurns (d : Route × Nat) (s : State) (g : Group) : List Nat → Turns
  | [] => .over s g
  | l :: ls =>
    let next := domNext s d
    let o := g.region.order[l]?.getD 0
    let gone := g.region.gone.getLsbD l
    if passed next o then
      let g := abortLane g.sr.clk2 .stale g l
      takeTurns d s (setGone g (g.region.gone &&& ~~~laneBit l)) ls
    else if orderDist next o ≠ 0 then .park s { g with region := { g.region with turns := some (l :: ls) } }
    else if gone then
      takeTurns d (setDomNext s g.part d (next + 1)) (setGone g (g.region.gone &&& ~~~laneBit l)) ls
    else if lockedBy s g (commitLines g [l]) then .wait s { g with region := { g.region with turns := some (l :: ls) } }
    else if validLane s g.part g.region l && !readsLocked s g l then
      takeTurns d (setDomNext (applyLane (writeStamp s (dieOf g.core)) (lockLines s g (commitLines g [l])) g l) g.part d (next + 1)) (laneDone g l) ls
    else
      let (s, g) := failTurn s g d l
      .over s g

/-- The lanes whose turns SPECEND has to take. -/
def turnsLeft (s : State) (g : Group) (d : Route × Nat) : List Nat :=
  g.region.turns.getD (byOrder g (domNext s d) (laneNums (g.region.liveLanes ||| g.region.gone)))

/-- Log 61 (DEDUCED). -/
def specendGo (i : Instr) (s : State) (g : Group) : Out :=
  let wrong := !g.region.spec || g.wmDepth != g.region.rdepth
  match g.region.state, g.region.domRoute with
  | .open, some d =>
    if wrong then haltAt (instrAbort s g i) g
    else
      match waitTags g (attTags g) with
      | none => .wait s g
      | some g =>
        match performAll s g false with
        | none => .wait s g
        | some (s, g) =>
          match takeTurns d s g (turnsLeft s g d) with
          | .park s g => park s g d.1 d.2 true
          | .wait s g => .wait s g
          | .over s g =>
            let (s, g) := endAttempt s (countRetired g) (nextWord g)
            .halt s g
  | .open, none => haltAt (instrAbort s g i) g
  | .irrev, some d =>
    if wrong then .stop (stopAll g .ill 0)
    else
      endIrrev s g fun s g =>
        match g.region.alone with
        | some l => setDomNext s g.part d ((g.region.order[l]?.getD 0).toNat + 1)
        | none => s
  | _, _ => .stop (stopAll g .ill 0)

def execSpecend (h : Hdr) (s : State) : Host.Outcome State Fault Refusal :=
  let i := Instr.specend h
  issue i (specendGo i) s

-- between attempts (R379, R380)

/-- The lanes of PEND that R379 chooses: one alone with true, or those whose time has come, with the time. -/
def chooseLanes (s : State) (g : Group) : Option Nat × Nat × LMask :=
  let r := g.region
  let ls := laneNums r.pend
  let alone := match r.spec, r.domRoute with
    | true, some d => (firstOrder g (domNext s d) r.pend).filter fun l => r.irr.getLsbD l
    | _, _ => ls.find? fun l => r.irr.getLsbD l
  let t := (ls.map fun l => r.due[l]?.getD 0).foldl (fun b x => match b with
    | none => some x
    | some y => some (min x y)) (none : Option Nat)
  let t := t.getD 0
  (alone, t, maskOf fun l => r.pend.getLsbD l.val && decide (r.due[l.val] ≤ t))

/-- The next attempt starts with the chosen lanes. -/
def startAttempt (g : Group) (m : LMask) : Group :=
  { g with
    regs := { g.regs with exm := m }
    region := { g.region with pend := g.region.pend &&& ~~~m }
    wait := .none }

/-- SPEC: NEXT has reached the lane chosen alone. -/
def turnCome (s : State) (g : Group) (l : Nat) : Bool :=
  match g.region.spec, g.region.domRoute with
  | true, some d => orderDist (domNext s d) (g.region.order[l]?.getD 0) == 0
  | _, _ => true

def holdsToken (s : State) (g : Group) : Bool := ((s.part? g.part).map fun p => p.serialHolder == some g.gid).getD false

/-- A group asks for the serial token once. -/
def askToken (s : State) (g : Group) : State :=
  s.modPart g.part fun p =>
    if p.serialHolder = some g.gid ∨ p.serialQueue.contains g.gid then p else { p with serialQueue := p.serialQueue ++ [g.gid] }

/-- TX_RETRY: the wait of R379. -/
def retryGo (s : State) (g : Group) : State :=
  if g.wait ≠ .retry then s
  else
    let (alone, t, m) := chooseLanes s g
    match g.region.alone.or alone with
    | some l =>
      let s := s.setGroup { g with region := { g.region with alone := some l } }
      if !turnCome s g l then s
      else if holdsToken s g then s.setGroup (startAttempt { g with region := { g.region with alone := some l } } (laneBit l))
      else askToken s g
    | none => if g.sr.clk2 < t then s else s.setGroup (startAttempt g m)

def execTxRetry (gid : Nat) (s : State) : Host.Outcome State Fault Refusal :=
  match s.group? gid with
  | some g => .next (retryGo s g)
  | none => .next s

def execSerialTokenGrant (part : Nat) (s : State) : Host.Outcome State Fault Refusal :=
  .next (s.modPart part fun p =>
    match p.serialHolder, p.serialQueue with
    | none, g :: t => { p with serialHolder := some g, serialQueue := t }
    | _, _ => p)

/-- The parked SPECEND's first lane has its turn, or its number has passed. -/
def turnReady (s : State) (g : Group) : Bool :=
  match g.region.domRoute with
  | some d =>
    let next := domNext s d
    (match turnsLeft s g d with
      | l :: _ => orderDist next (g.region.order[l]?.getD 0) == 0 || passed next (g.region.order[l]?.getD 0)
      | [] => true)
  | none => false

/-- The home has notified the group's parked instruction. -/
def notified (g : Group) : Bool :=
  match g.wait with
  | .parked _ _ b => b
  | _ => false

/-- SPEC_TURN: a parked SPECEND goes on, or parks again where it has been notified and its turn has not come (R356), while its core's clocks
run (R358). -/
def execSpecTurn (gid : Nat) (s : State) : Host.Outcome State Fault Refusal :=
  match s.group? gid with
  | none => .next s
  | some g =>
    match g.wait, headInstr g with
    | .parked _ _ _, some (.specend h) =>
      if (turnReady s g || notified g) && coreAwake s g.core then issue (.specend h) (specendGo (.specend h)) { s with cur := some gid } else .next s
    | _, _ => .next s

/-- ORDER_NUMBER_RETIRE: the home takes the turn of a number handed to it. Log 60 (DEDUCED). -/
def execOrderNumberRetire (part k : Nat) (s : State) : Host.Outcome State Fault Refusal :=
  match (s.part? part).bind fun p => p.orders[k]? with
  | none => .next s
  | some (r, a, o) =>
    let next := domNext s (r, a)
    let rest := s.modPart part fun p => { p with orders := p.orders.eraseIdx k }
    if passed next o then .next rest
    else if orderDist next o = 0 then .next (setDomNext rest part (r, a) (next + 1))
    else .next s

end Sys2Proof.Machine
end

