-- ==== Sys2Proof/Machine/Engine.lean ====
section
/-! DEFINITION. What the engines share (R261 to R267): batch streams, failures, range locks, their accesses to memory; BCLOSE and BWAIT;
the copy engine (R268 to R272) and the publication of ring elements. -/

namespace Sys2Proof.Machine

open Sys2Proof

-- batch streams (R261 to R265)

/-- An operation joins the open set. -/
def joinOp (g : Group) (x : Strm) (op : Nat) : Group :=
  let st := g.stream x
  g.setStream x { st with ops := st.ops ++ [(op, st.closed + 1)] }

/-- An operation's work is over, with its failure if it has one: it completes, wherever its group is, and its locks are released (R267), once
every remote write it has sent is acknowledged or refused (R265). -/
def opDone (s : State) (core gid : Nat) (x : Strm) (op : Nat) (fail : Option (BitVec 16 × W64)) : State :=
  settleOut (setOut s op fun o => { o with core := core, gid := gid, strm := x, fail := fail.or o.fail, ended := true })

def execBclose (h : Hdr) (d : Option SDst) (st : Strm) (s : State) : Host.Outcome State Fault Refusal :=
  issue (.bclose h d st) (fun s g =>
    let x := g.stream st
    let n := (x.closed + 1) % 2 ^ 64
    let v := BitVec.ofNat 64 n
    let g := g.setStream st { x with closed := n }
    let (s, g) := writeS s g d v
    .done s g (.scalar v false)) s

/-- Work of a stream's batches up to n that is not complete: operations, and for the gather stream updates not applied (R303). -/
def batchOpen (g : Group) (st : Strm) (n : Nat) : Bool :=
  (g.stream st).ops.any (fun o => decide (o.2 ≤ n)) || (decide (st = .gather) && g.merge.any fun m => decide (m.batch ≤ n))

def bwaitGo (i : Instr) (a : UOp) (st : Strm) (s : State) (g : Group) : Out :=
  let x := srcOf s g
  if poisonU x (iUs i) then .stop (stopAll g .poison 0)
  else
    let str := g.stream st
    let n := min (rdU x a).1.toNat str.closed
    if batchOpen g st n then .wait s g
    else
      match str.fails.filter fun f => decide (f.batch ≤ n) with
      | [] => .done s g .none
      | f :: fs =>
        let g := g.setStream st { str with fails := str.fails.filter fun f => decide (n < f.batch) }
        stopWith s g ⟨(f :: fs).foldl (fun c y => c ||| y.causes) 0, g.regs.exm, f.addr, false, none⟩

def execBwait (h : Hdr) (a : UOp) (st : Strm) (s : State) : Host.Outcome State Fault Refusal :=
  let i := Instr.bwait h a st
  issue i (bwaitGo i a st) s

-- range locks (R266)

/-- Registers locks of an operation, all at once. -/
def lockRoom (s : State) (core n : Nat) : Bool := decide ((s.core core).locks.length + n ≤ 32)
def takeLocks (s : State) (core op : Nat) (spans : List (Option Nat × Nat × Nat)) : State :=
  s.modCore core fun c => { c with locks := c.locks ++ spans.map fun x => ⟨x.1, x.2.1, x.2.2, op⟩ }

/-- The lowest and the highest byte of rows of `len` bytes at a stride. -/
def rowSpan (base : Int) (rows len : Nat) (stride : Int) : Int × Int :=
  let far := ((rows : Int) - 1) * stride
  (base + min 0 far, base + max 0 far + len - 1)

-- engine accesses (R264, R265)

/-- Whose operation an engine carries out, and the hint of its writes (R57). -/
structure ECtx where
  core : Nat
  part : Nat
  lid : Nat
  tid : Nat
  gid : Nat
  op : Nat
  nt : Bool
  deriving DecidableEq, Repr

def ectx (s : State) (core tid gid op : Nat) : ECtx :=
  match s.team? tid with
  | some t => ⟨core, t.part, t.lid, tid, gid, op, false⟩
  | none => ⟨core, 0, 0, tid, gid, op, false⟩

/-- The outcome of an engine's check of a global address. -/
inductive EAcc where
  | ok (r : Route) (a : Nat)
  | fault (c : Cause)
  | over
  deriving DecidableEq, Repr

def engXlat (s : State) (x : ECtx) (va : Nat) (need : Need) : EAcc :=
  match s.part? x.part, s.launch? x.lid with
  | some p, some l =>
    match translate s p l (lookup s p x.core 64 va) va need with
    | .ok r a => if notOwner s x.part x.core r a then .fault .coherence else .ok r a
    | .fault c => .fault c
    | .over => if priOff s x.part then .fault .page else .over
  | _, _ => .fault .page

/-- Log 69 (DESIGN CHOICE). -/
def engSector (s : State) (x : ECtx) (va : Nat) : State × ERead :=
  match engXlat s x va needR with
  | .fault c => (s, .fault c)
  | .over => (s, .over)
  | .ok r a =>
    if isRemote r then (s, (engGot s x.op r (a / 32)).getD (.away r (a / 32)))
    else
      let (s, bs, p) := readSector (recordOwner (touchPage s x.part x.core va) x.part x.core r a) x.core x.part r (a / 32) false
      (s, .data bs p)

/-- Asks another device for a sector, once (R398). Log 69 (DESIGN CHOICE). -/
def engRequest (s : State) (x : ECtx) (r : Route) (sec : Nat) : State :=
  askSector s (streamTo s x.part (dieOf x.core) (routeDev r) (sec * 32) 2) x.gid x.op sec

/-- An engine operation asks the host to service a page (R265). -/
def engPage (s : State) (part page : Nat) (need : Need) : State := s.modPart part fun p => addReq need p page

/-- One byte an engine writes: at a global address, or at an offset of a team's scratchpad; `p` where the value carries poison. -/
structure EByte where
  scratch : Option Nat
  addr : Nat
  mask : Byte
  val : Byte
  p : Bool
  deriving DecidableEq, Repr

/-- What a run of engine work has come to: the writes made so far (last first) with their poison and addresses, the remote sectors it still waits for, the page it
waits for, the page the host has refused it, the failure that ended it, and whether only writes of it are left to be sent. -/
structure ERun where
  s : State
  out : List (ByteWr × Bool × Nat)
  need : List (Route × Nat)
  page : Option (Nat × Bool)
  bad : Option Nat
  stop : Option (Cause × Nat)
  sending : Bool

/-- The run goes no further. -/
def ERun.held (e : ERun) : Bool := e.stop.isSome || e.page.isSome || e.sending

/-- An engine's read of one byte with its poison; zero where it must wait. -/
def erByte (x : ECtx) (scratch : Option Nat) (a : Nat) (e : ERun) : ERun × Byte × Bool :=
  if e.held then (e, 0, false)
  else
    match scratch with
    | some t => (e, homeRead e.s (.scratch t) a, homePois e.s (.scratch t) (a / 32))
    | none =>
      if e.bad = some (a / 65536) then ({ e with stop := some (.page, a) }, 0, false)
      else
        match engSector e.s x a with
        | (s, .data bs p) => ({ e with s := s }, bs[a % 32]?.getD 0, p)
        | (s, .fault c) => ({ e with s := s, stop := some (c, a) }, 0, false)
        | (s, .over) => ({ e with s := s, page := some (a, false) }, 0, false)
        | (s, .away r k) => ({ e with s := s, need := e.need ++ [(r, k)] }, 0, false)

def erBytes (x : ECtx) (scratch : Option Nat) (a : Nat) : Nat → ERun → ERun × List Byte × Bool
  | 0, e => (e, [], false)
  | n + 1, e =>
    let (e, b, p) := erByte x scratch a e
    let (e, bs, q) := erBytes x scratch (a + 1) n e
    (e, b :: bs, p || q)

/-- An engine's write of one byte; it is applied with the rest of its run. -/
def ewByte (x : ECtx) (e : ERun) (w : EByte) : ERun :=
  if e.held then e
  else
    match w.scratch with
    | some t => { e with out := (⟨.scratch t, w.addr, w.mask, w.val⟩, w.p, w.addr) :: e.out }
    | none =>
      if e.bad = some (w.addr / 65536) then { e with stop := some (.page, w.addr) }
      else
        match engXlat e.s x w.addr needW with
        | .ok r a =>
          { e with
            s := recordOwner (touchPage e.s x.part x.core w.addr) x.part x.core r a
            out := (⟨r, a, w.mask, w.val⟩, w.p, w.addr) :: e.out }
        | .fault c => { e with stop := some (c, w.addr) }
        | .over => { e with page := some (w.addr, true) }

/-- Writes with their poison and addresses: the sectors the poison lies in. -/
def outPois (ws : List (ByteWr × Bool × Nat)) : List (Route × Nat) :=
  ((ws.filter (·.2.1)).map fun w => (w.1.route, w.1.addr / 32)).eraseDups

/-- The stream of an engine's packets about a remote sector (R393). -/
def engSid (x : ECtx) (s : State) (y : Route × Nat) : StreamId := streamTo s x.part (dieOf x.core) (routeDev y.1) (y.2 * 32) 2

/-- Sends writes of sectors as long as their streams can take them (R403); the sectors that are left. -/
def engSendGo (x : ECtx) (ws : List ByteWr) (pz : List (Route × Nat)) (s : State) (g : Group) :
    List (Route × Nat) → State × Group × List (Route × Nat)
  | [] => (s, g, [])
  | y :: t =>
    if canSend s (engSid x s y) 1 then
      let (s, g) := sendSector s g 2 0 false ws y.1 y.2 (pz.contains y)
      engSendGo x ws pz s g t
    else (s, g, y :: t)

/-- The remote ones among an operation's writes are sent, and the operation waits for their answers (R265). -/
def engSend (x : ECtx) (s : State) (ws : List (ByteWr × Bool × Nat)) : State :=
  let far := ws.filter fun w => isRemote w.1.route
  match far, s.anyGroup? x.gid with
  | [], _ | _, none => s
  | _, some g =>
    let of := fun (y : Route × Nat) (w : ByteWr × Bool × Nat) => decide (w.1.route = y.1) && w.1.addr / 32 == y.2
    let secs := wrSectors (far.map (·.1))
    let (s, g', left) := engSendGo x (far.map (·.1)) (outPois far) s g secs
    let sent := ((g'.remWr.drop g.remWr.length).zip (secs.map fun y => ((far.find? (of y)).map fun w => w.2.2).getD 0)).filter fun y => !y.1.lost
    setOut s x.op fun o =>
      { o with
        writes := o.writes ++ sent.map fun y => (y.1.sid, y.1.seq, BitVec.ofNat 64 y.2)
        pend := far.filter fun w => left.any fun y => of y w }

def engPend (s : State) (op : Nat) : List (ByteWr × Bool × Nat) := (s.engOut.filter (·.op == op)).flatMap (·.pend)

/-- The writes of a run, applied as the issuing core's (R264), and remote ones sent; of a run that was over, those left. -/
def ewApply (x : ECtx) (e : ERun) : State :=
  let ws := e.out.reverse
  let bs := ws.map (·.1)
  if e.sending then engSend x e.s (engPend e.s x.op)
  else engSend x (applyWrites e.s x.core x.part x.nt none ((bs.filter fun w => !isRemote w.route).map (hostWhole bs)) (outPois ws)) ws

/-- The start of a run: none while the operation waits for a page. -/
def ewStart (s : State) (op : Nat) (await : Option (Nat × Bool)) : Option ERun :=
  let left := !(engPend s op).isEmpty
  match await with
  | some (_, false) => none
  | some (pg, true) => some ⟨s, [], [], none, some pg, none, left⟩
  | none => some ⟨s, [], [], none, none, none, left⟩

/-- Where a run stands: it waits for a page or for sectors, or it is over, with its failure if it has failed. -/
inductive EEnd where
  | wait (s : State) (page : Option Nat)
  | over (s : State) (fail : Option (BitVec 16 × W64))

def ewEnd (x : ECtx) (e : ERun) : EEnd :=
  match e.need, e.page, e.stop with
  | r :: rs, _, _ => .wait ((r :: rs).eraseDups.foldl (fun s y => engRequest s x y.1 y.2) e.s) none
  | [], some (a, w), _ => .wait (engPage e.s x.part (a / 65536) ⟨!w, w, false⟩) (some (a / 65536))
  | [], none, st =>
    let f := st.map fun f => (f.1.bit, BitVec.ofNat 64 f.2)
    let s := ewApply x e
    if (engPend s x.op).isEmpty then .over s f else .wait (setOut s x.op fun o => { o with fail := o.fail.or f }) none

/-- An operation no longer needs what its remote reads have brought. -/
def dropIn (s : State) (op : Nat) : State := { s with engIn := s.engIn.filter (·.1 != op) }

-- the copy engine (R268 to R272)

/-- A descriptor's fields (R269). -/
structure CopyD where
  src : W64
  dst : W64
  rows : Nat
  len : Nat
  dstride : Int
  sstride : Int
  ssp : Bool
  dsp : Bool
  dring : Bool
  sfmt : Nat
  padv : Byte
  padt : Nat
  padl : Nat
  drows : Nat
  dlen : Nat
  deriving DecidableEq, Repr

def copyD (d : List W64) : CopyD :=
  let w := fun n => d[n]?.getD 0
  { src := w 0, dst := w 1, rows := bits (w 2).toNat 63 32, len := bits (w 2).toNat 31 0
    dstride := ((w 3).extractLsb' 32 32).toInt, sstride := ((w 3).setWidth 32).toInt
    ssp := (w 4).getLsbD 61, dsp := (w 4).getLsbD 60, dring := (w 4).getLsbD 59, sfmt := bits (w 4).toNat 58 56
    padv := (w 4).extractLsb' 48 8, padt := bits (w 4).toNat 47 32, padl := bits (w 4).toNat 31 0
    drows := bits (w 5).toNat 63 32, dlen := bits (w 5).toNat 31 0 }

def in20 (n : Nat) : Bool := decide (1 ≤ n ∧ n ≤ 2 ^ 20)

/-- The element size of .T2 and .T4. -/
def xElem : Xform → Nat
  | .t2 => 2
  | .t4 => 4
  | _ => 1
/-- The transforms that read a table in scratchpad. -/
def xTable : Xform → Bool
  | .gath | .rag => true
  | _ => false

/-- The bytes of a source row. -/
def srcRowBytes (x : Xform) (c : CopyD) : Nat :=
  if x = .exp then (if c.sfmt = 0 then c.len / 2 else c.len * 3 / 4) else c.len
/-- Destination rows and the bytes of one (R270). -/
def dstShape (x : Xform) (c : CopyD) : Nat × Nat :=
  match x with
  | .t2 | .t4 => (c.len / xElem x, c.rows * xElem x)
  | .pad => (c.drows, c.dlen)
  | _ => (c.rows, c.len)
/-- Source rows that may be named. -/
def srcRows (x : Xform) (c : CopyD) : Nat := if x = .gath then c.drows else c.rows

/-- The ILL checks of step 1. Log 52 (DEDUCED). -/
def copyIll (x : Xform) (c : CopyD) (d : List W64) : Bool :=
  let w4 := (d[4]?.getD 0).toNat
  let w5 := (d[5]?.getD 0).toNat
  bits w4 63 62 != 0 || !in20 c.rows || !in20 c.len || (c.dring && (c.dsp || bits c.dst.toNat 63 16 != 0)) ||
  (!c.ssp && bits c.src.toNat 63 55 != 0) || (!c.dsp && !c.dring && bits c.dst.toNat 63 55 != 0) ||
  (if x = .exp then decide (2 < c.sfmt) else c.sfmt != 0) ||
  (!(decide (x = .pad) || xTable x) && c.padv != 0) || (decide (x ≠ .pad) && (c.padt != 0 || c.padl != 0)) ||
  (match x with
    | .pad => !in20 c.drows || !in20 c.dlen || decide (c.drows < c.padt + c.rows) || decide (c.dlen < c.padl + c.len)
    | .gath => c.drows == 0 || decide (c.sstride < 0)
    | .rag => c.drows != 0
    | .t2 | .t4 => w5 != 0 || c.len % xElem x != 0
    | .exp => w5 != 0 || c.len % (if c.sfmt = 0 then 2 else 4) != 0
    | .lin => w5 != 0)

/-- The ALIGN checks of step 1: the address at fault. -/
def copyAlign (x : Xform) (c : CopyD) : Option W64 :=
  let e := xElem x
  if c.src.toNat % e ≠ 0 then some c.src
  else if !c.dring && c.dst.toNat % e != 0 then some c.dst
  else if c.sstride % e ≠ 0 ∨ c.dstride % e ≠ 0 then some c.src
  else none

/-- A scratchpad span under R233: the team named and the first and last offset. -/
def scratchSpan (s : State) (g : Group) (a : W64) (lo hi : Int) : Option (Nat × Nat × Nat) :=
  match scratchTeam s g a.toNat 1 with
  | some t => if lo < 0 ∨ (t.scratchSize : Int) ≤ hi then none else some (t.tid, lo.toNat, hi.toNat)
  | none => none

/-- The extent of the destination in a ring slot (R271). -/
def ringExtent (x : Xform) (c : CopyD) : Int := (((dstShape x c).1 : Int) - 1) * c.dstride + (dstShape x c).2

/-- A ring's block (R275): its handle refused, corrupt (with the device after R361), or its offset and fields. -/
inductive RingRes where
  | bad (c : Cause) (a : W64)
  | corrupt (s : State) (a : W64)
  | ok (off : Nat) (b : QBlk)

def ringOf (s : State) (part tid h : Nat) : RingRes :=
  if h.testBit 15 then .bad .ill 0
  else
    let off := h % 2 ^ 15 * 64
    match s.team? tid with
    | none => .bad .perm (BitVec.ofNat 64 off)
    | some t =>
      if t.scratchSize < off + 64 then .bad .perm (BitVec.ofNat 64 off)
      else if qBad s (.scratch tid) off then .corrupt (qSpoil s part (.scratch tid) off) (BitVec.ofNat 64 off)
      else .ok off (qBlkOf (qRead s (.scratch tid) off))

/-- A span of the global space, as a range lock records it; addresses count modulo 2^64. -/
def globalSpan (r : Int × Int) : Option Nat × Nat × Nat :=
  if r.2 < 0 then (none, (r.1 % 2 ^ 64).toNat, (r.2 % 2 ^ 64).toNat) else (none, r.1.toNat, r.2.toNat)

/-- Steps 2 of R268 for one address: its span in a scratchpad or in the global space. -/
def copySpan (s : State) (g : Group) (sp : Bool) (a : W64) (rows len : Nat) (stride : Int) : Option (Option Nat × Nat × Nat) :=
  if sp then
    let r := rowSpan (bits a.toNat 20 0) rows len stride
    (scratchSpan s g a r.1 r.2).map fun y => (some y.1, y.2.1, y.2.2)
  else some (globalSpan (rowSpan a.toNat rows len stride))

/-- Step 5: the locks are taken and the copy joins its stream. -/
def startCopy (s : State) (g : Group) (x : Xform) (d : List W64) (spans : List (Option Nat × Nat × Nat)) (ring : Option (Nat × Nat))
    (base : Option Nat) : Out :=
  let op := s.nextId
  let s := { takeLocks s g.core op spans with nextId := op + 1 }
  let s := s.modCore g.core fun c => { c with copies := c.copies ++ [⟨op, g.gid, g.tid, x, d, ring, base, g.copyS.closed + 1, none, false, none⟩] }
  .done s (joinOp g .copy op) .none

/-- CPY at execution (R268), after the older accesses of the group are performed. -/
def copyStart (x : Xform) (d : List W64) (s : State) (g : Group) : Out :=
  let c := copyD d
  let (dr, dl) := dstShape x c
  if copyIll x c d then .stop (stopAll g .ill 0)
  else
    match copyAlign x c with
    | some a => .stop (stopAll g .align a)
    | none =>
      let tblVa : W64 := BitVec.ofNat 64 c.dlen
      match copySpan s g c.ssp c.src (srcRows x c) (srcRowBytes x c) c.sstride,
          (if c.dring then some (none, 0, 0) else copySpan s g c.dsp c.dst dr dl c.dstride),
          (if xTable x then copySpan s g true tblVa 1 (4 * c.rows) 0 else some (none, 0, 0)) with
      | none, _, _ => .stop (stopAll g .perm c.src)
      | _, none, _ => .stop (stopAll g .perm c.dst)
      | _, _, none => .stop (stopAll g .perm tblVa)
      | some ss, some ds, some ts =>
        let rest := if xTable x then [ss, ts] else [ss]
        if !c.dring then
          if lockRoom s g.core (rest.length + 1) then startCopy s g x d (rest ++ [ds]) none none else .wait s g
        else
          if g.spoilt then .stop (stopAll g .qcorrupt (BitVec.ofNat 64 (c.dst.toNat % 2 ^ 15 * 64)))
          else match ringOf s g.part g.tid (c.dst.toNat % 65536) with
          | .bad k a => .stop (stopAll g k a)
          | .corrupt s a => stopWith s g (stopAll g .qcorrupt a)
          | .ok off b =>
            if c.dstride < 0 ∨ (b.esz : Int) < ringExtent x c then .stop (stopAll g .ill 0)
            else if b.space = 0 then park s g (.scratch g.tid) off b.block
            else if !lockRoom s g.core (rest.length + 1) then .wait s g
            else
              let base := bits b.slots 20 0 + b.resv % b.cap * b.esz
              let s := homePutBytes s g.part (.scratch g.tid) off (qBytes { b with resv := (b.resv + 1) % 2 ^ 32 })
              startCopy s g x d (rest ++ [(some g.tid, base, base + b.esz - 1)]) (some (off, b.resv)) (some base)

def cpyGo (a : BitVec 6) (x : Xform) (s : State) (g : Group) : Out :=
  let ns := (List.range 6).map fun k => a + BitVec.ofNat 6 k
  if ns.any g.regs.getSP then .stop (stopAll g .poison 0)
  else
    match performAll s g true with
    | none => .wait s g
    | some (s, g) => copyStart x (ns.map g.regs.getS) s g

def execCpy (h : Hdr) (a : BitVec 6) (x : Xform) (s : State) : Host.Outcome State Fault Refusal :=
  issue (.cpy h a x) (cpyGo a x) s

/-- Where a copy's scratchpad addresses lie: the team named by the address. -/
def copyTeam (s : State) (tid : Nat) (sp : Bool) (a : W64) : Option Nat :=
  if !sp then none
  else
    match s.team? tid with
    | none => some tid
    | some t =>
      if !a.getLsbD 28 then some tid
      else
        match s.teams.find? fun x => x.lid == t.lid && x.cluster == t.cluster && x.rank == bits a.toNat 27 24 with
        | some x => some x.tid
        | none => some tid

/-- The places of a copy: source and destination spaces with their first addresses, and the table. -/
structure CopyAt where
  ssp : Option Nat
  sa : Int
  dsp : Option Nat
  da : Int
  tsp : Option Nat
  ta : Nat

def copyAt (s : State) (o : CopyOp) (c : CopyD) : CopyAt :=
  { ssp := copyTeam s o.tid c.ssp c.src
    sa := if c.ssp then bits c.src.toNat 20 0 else c.src.toNat
    dsp := if c.dring then some o.tid else copyTeam s o.tid c.dsp c.dst
    da := if c.dring then (o.base.getD 0 : Nat) else if c.dsp then bits c.dst.toNat 20 0 else c.dst.toNat
    tsp := copyTeam s o.tid true (BitVec.ofNat 64 c.dlen)
    ta := bits c.dlen 20 0 }

/-- A 6-bit element j of a row's bytes (R270). -/
def sixBits (lo hi : Byte) (j : Nat) : Nat := (lo.toNat + 256 * hi.toNat) / 2 ^ (6 * j % 8) % 64

/-- The byte .EXP makes of a source element (R81, R82). -/
def expByte (sfmt code : Nat) : Byte :=
  let v : Fl := match sfmt with
    | 0 => let x := (BitVec.ofNat 4 code).toInt; .fin (decide (x < 0)) (x.natAbs * 2 ^ 149)
    | 1 => layE3M2.val code
    | _ => layE2M3.val code
  BitVec.ofNat 8 (layF8E4.narrow .rn v).1

/-- Byte b of destination row q: its value and poison (R270, R272). -/
def copyByte (x : Xform) (c : CopyD) (p : CopyAt) (ctx : ECtx) (q b : Nat) (e : ERun) : ERun × Byte × Bool :=
  let row := fun (r : Nat) (off : Nat) => ((p.sa + (r : Int) * c.sstride + off) % 2 ^ 64).toNat
  match x with
  | .lin => erByte ctx p.ssp (row q b) e
  | .t2 | .t4 =>
    let k := xElem x
    erByte ctx p.ssp (row (b / k) (q * k + b % k)) e
  | .pad =>
    if c.padt ≤ q ∧ q < c.padt + c.rows ∧ c.padl ≤ b ∧ b < c.padl + c.len then erByte ctx p.ssp (row (q - c.padt) (b - c.padl)) e
    else (e, c.padv, false)
  | .gath =>
    let (e, bs, _) := erBytes ctx p.tsp (p.ta + 4 * q) 4 e
    let i := leNat bs
    if i < c.drows then erByte ctx p.ssp (row i b) e else (e, c.padv, false)
  | .rag =>
    let (e, bs, _) := erBytes ctx p.tsp (p.ta + 4 * q) 4 e
    if b < leNat bs then erByte ctx p.ssp (row q b) e else (e, c.padv, false)
  | .exp =>
    if c.sfmt = 0 then
      let (e, v, z) := erByte ctx p.ssp (row q (b / 2)) e
      (e, expByte 0 (v.toNat / 16 ^ (b % 2) % 16), z)
    else
      let lo := 6 * b / 8
      let hi := (6 * b + 5) / 8
      let (e, v, z) := erByte ctx p.ssp (row q lo) e
      let (e, w, y) := if lo = hi then (e, (0 : Byte), false) else erByte ctx p.ssp (row q hi) e
      (e, expByte c.sfmt (sixBits v w b), z || y)

/-- The whole transfer, destination rows ascending. Log 52 (DEDUCED). -/
def copyRun (x : Xform) (c : CopyD) (p : CopyAt) (ctx : ECtx) (e : ERun) : ERun :=
  let (dr, dl) := dstShape x c
  (List.range dr).foldl (fun e q =>
    (List.range dl).foldl (fun e b =>
      let (e, v, z) := copyByte x c p ctx q b e
      ewByte ctx e ⟨p.dsp, ((p.da + (q : Int) * c.dstride + b) % 2 ^ 64).toNat, 0xFF, v, z⟩) e) e

def modCopy (s : State) (core op : Nat) (f : CopyOp → CopyOp) : State :=
  s.modCore core fun c => { c with copies := c.copies.map fun o => if o.opId = op then f o else o }
def endCopy (s : State) (core op : Nat) : State :=
  s.modCore core fun c => { c with copies := c.copies.filter fun o => o.opId != op }

/-- COPY_COMPLETE: the transfer, its failure (R265), its locks released (R267). Log 52 (DEDUCED). -/
def copyFinish (s : State) (core : Nat) (o : CopyOp) : State :=
  let x := ectx s core o.tid o.gid o.opId
  match ewStart s o.opId o.await with
  | none => s
  | some e =>
    let c := copyD o.desc
    match ewEnd x (copyRun o.x c (copyAt s o c) x e) with
    | .wait s pg => modCopy s core o.opId fun y => { y with await := pg.map fun n => (n, false) }
    | .over s fail =>
      let fail := fail.or (o.spoilt.map fun a => (Cause.qcorrupt.bit, a))
      let s := opDone (dropIn s o.opId) core o.gid .copy o.opId fail
      if o.ring.isSome then modCopy s core o.opId fun y => { y with finished := true, await := none } else endCopy s core o.opId

def copyOp? (s : State) (core op : Nat) : Option CopyOp := (s.core core).copies.find? (·.opId == op)

def execCopyComplete (core op : Nat) (s : State) : Host.Outcome State Fault Refusal :=
  match copyOp? s core op with
  | some o => .next (if o.finished then s else copyFinish s core o)
  | none => .next s

/-- RING_PUBLISH: in reservation order the tail advances (R271). -/
def ringPublish (s : State) (core : Nat) (o : CopyOp) : State :=
  match o.ring with
  | none => if o.finished then endCopy s core o.opId else s
  | some (off, n) =>
    if !o.finished then s
    else
      match s.team? o.tid with
      | none => endCopy s core o.opId
      | some t =>
        if qBad s (.scratch o.tid) off then endCopy (qSpoil s t.part (.scratch o.tid) off) core o.opId
        else
          let b := qBlkOf (qRead s (.scratch o.tid) off)
          if b.tail = n ∧ b.resv ≠ b.tail then
            endCopy (qWrite s t.part (.scratch o.tid) off { b with tail := (b.tail + 1) % 2 ^ 32, free := b.free - 1 }) core o.opId
          else s

def execRingPublish (core op : Nat) (s : State) : Host.Outcome State Fault Refusal :=
  match copyOp? s core op with
  | some o => .next (ringPublish s core o)
  | none => .next s

end Sys2Proof.Machine
end

