-- ==== Sys2Proof/Machine/Matrix.lean ====
section
/-! DEFINITION. The matrix engine (R273 to R292, R441, R442, R446): the command queue, rings and the operand cache, the checks and
pushes of its instructions, and the steps that carry commands out. -/

namespace Sys2Proof.Machine

open Sys2Proof

-- shapes and tiles (R278, R279)

structure MShape where
  m : Nat
  n : Nat
  nk : Nat
  deriving DecidableEq, Repr

def shapeOf (v : W64) : Option MShape :=
  let x := v.toNat
  let m := bits x 8 0
  let n := bits x 24 16
  let k := bits x 47 32
  if bits x 63 48 ≠ 0 ∨ bits x 31 25 ≠ 0 ∨ bits x 15 9 ≠ 0 ∨ m = 0 ∨ 256 < m ∨ n = 0 ∨ 256 < n ∨ k = 0 then none else some ⟨m, n, k⟩

/-- h of R278. -/
def MShape.halves (s : MShape) : Nat := (s.m + 127) / 128
/-- Rows of an M-half. -/
def MShape.rows (s : MShape) (mh : Nat) : Nat := min 128 (s.m - 128 * mh)

/-- The bytes of an A and of a B element of a ring. -/
def elemSizes : MmaTy → Nat × Nat
  | .f16 | .bf16 => (8192, 16384)
  | .f8e4 | .f8e5 | .i8 => (4096, 8192)
  | .f4 => (2048, 4096)

/-- Element `j` of a tile's bytes. -/
def tileElem (ty : MmaTy) (bs : Array Byte) (j : Nat) : Fl :=
  let b := fun n => (bs.getD n 0).toNat
  match ty with
  | .f16 => layF16.val (b (2 * j) + 256 * b (2 * j + 1))
  | .bf16 => layBF16.val (b (2 * j) + 256 * b (2 * j + 1))
  | .f8e4 => layF8E4.val (b j)
  | .f8e5 => layF8E5.val (b j)
  | .i8 => let x := (BitVec.ofNat 8 (b j)).toInt; .fin (decide (x < 0)) (x.natAbs * 2 ^ 149)
  | .f4 => layF4.val (b (j / 2) / 16 ^ (j % 2) % 16)

/-- The sector of a tile that holds element `j`. -/
def elemSector (ty : MmaTy) (j : Nat) : Nat :=
  match ty with
  | .f16 | .bf16 => j / 16
  | .f4 => j / 64
  | _ => j / 32

-- accumulator tiles (R44)

def accKey (tile r c : Nat) : Nat := 32768 * tile + 256 * r + c
def accGet (t : Team) (tile r c : Nat) : W32 := Tab.get 0 t.acc (accKey tile r c)
def accPois (t : Team) (tile r c : Nat) : Bool := nsHas t.accP (accKey tile r c)
def accSet (t : Team) (tile r c : Nat) (v : W32) (p : Bool) : Team :=
  { t with acc := Tab.set 0 t.acc (accKey tile r c) v, accP := nsSet t.accP (accKey tile r c) p }

/-- What MLDA and MSTA read of an element (R94). -/
def accRead (t : Team) (tile r c : Nat) : W32 := if accPois t tile r c then canonNaN else accGet t tile r c

-- the command queue (R273)

def cmdTy (k : Cmd) : Option MmaTy := mmaty? (k.f.extractLsb' 9 4)
def cmdPair (k : Cmd) : Bool := k.f.getLsbD 0
/-- An MMA.F4, which its MSCALE makes whole. -/
def Cmd.isF4 (k : Cmd) : Bool := k.isMma && decide (cmdTy k = some .f4)

/-- A group waits in its core's wait list for entries of the queue. Log 34 (DEDUCED). -/
def parkEngine (s : State) (g : Group) : Out :=
  let g := { g with wait := .engine, waitFrom := none, parkedAt := s.now, parkedClk := g.sr.clk2 }
  .halt (clockGate (s.setGroup g) g.core) g

-- rings (R275 to R277)

/-- The outcome of an engine's reading of a ring. -/
inductive KRes (α : Type) where
  | ok (s : State) (x : α)
  | wait (s : State)
  | fail (s : State) (c : Cause) (a : W64)

/-- Tiles kept, the oldest dropped while they pass 128 KiB. Log 53 (DESIGN CHOICE). -/
def fitCache : List OTile → List OTile
  | [] => []
  | x :: t => if 131072 < ((x :: t).map fun y => y.data.length).sum then fitCache t else x :: t

/-- A sector read while a cached copy exists: where the two differ, one of them (R276). Log 53 (DESIGN CHOICE). -/
def mixSector (s : State) (old new : List Byte × Bool) : State × List Byte × Bool :=
  if old = new then (s, new)
  else
    let (k, s) := s.choose 2
    (s, if k = 0 then old else new)

def sectorsOf (bs : List Byte) (ps : List Bool) : List (List Byte × Bool) :=
  ps.zipIdx.map fun p => ((bs.drop (32 * p.2)).take 32, p.1)

/-- Log 53 (DESIGN CHOICE). -/
def mixAll (s : State) : List ((List Byte × Bool) × (List Byte × Bool)) → State × List (List Byte × Bool)
  | [] => (s, [])
  | (o, n) :: t =>
    let (s, x) := mixSector s o n
    let (s, r) := mixAll s t
    (s, x :: r)

/-- Element `idx` from a ring's head, once it is published: its bytes and its sectors' poison. Log 53 (DESIGN CHOICE), 54 (DEDUCED). -/
def ringTile (s : State) (part core tid h idx : Nat) : KRes (Array Byte × Array Bool) :=
  match ringOf s part tid h with
  | .bad c a => .fail s c a
  | .corrupt s a => .fail s .qcorrupt a
  | .ok off b =>
    if b.count ≤ idx then .wait s
    else
      let n := (b.head + idx) % 2 ^ 32
      let base := bits b.slots 20 0 + n % b.cap * b.esz
      if ((s.team? tid).map (·.scratchSize)).getD 0 < base + b.esz then .fail s .perm (BitVec.ofNat 64 off)
      else
        let bs := homeBytes s (.scratch tid) base b.esz
        let ps := (List.range (b.esz / 32)).map fun i => homePois s (.scratch tid) (base / 32 + i)
        match (s.core core).ocache.find? fun t => t.tid == tid && t.handle == h && t.gen == n with
        | some t =>
          let (s, l) := mixAll s ((sectorsOf t.data t.pois).zip (sectorsOf bs ps))
          .ok s ((l.flatMap (·.1)).toArray, (l.map (·.2)).toArray)
        | none =>
          .ok (s.modCore core fun c => { c with ocache := fitCache (c.ocache ++ [⟨tid, h, n, bs, ps⟩]) }) (bs.toArray, ps.toArray)

/-- Pops elements from a ring's head. -/
def ringPop (s : State) (part tid h k : Nat) : State :=
  match ringOf s part tid h with
  | .ok off b => qWrite s part (.scratch tid) off (b.popped (min k b.count))
  | _ => s

def ringReady (s : State) (part tid h idx : Nat) : Bool :=
  match ringOf s part tid h with
  | .ok _ b => decide (idx < b.count)
  | _ => true

-- execution checks (R446)

/-- A refused command: its cause and address, with the device where a ring was found corrupt. -/
inductive MChk where
  | ok
  | bad (c : Cause) (a : W64)
  | corrupt (s : State) (a : W64)

def MChk.and : MChk → MChk → MChk
  | .ok, y => y
  | x, _ => x

/-- Step 4 for one ring, and step 5: element size, and capacity where it is limited. -/
def ringChk (s : State) (part tid h : Nat) : MChk :=
  match ringOf s part tid h with
  | .bad c a => .bad c a
  | .corrupt s a => .corrupt s a
  | .ok _ _ => .ok
def ringFits (s : State) (part tid h size cap : Nat) : Bool :=
  match ringOf s part tid h with
  | .ok _ b => b.esz == size && decide (cap ≤ b.cap)
  | _ => false

def pairAllowed (s : State) (t : Team) : Bool :=
  match s.launch? t.lid with
  | some l => l.pairOk && t.rank % l.clw % 2 == 0
  | none => false

def tilesChk (t : Team) (d h : Nat) : MChk := if t.ntiles ≤ d + h - 1 ∨ (h = 2 ∧ d % 2 = 1) then .bad .illop 0 else .ok

/-- Steps 2 to 5 of R446 for MMA. -/
def mmaChk (s : State) (t : Team) (d : Nat) (ty : MmaTy) (pair : Bool) (a b : W64) : MChk :=
  match shapeOf a with
  | none => .bad .ill 0
  | some sh =>
    let h := sh.halves
    if bits b.toNat 63 32 ≠ 0 ∨ (pair = true ∧ (h ≠ 2 ∨ pairAllowed s t = false)) then .bad .ill 0
    else
      let ah := bits b.toNat 15 0
      let bh := bits b.toNat 31 16
      let sz := elemSizes ty
      ((tilesChk t d h).and ((ringChk s t.part t.tid ah).and (ringChk s t.part t.tid bh))).and
        (if ringFits s t.part t.tid ah sz.1 0 && ringFits s t.part t.tid bh sz.2 (if h = 2 ∧ !pair then sh.nk else 0) then .ok
         else .bad .ill 0)

/-- Steps 2 to 5 of R446 for MSCALE. -/
def mscaleChk (s : State) (t : Team) (d : Nat) (a b : W64) : MChk :=
  match shapeOf a with
  | none => .bad .ill 0
  | some sh =>
    if bits b.toNat 63 16 ≠ 0 then .bad .ill 0
    else
      ((tilesChk t d sh.halves).and (ringChk s t.part t.tid b.toNat)).and
        (if ringFits s t.part t.tid b.toNat 512 0 then .ok else .bad .ill 0)

/-- The selector of MLDA (R286). -/
def mldaBad (v : W64) : Bool := bits v.toNat 63 17 != 0 || v.getLsbD 7

/-- Bytes of `n` elements of a row under MSTA. -/
def mstaRow (f : MFmt) (n : Nat) : Nat := (n * fmtBits f + 7) / 8
def mstaStride (c : W64) : Nat := bits c.toNat 31 0
def mstaRows (c : W64) : Nat := bits c.toNat 56 48
def mstaCols (c : W64) : Nat := bits c.toNat 40 32

/-- The checks of MSTA (R287). -/
def mstaChk (f : MFmt) (b c : W64) : MChk :=
  let r := mstaRows c
  let n := mstaCols c
  if bits c.toNat 63 57 ≠ 0 ∨ bits c.toNat 47 41 ≠ 0 ∨ r = 0 ∨ 128 < r ∨ n = 0 ∨ 256 < n then .bad .ill 0
  else if b.toNat % fmtBytes f ≠ 0 then .bad .align b
  else if mstaStride c % fmtBytes f ≠ 0 then .bad .align b
  else if mstaStride c * 8 < n * fmtBits f then .bad .ill 0
  else .ok

/-- What follows the checks of an instruction. -/
def MChk.go (s : State) (g : Group) (k : State → Group → Out) : MChk → Out
  | .ok => k s g
  | .bad c a => .stop (stopAll g c a)
  | .corrupt s' a => stopWith s' g (stopAll g .qcorrupt a)

-- pushes

/-- A command as an instruction pushes it. -/
def cmdOf (g : Group) (op : BitVec 8) (tile : BitVec 5) (f : BitVec 13) (a b c : W64) (opId : Nat) : Cmd where
  op := op
  tile := tile
  grp := g.idx
  f := f
  aval := a
  bval := b
  cval := c
  opId := opId
  gid := g.gid
  tid := g.tid
  tag := 0
  dreg := 0
  lanes := 0
  seed := []
  scale := none
  scaleOp := 0
  start := none

/-- Pushes a command on the matrix stream once the queue has room; `upd` is what the push changes in the group besides. -/
def pushCmd (s : State) (g : Group) (upd : Group → Group) (k : Nat → Cmd) : Out :=
  let op := s.nextId
  let c := k op
  if queueRoom s g.core < cmdEntries c then parkEngine s g
  else
    .done ({ s with nextId := op + 1 }.modCore g.core fun x => { x with cmds := x.cmds ++ [c], pushAt := (coreClock s g.core + 1, g.sub) }) (joinOp (upd g) .matrix op)
      .none

/-- The same for a command that registers a span (R266). -/
def pushLocked (s : State) (g : Group) (span : Nat × Nat) (upd : Group → Group) (k : Nat → Cmd) : Out :=
  if queueRoom s g.core < 1 then parkEngine s g
  else if !lockRoom s g.core 1 then .wait s g
  else pushCmd (takeLocks s g.core s.nextId [(none, span.1, span.2)]) g upd k

/-- What every matrix instruction does first: its operands are consumed, the pending record is checked (R282), and the older accesses
of the group are performed (R264). -/
def matrixFirst (i : Instr) (sys : Bool) (s : State) (g : Group) (k : State → Group → Team → Out) : Out :=
  if poisonU (srcOf s g) (iUs i) then .stop (stopAll g .poison 0)
  else if g.f4.isSome then .stop (stopAll g .ill 0)
  else
    match (if sys then performAll s g true else drainAll s g) with
    | none => .wait s g
    | some (s, g) =>
      match s.team? g.tid with
      | some t => k s g t
      | none => .wait s g

def mmaGo (i : Instr) (d : BitVec 5) (a b : UOp) (ty : MmaTy) (pair : Bool) (s : State) (g : Group) : Out :=
  matrixFirst i true s g fun s g t =>
    let av := (rdU (srcOf s g) a).1
    let bv := (rdU (srcOf s g) b).1
    (mmaChk s t d.toNat ty pair av bv).go s g fun s g =>
      pushCmd s g (fun g => if ty = .f4 then { g with f4 := some (d, av, pair) } else g) fun op =>
        cmdOf g 0xD0 d (fA ty.code 0 (0#5 ++ BitVec.ofBool pair)) av bv 0 op

def execMma (h : Hdr) (d : BitVec 5) (a b : UOp) (ty : MmaTy) (pair : Bool) (s : State) : Host.Outcome State Fault Refusal :=
  let i := Instr.mma h d a b ty pair
  issue i (mmaGo i d a b ty pair) s

/-- The MSCALE of a waiting MMA.F4 fills the entry that it held (R282). -/
def fillScale (gid : Nat) (op : Nat) (v : W64) : List Cmd → List Cmd
  | [] => []
  | k :: t => if k.gid = gid ∧ k.isF4 = true ∧ k.scale = none then { k with scale := some v, scaleOp := op } :: t else k :: fillScale gid op v t

def mscaleGo (i : Instr) (d : BitVec 5) (a b : UOp) (s : State) (g : Group) : Out :=
  if poisonU (srcOf s g) (iUs i) then .stop (stopAll g .poison 0)
  else
    let av := (rdU (srcOf s g) a).1
    let bv := (rdU (srcOf s g) b).1
    match g.f4 with
    | none => .stop (stopAll g .ill 0)
    | some (fd, fa, _) =>
      if fd ≠ d ∨ fa ≠ av then .stop (stopAll g .ill 0)
      else
        match performAll s g true with
        | none => .wait s g
        | some (s, g) =>
          match s.team? g.tid with
          | none => .wait s g
          | some t =>
            (mscaleChk s t d.toNat av bv).go s g fun s g =>
              let op := s.nextId
              .done ({ s with nextId := op + 1 }.modCore g.core fun x => { x with cmds := fillScale g.gid op bv x.cmds })
                { joinOp g .matrix op with f4 := none } .none

def execMscale (h : Hdr) (d : BitVec 5) (a b : UOp) (s : State) : Host.Outcome State Fault Refusal :=
  let i := Instr.mscale h d a b
  issue i (mscaleGo i d a b) s

def execMzero (h : Hdr) (d : BitVec 5) (s : State) : Host.Outcome State Fault Refusal :=
  let i := Instr.mzero h d
  issue i (fun s g => matrixFirst i false s g fun s g _ => pushCmd s g id fun op => cmdOf g 0xD2 d 0 0 0 0 op) s

def mldaGo (i : Instr) (ta : BitVec 3) (d : VReg) (a : BitVec 5) (b : UOp) (sel : BitVec 3) (s : State) (g : Group) : Out :=
  matrixFirst i false s g fun s g _ =>
    let v := (rdU (srcOf s g) b).1
    if mldaBad v then .stop (stopAll g .ill 0)
    else if queueRoom s g.core < 1 then parkEngine s g
    else
      let m := active g.regs sel
      let op := s.nextId
      let c : Cmd := { cmdOf g 0xD3 a 0 0 v 0 op with tag := ta, dreg := d, lanes := m }
      .done ({ s with nextId := op + 1 }.modCore g.core fun x => { x with cmds := x.cmds ++ [c], pushAt := (coreClock s g.core + 1, g.sub) })
        (allocTag g ta [d] none m 1 []) .async

def execMlda (h : Hdr) (ta : BitVec 3) (d : VReg) (a : BitVec 5) (b : UOp) (sel : BitVec 3) (s : State) :
    Host.Outcome State Fault Refusal :=
  let i := Instr.mlda h ta d a b sel
  issue i (mldaGo i ta d a b sel) s

/-- SRSEED after a lane has converted `n` elements (R288). -/
def stepN (x : W32) : Nat → W32
  | 0 => x
  | n + 1 => stepN (srStep x).1 n

/-- Elements that lane l converts. -/
def laneShare (r n l : Nat) : Nat := r * ((List.range n).countP fun c => c % 64 == l)

def mstaGo (i : Instr) (a : BitVec 5) (b c : UOp) (f : MFmt) (rnd : SRnd) (nt : Bool) (s : State) (g : Group) : Out :=
  matrixFirst i true s g fun s g _ =>
    let bv := (rdU (srcOf s g) b).1
    let cv := (rdU (srcOf s g) c).1
    (mstaChk f bv cv).go s g fun s g =>
      let r := mstaRows cv
      let n := mstaCols cv
      let seeds := g.sr.srseed
      let upd := fun (g : Group) => if rnd = .sr then
          { g with sr := { g.sr with srseed := Vector.ofFn fun l => stepN (seeds[l.val]) (laneShare r n l.val) } }
        else g
      pushLocked s g (bv.toNat, bv.toNat + (r - 1) * mstaStride cv + mstaRow f n - 1) upd fun op =>
        { cmdOf g 0xD4 a (fM f.code 0 0 nt rnd.code) 0 bv cv op with seed := seeds.toList }

def execMsta (h : Hdr) (a : BitVec 5) (b c : UOp) (f : MFmt) (rnd : SRnd) (nt : Bool) (s : State) : Host.Outcome State Fault Refusal :=
  let i := Instr.msta h a b c f rnd nt
  issue i (mstaGo i a b c f rnd nt) s

/-- The span of a save area of a team (R290). -/
def saveSpan (a : W64) (n : Nat) : Nat × Nat := (a.toNat, a.toNat + 0x40000 + n * 0x20000 - 1)

/-- MSAVE and MRESUME: the area's alignment and the push. -/
def saveGo (i : Instr) (op8 : BitVec 8) (a : UOp) (s : State) (g : Group) : Out :=
  matrixFirst i true s g fun s g t =>
    let v := (rdU (srcOf s g) a).1
    if v.toNat % 65536 ≠ 0 then .stop (stopAll g .align v)
    else pushLocked s g (saveSpan v t.ntiles) id fun op => cmdOf g op8 0 0 v 0 0 op

def execMsave (h : Hdr) (a : UOp) (s : State) : Host.Outcome State Fault Refusal :=
  let i := Instr.msave h a
  issue i (saveGo i 0xD6 a) s
def execMresume (h : Hdr) (a : UOp) (s : State) : Host.Outcome State Fault Refusal :=
  let i := Instr.mresume h a
  issue i (saveGo i 0xD5 a) s

-- starting a command (R281, R284, R442)

def cmdPart (s : State) (k : Cmd) : Nat := ((s.team? k.tid).map (·.part)).getD 0
def ahOf (k : Cmd) : Nat := bits k.bval.toNat 15 0
def bhOf (k : Cmd) : Nat := bits k.bval.toNat 31 16
def shOf (k : Cmd) : Nat := bits ((k.scale.getD 0).toNat) 15 0
def cmdTokens (k : Cmd) : Nat := if cmdPair k then 2 else 1
/-- The east neighbour (R284). -/
def follower (core : Nat) : Nat := core + 1

/-- The place a unit starts or goes on from. -/
def cmdStart (k : Cmd) : Nat × Nat × Option (Tab Int) := k.start.getD (0, 0, none)

/-- The index from the B ring's head of the element of a block. -/
def bIndex (k : Cmd) (sh : MShape) (mh kb : Nat) : Nat := if cmdPair k || sh.halves != 2 || mh != 0 then 0 else kb

/-- The elements of a unit's next part are published. -/
def partReady (s : State) (k : Cmd) (mh kb : Nat) (scaling : Bool) : Bool :=
  match shapeOf k.aval with
  | none => true
  | some sh =>
    let last := if cmdPair k then 1 else 0
    let p := cmdPart s k
    if sh.halves ≤ mh then true
    else if scaling then ringReady s p k.tid (shOf k) last
    else ringReady s p k.tid (ahOf k) last && ringReady s p k.tid (bhOf k) (bIndex k sh mh kb)

/-- MATRIX_COMMAND_START: the head of the queue starts, or begins to wait for its tokens. -/
def matrixStart (s : State) (core : Nat) : State :=
  let c := s.core core
  if c.run.isSome ∨ c.claimedBy.isSome then s
  else
    match c.cmds with
    | [] => s
    | k :: rest =>
      if !k.isMma then s.setCore core { c with cmds := rest, run := some ⟨k, 0, 0, 0, none, none⟩ }
      else if k.isF4 ∧ k.scale = none then s
      else if c.tokens < cmdTokens k then s.setCore core { c with tokWait := some (c.tokWait.getD s.now) }
      else
        let (mh, kb, p) := cmdStart k
        if (cmdPair k ∧ (s.core (follower core)).claimedBy ≠ some core) ∨ !partReady s k mh kb p.isSome then s
        else s.setCore core { c with cmds := rest, run := some ⟨k, mh, kb, c.tokens, p, none⟩, tokWait := none, tokSeen := false }

def execMatrixCommandStart (core : Nat) (s : State) : Host.Outcome State Fault Refusal := .next (matrixStart s core)

/-- PAIR_CLAIM: the leader claims its east neighbour, once that has finished its command. -/
def pairClaim (s : State) (core : Nat) : State :=
  match (s.core core).cmds with
  | k :: _ =>
    let f := s.core (follower core)
    if k.isMma ∧ cmdPair k = true ∧ (s.core core).run.isNone ∧ f.run.isNone ∧ f.claimedBy.isNone then
      s.modCore (follower core) fun c => { c with claimedBy := some core }
    else s
  | [] => s

def execPairClaim (core : Nat) (s : State) : Host.Outcome State Fault Refusal := .next (pairClaim s core)

-- K-blocks (R280, R283, R441)

/-- Each (row, column) of an M-half of a shape. -/
def halfCells (sh : MShape) (mh : Nat) : List (Nat × Nat) :=
  (List.range (sh.rows mh)).flatMap fun r => (List.range sh.n).map fun c => (r, c)

/-- A product of a block; an integer zero has no sign (R96). Log 106 (DEDUCED). -/
def blockProd (ty : MmaTy) (a b : Fl) : Prod :=
  match prodOf a b with
  | .fin n m => .fin (n && !(decide (ty = .i8) && m == 0)) m
  | p => p

/-- The 32 products of one element of a block, and whether an input is poisoned. -/
def cellProds (ty : MmaTy) (a b : Array Byte × Array Bool) (r c : Nat) : List Prod × Bool :=
  let ks := List.range 32
  (ks.map fun k => blockProd ty (tileElem ty a.1 (32 * r + k)) (tileElem ty b.1 (256 * k + c)),
    ks.any fun k => a.2.getD (elemSector ty (32 * r + k)) false || b.2.getD (elemSector ty (256 * k + c)) false)

/-- One element of a block added to its accumulator element. -/
def addCell (ty : MmaTy) (a b : Array Byte × Array Bool) (tile : Nat) (t : Team) (x : Nat × Nat) : Team :=
  let (ps, z) := cellProds ty a b x.1 x.2
  accSet t tile x.1 x.2 (fAdd .rn (accGet t tile x.1 x.2) (blockSum ps)).1 (accPois t tile x.1 x.2 || z)

/-- A block sum in quarters (R97). -/
def quarterSum (ps : List Prod) : Int :=
  (ps.foldl (fun (s : Int) p => match p with
    | .fin true m => s - m
    | .fin false m => s + m
    | _ => s) 0) / 2 ^ 296

/-- One element of an F4 block: its partial sum kept, its accumulator poisoned by a poisoned input. -/
def partCell (a b : Array Byte × Array Bool) (tile half : Nat) (st : Team × Tab Int) (x : Nat × Nat) : Team × Tab Int :=
  let (ps, z) := cellProds .f4 a b x.1 x.2
  (if z then accSet st.1 tile x.1 x.2 (accGet st.1 tile x.1 x.2) true else st.1, Tab.set 0 st.2 (accKey half x.1 x.2) (quarterSum ps))

/-- One element of the scaling part. -/
def scaleCell (e : Array Byte × Array Bool) (tile half : Nat) (p : Tab Int) (t : Team) (x : Nat × Nat) : Team :=
  let ea := (e.1.getD x.1 0).toNat
  let eb := (e.1.getD (128 + x.2) 0).toNat
  let z := e.2.getD (x.1 / 32) false || e.2.getD ((128 + x.2) / 32) false
  accSet t tile x.1 x.2 (scaleAdd (accGet t tile x.1 x.2) (Tab.get 0 p (accKey half x.1 x.2)) ea eb) (accPois t tile x.1 x.2 || z)

/-- The M-halves a block covers: both of a pair, or the one of the pass. -/
def passHalves (k : Cmd) (mh : Nat) : List Nat := if cmdPair k then [0, 1] else [mh]

/-- Reads one ring element for each M-half of a block. -/
def tilesFor (part core tid h : Nat) (s : State) : Nat → Nat → KRes (List (Array Byte × Array Bool))
  | _, 0 => .ok s []
  | i, n + 1 =>
    match ringTile s part core tid h i with
    | .ok s x =>
      (match tilesFor part core tid h s (i + 1) n with
        | .ok s l => .ok s (x :: l)
        | r => r)
    | .wait s => .wait s
    | .fail s c a => .fail s c a

/-- The next block of a unit, or mh = h when none is left. -/
def nextBlock (k : Cmd) (sh : MShape) (mh kb : Nat) : Nat × Nat :=
  if kb + 1 < sh.nk then (mh, kb + 1) else (if cmdPair k then sh.halves else mh + 1, 0)

def tokensBack (c : CoreSt) : CoreSt := { c with run := none, tokens := 0, giveBack := c.giveBack + c.tokens }
/-- Log 57 (DEDUCED). -/
def releasePair (s : State) (core : Nat) : State :=
  { s with cores := s.cores.map fun x => if x.2.claimedBy = some core then (x.1, { x.2 with claimedBy := none }) else x }

/-- The end of the executing command (R274, R281): its operations complete, its tokens are to be returned, its locks are freed. Log 57 (DEDUCED). -/
def endCmd (s : State) (core : Nat) (k : Cmd) (fail : Option (BitVec 16 × W64)) : State :=
  let s := releasePair (s.setCore core (tokensBack (s.core core))) core
  let s := opDone (dropIn s k.opId) core k.gid .matrix k.opId fail
  if k.scaleOp = 0 then s else opDone s core k.gid .matrix k.scaleOp none

def setRun (s : State) (core : Nat) (e : Exec) : State := s.modCore core fun c => { c with run := some e }

/-- The partial sums part of an F4 block, or the whole block of another type. -/
def sumPart (s : State) (core : Nat) (e : Exec) (sh : MShape) (ty : MmaTy) : State :=
  let k := e.cmd
  let part := cmdPart s k
  let hs := passHalves k e.mh
  match tilesFor part core k.tid (ahOf k) s 0 hs.length with
  | .wait s => s
  | .fail s c a => endCmd s core k (some (c.bit, a))
  | .ok s as =>
    match ringTile s part core k.tid (bhOf k) (bIndex k sh e.mh e.kb) with
    | .wait s => s
    | .fail s c a => endCmd s core k (some (c.bit, a))
    | .ok s b =>
      match s.team? k.tid with
      | none => s
      | some t =>
        let popB := cmdPair k || sh.halves == 1 || e.mh == 1
        let fin := fun (s : State) =>
          let s := ringPop s part k.tid (ahOf k) hs.length
          if popB then ringPop s part k.tid (bhOf k) 1 else s
        if ty = .f4 then
          let (t, p) := (hs.zip as).foldl (fun st y =>
            (halfCells sh y.1).foldl (partCell y.2 b (k.tile.toNat + y.1) (y.1 - e.mh)) st) (t, ([] : Tab Int))
          setRun (fin (s.setTeam t)) core { e with partialP := some p }
        else
          let t := (hs.zip as).foldl (fun t y => (halfCells sh y.1).foldl (addCell ty y.2 b (k.tile.toNat + y.1)) t) t
          let (mh, kb) := nextBlock k sh e.mh e.kb
          setRun (fin (s.setTeam t)) core { e with mh := mh, kb := kb }

/-- The scaling part of an F4 block. -/
def scalePart (s : State) (core : Nat) (e : Exec) (sh : MShape) (p : Tab Int) : State :=
  let k := e.cmd
  let part := cmdPart s k
  let hs := passHalves k e.mh
  match tilesFor part core k.tid (shOf k) s 0 hs.length with
  | .wait s => s
  | .fail s c a => endCmd s core k (some (c.bit, a))
  | .ok s es =>
    match s.team? k.tid with
    | none => s
    | some t =>
      let t := (hs.zip es).foldl (fun t y => (halfCells sh y.1).foldl (scaleCell y.2 (k.tile.toNat + y.1) (y.1 - e.mh) p) t) t
      let (mh, kb) := nextBlock k sh e.mh e.kb
      setRun (ringPop (s.setTeam t) part k.tid (shOf k) hs.length) core { e with mh := mh, kb := kb, partialP := none }

/-- Every block of the unit is done. -/
def unitDone (e : Exec) : Bool :=
  match shapeOf e.cmd.aval with
  | some sh => decide (sh.halves ≤ e.mh)
  | none => true

/-- KBLOCK_COMPLETE: the next part of the executing unit. -/
def kblock (s : State) (core : Nat) : State :=
  match (s.core core).run with
  | none => s
  | some e =>
    if !e.cmd.isMma || unitDone e then s
    else
      match shapeOf e.cmd.aval, cmdTy e.cmd with
      | some sh, some ty =>
        (match e.partialP with
          | some p => scalePart s core e sh p
          | none => sumPart s core e sh ty)
      | _, _ => endCmd s core e.cmd (some (Cause.ill.bit, 0))

def execKblockComplete (core : Nat) (s : State) : Host.Outcome State Fault Refusal := .next (kblock s core)

-- the other commands

/-- The elements MLDA delivers (R286). -/
def mldaElems (t : Team) (k : Cmd) : List VElem :=
  let v := k.bval.toNat
  let row := bits v 6 0
  let col := bits v 15 8
  (lanesOf k.lanes).map fun l =>
    let x := if v.testBit 16 then accRead t k.tile.toNat ((row + l.val) % 128) col else accRead t k.tile.toNat row ((col + l.val) % 256)
    ⟨k.dreg, l, x, false⟩

def cmdFmt (k : Cmd) : MFmt := (mfmt? (k.f.extractLsb' 9 4)).getD .n32
def cmdRnd (k : Cmd) : SRnd := (srnd? (k.f.extractLsb' 0 3)).getD (.det .rn)

/-- One element of MSTA: the bytes it writes, the generators after it. -/
def mstaCell (x : ECtx) (t : Team) (k : Cmd) (st : ERun × List W32) (rc : Nat × Nat) : ERun × List W32 :=
  let f := cmdFmt k
  let l := rc.2 % 64
  let (y, p, seed) :=
    match cmdRnd k with
    | .det m => (let (y, p) := narrow f (rndOf m) ((accRead t k.tile.toNat rc.1 rc.2).setWidth 64); (y, p, st.2[l]?.getD 0))
    | .sr =>
      let (s', b) := srStep (st.2[l]?.getD 0)
      let (y, p) := narrow f (.sr b) ((accRead t k.tile.toNat rc.1 rc.2).setWidth 64)
      (y, p, s')
  let base := k.bval.toNat + rc.1 * mstaStride k.cval
  let e :=
    if f = .f4 then ewByte x st.1 ⟨none, base + rc.2 / 2, if rc.2 % 2 = 0 then 0x0F else 0xF0, BitVec.ofNat 8 (y % 16 * 17), p⟩
    else (natLe (fmtBytes f) y).zipIdx.foldl (fun e b => ewByte x e ⟨none, base + rc.2 * fmtBytes f + b.2, 0xFF, b.1, p⟩) st.1
  (e, setAt st.2 l seed)

def mstaRun (x : ECtx) (t : Team) (k : Cmd) (e : ERun) : ERun :=
  let cells := (List.range (mstaRows k.cval)).flatMap fun r => (List.range (mstaCols k.cval)).map fun c => (r, c)
  (cells.foldl (mstaCell x t k) (e, k.seed)).1

/-- MSAVE's writes (R290, R291): the header, the bitmaps, the tiles. -/
def msaveRun (x : ECtx) (t : Team) (k : Cmd) (e : ERun) : ERun :=
  let a := k.aval.toNat
  let put := fun (e : ERun) (o : Nat) (bs : List Byte) => bs.zipIdx.foldl (fun e b => ewByte x e ⟨none, a + o + b.2, 0xFF, b.1, false⟩) e
  let e := put e 0 (natLe 8 (0x4D534156 * 2 ^ 32 + t.ntiles * 2 ^ 24) ++ natLe 56 0)
  (List.range t.ntiles).foldl (fun e n =>
    let e := (List.range 4096).foldl (fun e i =>
      put e (0x20000 + n * 0x1000 + i)
        [(List.range 8).foldl (fun (b : Byte) j => if nsHas t.accP (32768 * n + 8 * i + j) then b ||| (1#8 <<< j) else b) 0]) e
    (List.range 32768).foldl (fun e i => put e (0x40000 + n * 0x20000 + 4 * i) (natLe 4 (Tab.get 0 t.acc (32768 * n + i)).toNat)) e) e

/-- A saved command (R290). Log 55 (DEDUCED). -/
def savedCmd (k : Cmd) (bs : List Byte) : Cmd :=
  let w := dw bs 0
  { k with
    op := BitVec.ofNat 8 (bits w 63 56), tile := BitVec.ofNat 5 (bits w 55 48), grp := bits w 47 40, f := BitVec.ofNat 13 (bits w 12 0)
    aval := BitVec.ofNat 64 (dw bs 1), bval := BitVec.ofNat 64 (dw bs 2), cval := BitVec.ofNat 64 (dw bs 3)
    opId := 0, tag := 0, dreg := 0, lanes := 0, seed := [], scale := none, scaleOp := 0, start := none }

/-- A saved command that R280 to R287 would refuse. -/
def savedBad (s : State) (t : Team) (bs : List Byte) (k : Cmd) : Bool :=
  let w := dw bs 0
  let chk := fun (c : MChk) => match c with
    | .ok => false
    | _ => true
  bits w 39 13 != 0 || decide (0xD6 < bits w 63 56 ∨ bits w 63 56 < 0xD0) || decide (32 ≤ bits w 55 48) ||
  (decide (bits w 63 56 < 0xD5) && decide (t.ntiles ≤ bits w 55 48)) ||
  (match bits w 63 56 with
    | 0xD0 => (match cmdTy k with
      | some ty => bits k.f.toNat 8 1 != 0 || chk (mmaChk s t k.tile.toNat ty (cmdPair k) k.aval k.bval)
      | none => true)
    | 0xD1 => k.f != 0x1800 || chk (mscaleChk s t k.tile.toNat k.aval k.bval)
    | 0xD3 => mldaBad k.bval
    | 0xD4 => (match mfmt? (k.f.extractLsb' 9 4), srnd? (k.f.extractLsb' 0 3) with
      | some f, some r => !f.mstaOk || !rndOk f r || bits k.f.toNat 8 4 != 0 || chk (mstaChk f k.bval k.cval)
      | _, _ => true)
    | 0xD5 | 0xD6 => k.aval.toNat % 65536 != 0
    | _ => k.f != 0)

/-- Joins each MMA.F4 with the MSCALE that follows it; none where one is without the other. -/
def joinUnits : List Cmd → Option (List Cmd)
  | [] => some []
  | k :: t =>
    if k.op = 0xD1 then none
    else if k.isF4 then
      match t with
      | m :: t' =>
        if m.op = 0xD1 ∧ m.tile = k.tile ∧ m.aval = k.aval then (joinUnits t').map fun l => { k with scale := some m.bval } :: l else none
      | [] => none
    else (joinUnits t).map fun l => k :: l

/-- A number read by an engine run. -/
def erNat (x : ECtx) (a n : Nat) (e : ERun) : ERun × Nat :=
  let (e, bs, _) := erBytes x none a n e
  (e, leNat bs)

/-- The tiles and their poison read from a save area. -/
def loadTile (x : ECtx) (a n : Nat) (st : ERun × Team) : ERun × Team :=
  (List.range 32768).foldl (fun (st : ERun × Team) i =>
    let (e, v) := erNat x (a + 0x40000 + n * 0x20000 + 4 * i) 4 st.1
    let (e, b) := erNat x (a + 0x20000 + n * 0x1000 + i / 8) 1 e
    (e, accSet st.2 n (i / 256) (i % 256) (BitVec.ofNat 32 v) (b.testBit (i % 8)))) st

/-- The partial tile of a save area. Log 55 (DEDUCED). -/
def loadPartial (x : ECtx) (a half : Nat) (e : ERun) : ERun × Tab Int :=
  (List.range 32768).foldl (fun (st : ERun × Tab Int) i =>
    let (e, v) := erNat x (a + 0x10000 + 2 * i) 2 st.1
    (e, Tab.set 0 st.2 (accKey half (i / 256) (i % 256)) (BitVec.ofNat 16 v).toInt)) (e, [])

/-- What a save area holds: the team with its tiles, the commands to run; none where the header is refused. -/
structure Resume where
  team : Team
  cmds : List Cmd

/-- The header is refused (R292). -/
def headerBad (t : Team) (h : List Byte) : Bool :=
  let d0 := dw h 0
  let d1 := dw h 1
  bits d0 63 32 != 0x4D534156 || decide (t.ntiles < bits d0 31 24) || decide (64 < bits d0 23 16) || bits d0 15 3 != 0 ||
  bits d1 63 48 != 0 || bits d1 31 1 != 0 || ((List.range 6).any fun i => dw h (2 + i) != 0)

/-- Seeds of queued MSTA q. -/
def loadSeeds (x : ECtx) (a q : Nat) (e : ERun) : ERun × List W32 :=
  (List.range 64).foldl (fun (st : ERun × List W32) l =>
    let (e, v) := erNat x (a + 0x1000 + 256 * q + 4 * l) 4 st.1
    (e, st.2 ++ [BitVec.ofNat 32 v])) (e, [])

/-- The queued commands of a save area, in queue order. Log 55 (DEDUCED). -/
def loadQueue (x : ECtx) (t : Team) (k : Cmd) (a n : Nat) (e : ERun) : ERun × Bool × List Cmd :=
  (List.range n).foldl (fun (st : ERun × Bool × List Cmd) q =>
    let (e, bs, _) := erBytes x none (a + 0x100 + 32 * q) 32 st.1
    let c := savedCmd k bs
    let bad := savedBad e.s t bs c
    if c.op = 0xD4 then
      let (e, sd) := loadSeeds x a q e
      (e, st.2.1 || bad, st.2.2 ++ [{ c with seed := sd }])
    else (e, st.2.1 || bad, st.2.2 ++ [c])) (e, false, [])

/-- MRESUME's reading of its save area (R292). Log 55 (DEDUCED). -/
def resumeRun (x : ECtx) (t : Team) (k : Cmd) (e : ERun) : ERun × Option Resume :=
  let a := k.aval.toNat
  let (e, h, _) := erBytes x none a 64 e
  if e.held ∨ !e.need.isEmpty then (e, none)
  else if headerBad t h then ({ e with stop := some (.ill, a) }, none)
  else
    let d0 := dw h 0
    let cur := d0.testBit 0
    let part := d0.testBit 2
    let mh := bits (dw h 1) 0 0
    let kb := bits (dw h 1) 47 32
    let (e, cb, _) := erBytes x none (a + 0x40) 32 e
    let (e, mb, _) := erBytes x none (a + 0x60) 32 e
    let c := savedCmd k cb
    let m := savedCmd k mb
    let (e, qbad, qs) := loadQueue x t k a (bits d0 23 16) e
    let (e, p) := if cur && part then
        let (e, p) := loadPartial x a 0 e
        (e, some p)
      else (e, none)
    let sh := shapeOf c.aval
    let curBad := cur && (!c.isMma || savedBad e.s t cb c || d0.testBit 1 != cmdPair c ||
      (c.isF4 && (m.op != 0xD1 || m.tile != c.tile || m.aval != c.aval || savedBad e.s t mb m)) ||
      (part && !c.isF4) ||
      (match sh with
        | some y => decide (y.nk ≤ kb ∨ y.halves ≤ mh) || (cmdPair c && mh != 0)
        | none => true))
    let (e, t') := (List.range (bits d0 31 24)).foldl (fun st n => loadTile x a n st) (e, t)
    if e.held ∨ !e.need.isEmpty then (e, none)
    else
      match joinUnits qs with
      | none => ({ e with stop := some (.ill, a) }, none)
      | some l =>
        if qbad || curBad then ({ e with stop := some (.ill, a) }, none)
        else
          let first : List Cmd :=
            if cur then [{ c with scale := if c.isF4 then some m.bval else none, start := some (mh, kb, p) }] else []
          (e, some ⟨t', first ++ l⟩)

/-- The batch an operation belongs to. -/
def opBatch (s : State) (gid op : Nat) : Nat :=
  match s.anyGroup? gid with
  | some g => ((g.matrixS.ops.find? (·.1 == op)).map (·.2)).getD g.matrixS.closed
  | none => 0

/-- Commands get operations of their own in a batch. -/
def numberCmds (batch : Nat) (s : State) : List Cmd → State × List Cmd
  | [] => (s, [])
  | k :: t =>
    let op := s.nextId
    let s := { s with nextId := op + 1 }
    let s := s.modAny k.gid fun g => { g with matrixS := { g.matrixS with ops := g.matrixS.ops ++ [(op, batch)] } }
    let (s, l) := numberCmds batch s t
    (s, { k with opId := op } :: l)

def setAwait (s : State) (core : Nat) (e : Exec) (pg : Option Nat) : State := setRun s core { e with await := pg.map fun n => (n, false) }

/-- What an engine run of the executing command comes to. -/
def endRun (s : State) (core : Nat) (x : ECtx) (e : Exec) (r : ERun) (after : State → State) : State :=
  let _ := s
  match ewEnd x r with
  | .wait s pg => setAwait s core e pg
  | .over s none => endCmd (after s) core e.cmd none
  | .over s f => endCmd s core e.cmd f

/-- MATRIX_COMMAND_COMPLETE: the effects of a command that is no unit, or the end of a unit. -/
def matrixComplete (s : State) (core : Nat) : State :=
  match (s.core core).run with
  | none => s
  | some e =>
    let k := e.cmd
    let x := { ectx s core k.tid k.gid k.opId with nt := k.op == 0xD4 && k.f.getLsbD 3 }
    match s.team? k.tid with
    | none => endCmd s core k none
    | some t =>
      match k.op.toNat with
      | 0xD0 => if unitDone e then endCmd s core k none else s
      | 0xD2 =>
        let lo := 32768 * k.tile.toNat
        let out := fun n => decide (n < lo ∨ lo + 32768 ≤ n)
        endCmd (s.setTeam { t with acc := t.acc.filter fun y => out y.1, accP := t.accP.filter out }) core k none
      | 0xD3 => endCmd (if k.tag = 0 then s else s.modAny k.gid (deliverTo k.tag [.vec (mldaElems t k)])) core k none
      | 0xD4 =>
        (match ewStart s e.cmd.opId e.await with
          | some r => endRun s core x e (mstaRun x t k r) id
          | none => s)
      | 0xD6 =>
        (match ewStart s e.cmd.opId e.await with
          | some r => endRun s core x e (msaveRun x t k r) id
          | none => s)
      | _ =>
        match ewStart s e.cmd.opId e.await with
        | none => s
        | some r =>
          let (r, res) := resumeRun x t k r
          endRun s core x e r fun s =>
            match res with
            | none => s
            | some y =>
              let (s, l) := numberCmds (opBatch s k.gid k.opId) (s.setTeam y.team) y.cmds
              s.modCore core fun c => { c with cmds := l ++ c.cmds }

def execMatrixCommandComplete (core : Nat) (s : State) : Host.Outcome State Fault Refusal := .next (matrixComplete s core)

end Sys2Proof.Machine
end

