-- ==== Sys2Proof/Machine/Gather.lean ====
section
/-! DEFINITION. The gather unit (R294 to R307): handles and descriptors, pins and releases, EGATH, ESCAT and ESWAP, the merge of gradients and
its application. -/

namespace Sys2Proof.Machine

open Sys2Proof

-- descriptors (R295, R296)

structure TDesc where
  version : Nat
  nrows : Nat
  rowlen : Nat
  fmt : Option MFmt
  cq : Nat
  hotrows : Nat
  hot : Nat
  cold : Nat
  stride : Nat
  deriving DecidableEq, Repr

/-- The element formats of a table. -/
def tableFmt (x : Nat) : Option MFmt :=
  match x with
  | 2 => some .n32 | 5 => some .f16 | 6 => some .bf16 | 7 => some .f8e4 | 8 => some .f8e5 | _ => none

def tdescOf (bs : List Byte) : TDesc where
  version := bits (dw bs 0) 31 0
  nrows := bits (dw bs 1) 63 32
  rowlen := bits (dw bs 1) 31 16
  fmt := tableFmt (bits (dw bs 1) 15 12)
  cq := bits (dw bs 1) 2 0
  hotrows := bits (dw bs 2) 63 32
  hot := dw bs 3
  cold := dw bs 4
  stride := bits (dw bs 5) 63 32

def TDesc.f (d : TDesc) : MFmt := d.fmt.getD .n32

/-- R296. -/
def descBad (bs : List Byte) : Bool :=
  let d := tdescOf bs
  bits (dw bs 0) 63 32 != 0x44544745 || d.nrows == 0 || decide (d.rowlen < 8 ∨ 512 < d.rowlen) || d.rowlen % 8 != 0 || d.fmt.isNone ||
  bits (dw bs 1) 11 3 != 0 || bits (dw bs 2) 31 0 != 0 || d.hot % 32 != 0 || d.cold % 32 != 0 || d.stride % 32 != 0 ||
  decide (d.stride < d.rowlen * fmtBytes d.f) || bits (dw bs 5) 31 0 != 0 || dw bs 7 != 0

/-- The VA of a row. -/
def rowVa (d : TDesc) (i : Nat) : Nat := if i < d.hotrows then d.hot + i * d.stride else d.cold + (i - d.hotrows) * d.stride

-- pins (R297)

/-- A record's place: an HW-coherent page. -/
def recPlace (s : State) (g : Group) (va : W64) : Elem :=
  ⟨0, va,
    match xlat s g va.toNat needR with
    | .ok r a => if !isHw r then .fault .coherence else .ok r a
    | x => x⟩

/-- A record as its home holds it; of another device, what has come under the instruction's operation. -/
def recRead (s : State) (g : Group) (x : Route × Nat) : ERead :=
  if !isRemote x.1 then .data (homeBytes s x.1 x.2 64) false
  else
    let got := fun k => (g.markOp.bind fun op => engGot s op x.1 (x.2 / 32 + k)).getD (.away x.1 (x.2 / 32 + k))
    match got 0, got 1 with
    | .data a p, .data b q => .data (a ++ b) (p || q)
    | .fault c, _ => .fault c
    | _, .fault c => .fault c
    | .away r n, _ => .away r n
    | _, y => y

/-- Goes on with a record once it has come. -/
def withRec (va : W64) (s : State) (g : Group) (x : Route × Nat) (k : List Byte → Out) : Out :=
  match recRead s g x with
  | .data bs _ => k bs
  | .fault c => .stop (stopAll g c va)
  | .away r n =>
    let (s, g) := askSlots s g [(r, n)]
    .wait s g
  | .over => .wait s g

/-- A handle's current descriptor. -/
def handleCur (s : State) (h : Route × Nat) : W64 := BitVec.ofNat 64 (bits (homeNat s h.1 h.2 8) 54 0)

/-- Goes on with a handle's current descriptor. -/
def withCur (hva : W64) (s : State) (g : Group) (h : Route × Nat) (k : W64 → Out) : Out :=
  if isRemote h.1 then withRec hva s g h fun bs => k (BitVec.ofNat 64 (bits (dw bs 0) 54 0)) else k (handleCur s h)

/-- REFCNT is 0 and RETIRED is 1. -/
def refDue (s : State) (r : OldDesc) : Bool :=
  let w := homeNat s r.route (r.addr + 48) 8
  bits w 31 0 == 0 && w.testBit 32

/-- Replaced descriptors whose REFCNT and RETIRED have now come about are due, after those that are already (R297). -/
def noteDue (s : State) (part : Nat) : State :=
  s.modPart part fun p =>
    { p with
      retired := p.retired.filter (·.due) ++ ((p.retired.filter fun r => !r.due && refDue s r).map fun r => { r with due := true })
        ++ p.retired.filter fun r => !r.due && !refDue s r }

/-- Adds to REFCNT at the descriptor's home, modulo 2^32. -/
def addRef (s : State) (part : Nat) (d : Route × Nat) (k : Nat) : State :=
  noteDue (homePut s part d.1 (d.2 + 48) 4 ((homeNat s d.1 (d.2 + 48) 4 + k) % 2 ^ 32)) part

/-- RETIRED is set at the descriptor's home; it awaits its release (R297). -/
def retireDesc (s : State) (part : Nat) (d : Route × Nat) (va : W64) (launchId : Nat) : State :=
  let w := homeNat s d.1 (d.2 + 48) 8
  let s := homePut s part d.1 (d.2 + 48) 8 (if w.testBit 32 then w else w + 2 ^ 32)
  noteDue (s.modPart part fun p => { p with retired := p.retired ++ [⟨d.1, d.2, va, launchId, false⟩] }) part

/-- CUR is replaced at the handle's home, and SWAPS counts it (R305). -/
def setCur (s : State) (part : Nat) (h : Route × Nat) (new : W64) : State :=
  let w := homeNat s h.1 h.2 8
  let s := homePut s part h.1 h.2 8 (w / 2 ^ 55 * 2 ^ 55 + new.toNat % 2 ^ 55)
  homePut s part h.1 (h.2 + 8) 8 ((homeNat s h.1 (h.2 + 8) 8 + 1) % 2 ^ 64)

-- records of other devices

/-- An operation on a record of another device that nobody waits for. -/
def offerRec (s : State) (part core : Nat) (x : Route × Nat) (code : Nat) (operands : List Nat) : State :=
  sendDue (s.modPart part fun p =>
    { p with recDue := p.recDue ++ [(streamTo s part (dieOf core) (routeDev x.1) x.2 5, x, code, operands)] }) part

/-- A pin is given up: REFCNT falls by 1 (R297). -/
def unpin (s : State) (part core : Nat) (d : Route × Nat) : State :=
  if isRemote d.1 then offerRec s part core d 5 [] else addRef s part d (2 ^ 32 - 1)

def launchIdOf (s : State) (g : Group) : Nat := ((s.launch? g.lid).map (·.launchId)).getD 0

/-- The group waits for the answer of an operation on a record. -/
def recAsked (g : Group) : Bool := g.recStep.isSome && (match g.remOp with
  | some (_, _, none) => true
  | _ => false)

/-- An instruction on records of other devices that the group does not go on with: its pin is given up; where CUR has been replaced, RETIRED is
set. Log 58 (DEDUCED). -/
def settleRec (s : State) (g : Group) : State × Group :=
  match g.recStep with
  | none => (s, g)
  | some r =>
    let answer := g.remOp.bind (·.2.2)
    let s := match r.stage with
      | .pinning | .pinned => if answer = some 4 then s else unpin s g.part g.core r.desc
      | .swapping => if answer = some 0 then settleSwap s g r else s
      | .swapped => if g.remOp.isSome then s else settleSwap s g r
    (s, { g with recStep := none, remOp := none })
where
  settleSwap (s : State) (g : Group) (r : RecStep) : State :=
    if isRemote r.desc.1 then offerRec s g.part g.core r.desc 7 [r.cur.toNat, launchIdOf s g]
    else retireDesc s g.part r.desc r.cur (launchIdOf s g)

/-- The step that the group's instruction on this handle has begun, a swap or a pin. -/
def ownStep (g : Group) (hva : W64) (swap : Bool) : Option RecStep :=
  g.recStep.filter fun r => decide (r.handle = hva) && (decide (r.stage = .swapping) || decide (r.stage = .swapped)) == swap

/-- Goes to a stage, what has been read forgotten; to none, the instruction starts again. -/
def recGo (s : State) (g : Group) (r : Option RecStep) : Out :=
  let (s, g) := slotsDone s g
  .wait s { g with recStep := r, remOp := none }

/-- Sends the operation of a stage. -/
def recSend (s : State) (g : Group) (r : RecStep) (x : Route × Nat) (code : Nat) (operands : List Nat) : Out :=
  match sendHomeOp s g x.1 x.2 code operands with
  | .wait s g => .wait s (if g.remOp.isSome then { g with recStep := some r } else g)
  | o => o

/-- Steps 2 to 4 of R299: the handle, its descriptor and whether that is valid. -/
def withDesc (hva : W64) (s : State) (g : Group) (k : Route × Nat → W64 → Route × Nat → List Byte → Out) : Out :=
  if hva.toNat % 64 ≠ 0 then .stop (stopAll g .align hva)
  else
    let eh := recPlace s g hva
    match judge s g [eh] needR true with
    | some o => o
    | none =>
      match eh.res.place with
      | none => .wait s g
      | some h =>
        withCur hva s g h fun cur =>
          if cur.toNat % 64 ≠ 0 then .stop (stopAll g .align cur)
          else
            let ed := recPlace s g cur
            match judge s g [ed] needR true with
            | some o => o
            | none =>
              match ed.res.place with
              | none => .wait s g
              | some d => withRec cur s g d fun bs => if descBad bs then .stop (stopAll g .ill 0) else k h cur d bs

/-- The descriptor an EGATH or ESCAT is to pin, or has pinned: where a record lies on another device, REFCNT's increment is acknowledged first,
and the pin stands if the handle, read again, still names the descriptor (R297). Log 58 (DEDUCED). -/
def pinDesc (hva : W64) (s : State) (g : Group) (k : State → Group → Route × Nat → W64 → Route × Nat → List Byte → Out) : Out :=
  match ownStep g hva false with
  | none =>
    let (s, g) := settleRec s g
    withDesc hva s g (k s g)
  | some r =>
    match r.stage, g.remOp with
    | .pinning, some (_, _, none) => .wait s g
    | .pinning, some (_, _, some 4) => recGo s g none
    | .pinning, _ => recGo s g (some { r with stage := .pinned })
    | _, _ =>
      withCur hva s g r.home fun c =>
        if c ≠ r.cur then
          let (s, g) := settleRec s g
          recGo s g none
        else withRec r.cur s g r.desc fun bs => if descBad bs then .stop (stopAll g .ill 0) else k s g r.home r.cur r.desc bs

/-- The pin of a descriptor where a record lies on another device, as far as it can go; none where it is taken at once or has been taken. Log 58
(DEDUCED). -/
def pinAway (s : State) (g : Group) (hva : W64) (h : Route × Nat) (cur : W64) (d : Route × Nat) : Option Out :=
  if g.recStep.isSome || (!isRemote h.1 && !isRemote d.1) then none
  else if isRemote d.1 then some (recSend s g ⟨hva, h, cur, d, .pinning⟩ d 4 [])
  else some (recGo (addRef s g.part d 1) g (some ⟨hva, h, cur, d, .pinned⟩))

/-- The instruction is done: a pin it has taken is its operation's. -/
def recDone (s : State) (g : Group) : State × Group :=
  if g.recStep.isSome then
    let (s, g) := slotsDone s g
    (s, { g with recStep := none, remOp := none })
  else (s, g)

/-- The lanes of an operation: index, weight, and where a bag begins. -/
def gatherLanes (x : Src) (g : Group) (act seg : LMask) (b : OOp) (c : Option OOp) : List (Nat × W32 × W32 × Bool) :=
  let _ := g
  (lanesOf act).zipIdx.map fun l =>
    (l.1.val, (rd32 x b l.1).1, (match c with
      | some o => (rd32 x o l.1).1
      | none => 0), l.2 == 0 || seg.getLsbD l.1.val)

/-- Steps 4 to 6 of R299 and the retirement of EGATH and ESCAT. -/
def startGather (hva : W64) (s : State) (g : Group) (scatter : Bool) (out : W64) (bags : Nat) (ls : List (Nat × W32 × W32 × Bool))
    (h : Route × Nat) (cur : W64) (d : Route × Nat) (bs : List Byte) : Out :=
  let len := bags * 4 * (tdescOf bs).rowlen
  let a : W64 := (out.setWidth 32).setWidth 64
  match scratchSpan s g a (bits a.toNat 20 0) (bits a.toNat 20 0 + (len : Int) - 1) with
  | none => .stop (stopAll g .perm a)
  | some (tid, lo, hi) =>
    if lo % 32 ≠ 0 then .stop (stopAll g .align a)
    else if !lockRoom s g.core 1 then .wait s g
    else
      match pinAway s g hva h cur d with
      | some o => o
      | none =>
      let pinned := g.recStep.isSome
      let (s, g) := recDone s g
      let op := s.nextId
      let s := takeLocks s g.core op [(some tid, lo, hi)]
      let s := if pinned then s else addRef s g.part d 1
      let st := g.gatherS
      let o : GatherOp :=
        { opId := op, gid := g.gid, tid := g.tid, scatter := scatter, batch := st.closed + 1, descVa := cur, descRoute := d.1, descPa := d.2
          desc := (List.range 8).map fun i => BitVec.ofNat 64 (dw bs i), scr := tid, out := lo, lanes := ls, taken := 0
          await := none }
      .done ({ s with nextId := op + 1 }.modCore g.core fun c => { c with gathers := c.gathers ++ [o] }) (joinOp g .gather op) .none

def countBags (ls : List (Nat × W32 × W32 × Bool)) : Nat := ls.countP fun l => l.2.2.2

def gatherGo (i : Instr) (scatter : Bool) (d a : UOp) (b : OOp) (c : Option OOp) (sel : BitVec 3) (seg : LMask) (s : State) (g : Group) : Out :=
  let x := srcOf s g
  let act := active g.regs sel
  let p := poisonLanes x (iOs i) act
  if poisonU x (iUs i) then .stop (stopAll g .poison 0)
  else if p ≠ 0 then .stop (poisonStop p)
  else if act = 0 then .done s g .none
  else
    match performAll s g true with
    | none => .wait s g
    | some (s, g) =>
      pinDesc (rdU x a).1 s g fun s g h cur dp bs =>
        let ls := gatherLanes x g act seg b c
        startGather (rdU x a).1 s g scatter (rdU x d).1 (if scatter then ls.length else countBags ls) ls h cur dp bs

def execEgath (h : Hdr) (d a : UOp) (b c : OOp) (sel seg : BitVec 3) (s : State) : Host.Outcome State Fault Refusal :=
  let i := Instr.egath h d a b c sel seg
  issue i (fun s g => gatherGo i false d a b (some c) sel (g.regs.m[seg.toNat]) s g) s

def execEscat (h : Hdr) (d a : UOp) (b : OOp) (sel : BitVec 3) (s : State) : Host.Outcome State Fault Refusal :=
  let i := Instr.escat h d a b sel
  issue i (gatherGo i true d a b none sel 0) s

/-- The step of ESWAP at the handle's home (R305). -/
def swapStep (s : State) (g : Group) (h : Route × Nat) (old new : W64) (oldAt : Route × Nat) : State :=
  setCur (retireDesc s g.part oldAt old (launchIdOf s g)) g.part h new

/-- An ESWAP whose records lie on other devices, begun before: CUR is replaced at the handle's home only where it still is the old descriptor, then
RETIRED is set at the old descriptor's. Log 58 (DEDUCED). -/
def swapFollow (hva new : W64) (s : State) (g : Group) (r : RecStep) : Out :=
  match r.stage, g.remOp with
  | _, some (_, _, none) => .wait s g
  | .swapping, some (_, _, some 0) => recGo s g (some { r with stage := .swapped })
  | .swapping, some _ => recGo s g none
  | .swapping, none =>
    withCur hva s g r.home fun c => recGo s g (if c = BitVec.ofNat 64 (new.toNat % 2 ^ 55) then some { r with stage := .swapped } else none)
  | _, some _ =>
    let (s, g) := recDone s g
    .done s g .none
  | _, none =>
    if isRemote r.desc.1 then recSend s g r r.desc 7 [r.cur.toNat, launchIdOf s g]
    else
      let (s, g) := recDone (retireDesc s g.part r.desc r.cur (launchIdOf s g)) g
      .done s g .none

/-- The swap, or where a record lies on another device its first part. Log 58 (DEDUCED). -/
def swapNow (hva new : W64) (s : State) (g : Group) (h : Route × Nat) (old : W64) (y : Route × Nat) : Out :=
  if isRemote h.1 then recSend s g ⟨hva, h, old, y, .swapping⟩ h 6 [old.toNat, new.toNat]
  else if isRemote y.1 then recGo (setCur s g.part h new) g (some ⟨hva, h, old, y, .swapped⟩)
  else .done (swapStep s g h old new y) g .none

def eswapGo (i : Instr) (a b : UOp) (s : State) (g : Group) : Out :=
  let x := srcOf s g
  if poisonU x (iUs i) then .stop (stopAll g .poison 0)
  else
    let hva := (rdU x a).1
    let dva := (rdU x b).1
    match performAll s g true with
    | none => .wait s g
    | some (s, g) =>
      match ownStep g hva true with
      | some r => swapFollow hva dva s g r
      | none =>
      let (s, g) := settleRec s g
      if hva.toNat % 64 ≠ 0 then .stop (stopAll g .align hva)
      else if dva.toNat % 64 ≠ 0 then .stop (stopAll g .align dva)
      else
        let eh := recPlace s g hva
        let ed := recPlace s g dva
        match judge s g [eh, ed] needR true with
        | some o => o
        | none =>
          match eh.res.place, ed.res.place with
          | some h, some d =>
            withRec dva s g d fun bs =>
              if descBad bs then .stop (stopAll g .ill 0)
              else
                withCur hva s g h fun old =>
                  if old.toNat % 64 ≠ 0 then .stop (stopAll g .align old)
                  else
                    let eo := recPlace s g old
                    match judge s g [eo] needR true with
                    | some o => o
                    | none =>
                      match eo.res.place with
                      | some y => swapNow hva dva s g h old y
                      | none => .wait s g
          | _, _ => .wait s g

def execEswap (h : Hdr) (a b : UOp) (s : State) : Host.Outcome State Fault Refusal :=
  let i := Instr.eswap h a b
  issue i (eswapGo i a b) s

-- EGATH's pooling (R300, R301)

def opDesc (o : GatherOp) : TDesc := tdescOf (o.desc.flatMap fun w => natLe 8 w.toNat)

/-- The FP32 values of a row, element by element; a poisoned sector gives NaN. -/
def erRow (x : ECtx) (d : TDesc) (i : Nat) (e : ERun) : ERun × List W32 :=
  (List.range d.rowlen).foldl (fun (st : ERun × List W32) k =>
    let n := fmtBytes d.f
    let (e, bs, p) := erBytes x none (rowVa d i + k * n) n st.1
    (e, st.2 ++ [if p then canonNaN else (widen d.f (leNat bs)).setWidth 32])) (e, [])

/-- The distinct rows of an operation, each fetched once. -/
def fetchRows (x : ECtx) (d : TDesc) (is : List Nat) (e : ERun) : ERun × List (Nat × List W32) :=
  is.foldl (fun (st : ERun × List (Nat × List W32)) i =>
    let (e, r) := erRow x d i st.1
    (e, st.2 ++ [(i, r)])) (e, [])

def rowsOf (d : TDesc) (ls : List (Nat × W32 × W32 × Bool)) : List Nat :=
  ((ls.map fun l => l.2.1.toNat).filter fun i => decide (i < d.nrows)).eraseDups

/-- The bags of an EGATH, in order. -/
def pool (d : TDesc) (rows : List (Nat × List W32)) : List (Nat × W32 × W32 × Bool) → List (List W32) → List (List W32)
  | [], bags => bags
  | l :: t, bags =>
    let bags := if l.2.2.2 then bags ++ [List.replicate d.rowlen 0x80000000] else bags
    match rows.find? (·.1 == l.2.1.toNat), bags.getLast? with
    | some r, some b =>
      pool d rows t (bags.dropLast ++ [(b.zip r.2).map fun y => (fFma .rn l.2.2.1 y.2 y.1).1])
    | _, _ => pool d rows t bags

def dropGather (s : State) (core op : Nat) : State :=
  s.modCore core fun c => { c with gathers := c.gathers.filter fun o => o.opId != op }
def modGather (s : State) (core op : Nat) (f : GatherOp → GatherOp) : State :=
  s.modCore core fun c => { c with gathers := c.gathers.map fun o => if o.opId = op then f o else o }

/-- The end of an EGATH or of an ESCAT's reading: pin, locks, operation. -/
def endGather (s : State) (core : Nat) (o : GatherOp) (fail : Option (BitVec 16 × W64)) : State :=
  let part := ((s.team? o.tid).map (·.part)).getD 0
  let s := unpin s part core (o.descRoute, o.descPa)
  opDone (dropIn (dropGather s core o.opId) o.opId) core o.gid .gather o.opId fail

/-- GATHER_COMPLETE: the pooling into scratchpad. -/
def gatherFinish (s : State) (core : Nat) (o : GatherOp) : State :=
  let tid := o.tid
  let x := ectx s core tid o.gid o.opId
  let d := opDesc o
  match ewStart s o.opId o.await with
  | none => s
  | some e =>
    let (e, rows) := fetchRows x d (rowsOf d o.lanes) e
    let e := (pool d rows o.lanes []).zipIdx.foldl (fun e b =>
      b.1.zipIdx.foldl (fun e y =>
        (natLe 4 y.1.toNat).zipIdx.foldl (fun e z => ewByte x e ⟨some o.scr, o.out + 4 * (b.2 * d.rowlen + y.2) + z.2, 0xFF, z.1, false⟩) e) e) e
    match ewEnd x e with
    | .wait s pg => modGather s core o.opId fun y => { y with await := pg.map fun n => (n, false) }
    | .over s fail => endGather s core o fail

def gatherOp? (s : State) (core op : Nat) : Option GatherOp := (s.core core).gathers.find? (·.opId == op)

def execGatherComplete (core op : Nat) (s : State) : Host.Outcome State Fault Refusal :=
  match gatherOp? s core op with
  | some o => .next (if o.scatter then s else gatherFinish s core o)
  | none => .next s

-- ESCAT's merge (R302 to R304)

/-- Adds a gradient row to the merged G of a row; `age` is the place of a first contribution. -/
def mergeInto (o : GatherOp) (d : TDesc) (row age : Nat) (xs : List W32) : List MergeRow → List MergeRow
  | [] => [⟨o.batch, o.descVa.toNat, row, rowVa d row, d.f, (xs.map fun v => (fAdd .rn 0x80000000 v).1), false, o.opId, age, none⟩]
  | m :: t =>
    if m.batch = o.batch ∧ m.desc = o.descVa.toNat ∧ m.row = row then
      { m with g := (m.g.zip xs).map fun y => (fAdd .rn y.1 y.2).1 } :: t
    else m :: mergeInto o d row age xs t

/-- The merge rows of a core in its buffer, with their groups, and the bytes they take. -/
def coreMerge (s : State) (core : Nat) : List (Nat × MergeRow) :=
  (s.allGroups.filter (·.core == core)).flatMap fun g => (g.merge.filter fun m => !m.atSlice).map fun m => (g.gid, m)
def mergeBytes (s : State) (core : Nat) : Nat := ((coreMerge s core).map fun m => 4 * m.2.g.length).sum
/-- The oldest of them by first contribution. -/
def oldestRow (l : List (Nat × MergeRow)) : Option (Nat × MergeRow) :=
  l.foldl (fun b m => match b with
    | some y => if m.2.age < y.2.age then some m else b
    | none => some m) none

/-- The place of a row: its home slice; none for a row on another device. -/
def rowSlice (s : State) (x : ECtx) (va : Nat) : Option Nat :=
  match engXlat s x va needR, s.part? x.part with
  | .ok r a, some p => if isRemote r then none else some (homeSlice p a)
  | _, _ => some 0

/-- Merge entries in use at a slice. -/
def sliceEntries (s : State) (x : ECtx) (slice : Nat) : Nat :=
  let gs := s.allGroups
  ((gs.filter fun g => g.part == x.part).map fun g => (g.merge.filter fun m => m.atSlice && rowSlice s x m.rowVa == some slice).length).sum

-- a row's update (R303)

/-- A sector at its home slice: for an SW-coherent host line the slice's copy (R236). -/
def homeSector (s : State) (part : Nat) (r : Route) (sec : Nat) : State × List Byte × Bool :=
  let s := sliceFill s part r (sec / 4) false
  let held := match r with
    | .glob .host .sw _ _ _ => (s.part? part).bind fun p => p.hostCopies.find? (sameLine .host (sec / 4))
    | _ => none
  match held with
  | some y => (s, (y.data.drop (32 * (sec % 4))).take 32, y.pois.getLsbD (sec % 4))
  | none => (s, (List.range 32).map fun i => homeRead s r (sec * 32 + i), homePois s r sec)

/-- Writes to an SW-coherent host line join its home slice's copy. -/
def homeMerge (s : State) (part : Nat) (ws : List ByteWr) (pois : List (Route × Nat)) (r : Route) (line : Nat) : State :=
  let at' := fun (i : Nat) => (ws.filter fun w => decide (w.route = r) && w.addr == line * 128 + i).getLast?
  sliceMerge s
    { tier := .host, line := line, coh := .sw, key := routeTag r, part := part, nt := false
      data := (List.range 128).map fun i => ((at' i).map (·.val)).getD 0
      dirty := (List.range 128).foldl (fun (x : BitVec 128) i => if (at' i).isSome then x ||| (1#128 <<< i) else x) 0
      pois := (List.range 4).foldl (fun (x : BitVec 4) i => if pois.contains (r, line * 4 + i) then x ||| (1#4 <<< i) else x) 0 }

/-- Applies writes at their home slice, whatever the attribute. -/
def homeApply (s : State) (part : Nat) (ws : List ByteWr) (pois : List (Route × Nat)) : State :=
  let inCopy := fun (r : Route) => match r with
    | .glob .host .sw _ _ _ => true
    | _ => false
  let o := ws.filter fun w => !inCopy w.route
  let s := o.foldl (fun s w => homeWrite s w.route w.addr w.mask w.val) s
  let s := (wrSectors o).foldl (fun s x =>
    if coversSector o x || pois.contains x then homeSetPois s x.1 x.2 (pois.contains x) else s) s
  ((wrSectors ws).map fun x => (x.1, x.2 / 4)).eraseDups.foldl (fun s x =>
    if inCopy x.1 then homeMerge s part ws pois x.1 x.2 else stampLine s part none none false x.1 x.2) s

/-- The sectors of a row, by their addresses. -/
def rowSecs (m : MergeRow) : List Nat := (List.range ((m.g.length * fmtBytes m.fmt + 31) / 32)).map fun k => m.rowVa + 32 * k

/-- Where the sectors of a row lie, or the first that faults or whose page the host is to service. -/
inductive RowAt where
  | ok (l : List (Route × Nat))
  | fault (c : Cause) (va : Nat)
  | page (va : Nat)

/-- `bad` is a page the host has refused. -/
def rowAt (s : State) (x : ECtx) (bad : Option Nat) : List Nat → RowAt
  | [] => .ok []
  | va :: t =>
    if bad = some (va / 65536) then .fault .page va
    else
      match engXlat s x va needRW with
      | .fault c => .fault c va
      | .over => .page va
      | .ok r a =>
        match rowAt s x bad t with
        | .ok l => .ok ((r, a) :: l)
        | y => y

/-- The bytes a row's update writes: from its sectors' places, contents and poison. -/
def rowWrites (m : MergeRow) (secs : List ((Route × Nat) × List Byte × Bool)) : List (ByteWr × Bool × Nat) :=
  let n := fmtBytes m.fmt
  m.g.zipIdx.flatMap fun y =>
    match secs[y.2 * n / 32]? with
    | none => []
    | some ((r, a), bs, pz) =>
      let o := y.2 * n % 32
      let old : W32 := if pz then canonNaN else (widen m.fmt (leNat ((bs.drop o).take n))).setWidth 32
      let (v, p) := narrow m.fmt .rn ((fAdd .rn old y.1).1.setWidth 64)
      (natLe n v).zipIdx.map fun b => (⟨r, a + o + b.2, 0xFF, b.1⟩, p, m.rowVa + y.2 * n + b.2)

/-- Another update of a sector of another device is on its way (R303): asked for, come, or written and not answered. Log 58 (DEDUCED). -/
def rowBusy (s : State) (m : MergeRow) (y : Route × Nat) : Bool :=
  let ages := ((s.allGroups.flatMap (·.merge)).map (·.age)).filter fun n => n != m.age
  let sec := y.2 / 32
  (s.fabric.reqs.any fun q => q.sec == sec && q.sid.peer.dev == routeDev y.1 && (q.eng.map fun n => ages.contains n).getD false) ||
  (s.engIn.any fun e => ages.contains e.1 && (match e.2 with
    | .sect d k _ _ => d == routeDev y.1 && k == sec
    | _ => false)) ||
  s.engOut.any fun o => decide (o.strm = .gather) && o.writes.any fun w => w.1.peer.dev == routeDev y.1 &&
    ((srcOf? s w.1).map fun z => z.unacked.any fun u => u.1 == w.2.1 && (pktSectors u.2.1).contains sec).getD false

/-- The outcome of a row's update: applied or failed, or waiting for a page or for other devices. -/
inductive RowRes where
  | over (s : State) (fail : Option (BitVec 16 × W64))
  | wait (s : State) (m : MergeRow)

/-- What has come of remote sectors, and local ones as they stand at home. -/
def rowData (s : State) (x : ECtx) : List (Route × Nat) → State × List ((Route × Nat) × ERead)
  | [] => (s, [])
  | y :: t =>
    let (s, d) : State × ERead :=
      if isRemote y.1 then (s, (engGot s x.op y.1 (y.2 / 32)).getD (.away y.1 (y.2 / 32)))
      else (let (s, bs, p) := homeSector s x.part y.1 (y.2 / 32); (s, .data bs p))
    let (s, l) := rowData s x t
    (s, (y, d) :: l)

/-- The update is applied, its remote sectors sent; the batch waits for their answers. -/
def rowApply (s : State) (x : ECtx) (m : MergeRow) (ws : List (ByteWr × Bool × Nat)) : State :=
  let s := dropIn (homeApply s x.part ((ws.map (·.1)).filter fun w => !isRemote w.route) (outPois ws)) m.age
  if ws.all fun w => !isRemote w.1.route then s
  else
    let s := s.modAny x.gid fun g =>
      if g.gatherS.ops.any (·.1 == m.op) then g else { g with gatherS := { g.gatherS with ops := g.gatherS.ops ++ [(m.op, m.batch)] } }
    let s := engSend { x with op := m.op } s ws
    settleOut (setOut s m.op fun o => { o with core := x.core, gid := x.gid, strm := .gather, ended := true })

/-- One row's update (R303). Log 58 (DEDUCED). -/
def applyRow (s : State) (x : ECtx) (m : MergeRow) : RowRes :=
  let x := { x with op := m.age }
  match m.await with
  | some (_, false) => .wait s m
  | aw =>
    match rowAt s x (aw.map (·.1)) (rowSecs m) with
    | .fault c va => .over (dropIn s m.age) (some (c.bit, BitVec.ofNat 64 va))
    | .page va => .wait (engPage s x.part (va / 65536) needRW) { m with await := some (va / 65536, false) }
    | .ok l =>
      if l.any fun y => isRemote y.1 && (rowBusy s m y || !canSend s (engSid x s (y.1, y.2 / 32)) l.length) then .wait s m
      else
        let (s, ds) := rowData (touchHosts s x.part (rowSecs m)) x l
        match ds.findSome? fun y => match y.2 with
            | .fault c => some c
            | _ => none with
        | some c => .over (dropIn s m.age) (some (c.bit, BitVec.ofNat 64 m.rowVa))
        | none =>
          match ds.filter fun y => match y.2 with
              | .away _ _ => true
              | _ => false with
          | y :: t => .wait ((y :: t).foldl (fun s y => engRequest s x y.1.1 (y.1.2 / 32)) s) m
          | [] => .over (rowApply s x m (rowWrites m (ds.map fun y => (y.1, match y.2 with
              | .data bs p => (bs, p)
              | _ => ([], false))))) none

def failBatch (g : Group) (m : MergeRow) (f : BitVec 16 × W64) : Group :=
  { g with gatherS := { g.gatherS with fails := insertFail ⟨m.op, m.batch, f.1, f.2⟩ g.gatherS.fails } }

/-- Changes a merge row of a group, or takes it away. -/
def putRow (s : State) (gid : Nat) (m : MergeRow) (y : Option MergeRow) : State :=
  s.modAny gid fun g => { g with merge := g.merge.flatMap fun z => if z.age = m.age then y.toList else [z] }

/-- A row's update and what becomes of its entry; whether it is over. -/
def settleRow (s : State) (x : ECtx) (m : MergeRow) : State × Bool :=
  match applyRow s x m with
  | .wait s y => (putRow s x.gid m (some y), false)
  | .over s none => (putRow s x.gid m none, true)
  | .over s (some f) => ((putRow s x.gid m none).modAny x.gid fun g => failBatch g m f, true)

/-- MERGE_FLUSH: an entry of the core's buffer goes to its slice, or, where the slice is full, is applied at once (R304); whether it is
gone. An entry of a row on another device goes to that device's slice, whose other entries this device does not see. Log 58 (DEDUCED). -/
def flushRow (s : State) (x : ECtx) (m : MergeRow) : State × Bool :=
  if ((rowSlice s x m.rowVa).map fun slice => decide (sliceEntries s x slice < 2048)).getD true then
    (putRow s x.gid m (some { m with atSlice := true }), true)
  else
    let (s, b) := settleRow s x m
    (if b then s.modPart x.part fun p => { p with mergeovf := (p.mergeovf + 1) % 2 ^ 64 } else s, b)

/-- Flushes the oldest entries of the core until `n` more bytes fit in its 512 KiB (R304); whether they fit. -/
def fitMerge (core n : Nat) : Nat → State → State × Bool
  | 0, s => (s, false)
  | k + 1, s =>
    if mergeBytes s core + n ≤ 524288 then (s, true)
    else
      match oldestRow (coreMerge s core) with
      | some (gid, m) =>
        match s.anyGroup? gid with
        | some g =>
          let (s, b) := flushRow s (ectx s core g.tid gid 0) m
          if b then fitMerge core n k s else (s, false)
        | none => (s, false)
      | none => (s, true)

/-- The gradient row of the lane of rank r; a poisoned sector gives NaN. -/
def gradRow (s : State) (o : GatherOp) (d : TDesc) (r : Nat) : List W32 :=
  (List.range d.rowlen).map fun e =>
    let a := o.out + 4 * (r * d.rowlen + e)
    if homePois s (.scratch o.scr) (a / 32) then canonNaN else BitVec.ofNat 32 (homeNat s (.scratch o.scr) a 4)

/-- An older ESCAT of the group has still to be read (R302). -/
def scatterBehind (s : State) (core : Nat) (o : GatherOp) : Bool :=
  (s.core core).gathers.any fun y => y.scatter && y.gid == o.gid && decide (y.opId < o.opId)

/-- A lane's gradient row joins its G; whether it has. -/
def contribute (s : State) (core : Nat) (o : GatherOp) (d : TDesc) (row r : Nat) : State × Bool :=
  let held := ((s.anyGroup? o.gid).map fun g => g.merge.any fun m => m.batch == o.batch && m.desc == o.descVa.toNat && m.row == row).getD false
  let (s, b) := if held then (s, true) else fitMerge core (4 * d.rowlen) ((coreMerge s core).length + 1) s
  if b then
    let age := s.nextId
    (({ s with nextId := age + 1 }).modAny o.gid fun g => { g with merge := mergeInto o d row age (gradRow s o d r) g.merge }, true)
  else (s, false)

/-- What an ESCAT's reading comes to: it waits, at a lane, for a page or for room; or it is over. -/
inductive ScatEnd where
  | wait (s : State) (k : Nat) (page : Option Nat)
  | over (s : State) (fail : Option (BitVec 16 × W64))

/-- The lanes in order, from rank k on: each row's translation is tried, then its gradient row joins its G (R302, R307). Log 82 (DESIGN
CHOICE). -/
def scatterRun (core : Nat) (o : GatherOp) (d : TDesc) (bad : Option Nat) (k : Nat) (s : State) :
    List (Nat × W32 × W32 × Bool) → ScatEnd
  | [] => .over s none
  | l :: t =>
    let row := l.2.1.toNat
    if d.nrows ≤ row then scatterRun core o d bad (k + 1) s t
    else
      match rowAt s (ectx s core o.tid o.gid o.opId) bad (rowSecs ⟨0, 0, row, rowVa d row, d.f, List.replicate d.rowlen 0, false, 0, 0, none⟩) with
      | .fault c va => .over s (some (c.bit, BitVec.ofNat 64 va))
      | .page va => .wait s k (some va)
      | .ok _ =>
        match contribute s core o d row k with
        | (s, true) => scatterRun core o d bad (k + 1) s t
        | (s, false) => .wait s k none

/-- SCATTER_READ_COMPLETE: every gradient row joins its G, or, after a fault, those before it (R307). -/
def scatterFinish (s : State) (core : Nat) (o : GatherOp) : State :=
  if scatterBehind s core o then s
  else
    match o.await with
    | some (_, false) => s
    | aw =>
      match scatterRun core o (opDesc o) (aw.map (·.1)) o.taken s (o.lanes.drop o.taken) with
      | .wait s k pg =>
        let s := match pg with
          | some va => engPage s (ectx s core o.tid o.gid o.opId).part (va / 65536) needRW
          | none => s
        modGather s core o.opId fun y => { y with taken := k, await := pg.map fun va => (va / 65536, false) }
      | .over s f => endGather s core o f

def execScatterReadComplete (core op : Nat) (s : State) : Host.Outcome State Fault Refusal :=
  match gatherOp? s core op with
  | some o => .next (if o.scatter then scatterFinish s core o else s)
  | none => .next s

/-- The batch of a group whose updates may be applied: the lowest with rows, closed, with no ESCAT of it unread (R303). Log 82 (DESIGN CHOICE). -/
def applicable (s : State) (g : Group) : Option Nat :=
  match g.merge.map (·.batch) with
  | [] => none
  | b :: bs =>
    let n := bs.foldl min b
    if n ≤ g.gatherS.closed ∧ !((s.core g.core).gathers.any fun o => o.scatter && o.gid == g.gid && decide (o.batch ≤ n)) then some n else none

/-- GATHER_BATCH_APPLY of a group: the rows of the batch that can be updated are; rows that wait stay. Log 82 (DESIGN CHOICE). -/
def batchApply (s : State) (core : Nat) (g : Group) : State :=
  match applicable s g with
  | none => s
  | some n =>
    (g.merge.filter fun m => m.batch == n).foldl (fun s m => (settleRow s (ectx s core g.tid g.gid 0) m).1) s

/-- The operation is named by its group. -/
def execGatherBatchApply (core op : Nat) (s : State) : Host.Outcome State Fault Refusal :=
  match s.anyGroup? op with
  | some g => .next (batchApply s core g)
  | none => .next s

-- releases (R297, R298)

/-- The bytes a completion record takes: four doublewords. -/
def releaseRecord (s : State) (r : Release) : List W64 :=
  [BitVec.ofNat 64 (r.launchId % 65536 * 2 ^ 48 + 1), BitVec.ofNat 64 r.descVa, BitVec.ofNat 64 (r.version * 2 ^ 32), BitVec.ofNat 64 s.ns]

def qpair (p : Part) (n : Nat) : QPair := p.qpairs[n]?.getD QPair.reset
def modPair (p : Part) (n : Nat) (f : QPair → QPair) : Part := { p with qpairs := p.qpairs.setIfInBounds n (f (qpair p n)) }

def retiredDesc (s : State) (r : OldDesc) : TDesc := tdescOf (homeBytes s r.route r.addr 64)

/-- Accesses of operations that pinned the descriptor are still to be performed: updates of its rows, and their writes to other devices. -/
def rowsLeft (s : State) (part : Nat) (va : W64) : Bool :=
  (s.allGroups.any fun g => g.part == part && g.merge.any fun m => m.desc == va.toNat) ||
  s.engOut.any fun o => decide (o.strm = .gather) && ((s.anyGroup? o.gid).map fun g => g.part == part).getD false

/-- A replaced descriptor may be released: it is due, it is behind none of its queue, and its operations' accesses are performed. -/
def mayRelease (s : State) (part k : Nat) (l : List OldDesc) : Bool :=
  match l[k]? with
  | none => false
  | some r => r.due && !rowsLeft s part r.descVa &&
    (l.take k).all fun y => !y.due || (retiredDesc s y).cq != (retiredDesc s r).cq

/-- DESCRIPTOR_RELEASE of a replaced descriptor (R297); its record is discarded where its pair is not enabled. -/
def execDescriptorRelease (part k : Nat) (s : State) : Host.Outcome State Fault Refusal :=
  let s := noteDue s part
  let l := ((s.part? part).map (·.retired)).getD []
  match l[k]? with
  | none => .next s
  | some r =>
    if mayRelease s part k l then
      let d := retiredDesc s r
      .next (s.modPart part fun p =>
        { p with
          retired := p.retired.eraseIdx k
          releases := if (qpair p d.cq).en then p.releases ++ [⟨r.descVa.toNat, r.route, r.addr, d.cq, r.launchId, d.version⟩]
            else p.releases })
    else .next s

end Sys2Proof.Machine
end

