-- ==== Sys2Proof/Machine/Hash.lean ====
section
/-! DEFINITION. SHA-256 and CRC-32C, which measurements, the firmware digest and the object header use (R12, R29, R99, R108). -/

namespace Sys2Proof.Machine

open Sys2Proof

/-- One bit of CRC-32C (reflected polynomial 0x82F6_3B78). -/
def crc32cBit (x : W32) : W32 := if x.getLsbD 0 then (x >>> 1) ^^^ 0x82F63B78 else x >>> 1
def crc32cByte (x : W32) (b : Byte) : W32 := Nat.repeat crc32cBit 8 (x ^^^ b.setWidth 32)
/-- CRC-32C (Castagnoli) of a byte string. -/
def crc32c (bs : List Byte) : W32 := ~~~(bs.foldl crc32cByte 0xFFFFFFFF)

def shaInit : List W32 :=
  [0x6A09E667, 0xBB67AE85, 0x3C6EF372, 0xA54FF53A, 0x510E527F, 0x9B05688C, 0x1F83D9AB, 0x5BE0CD19]

def shaK : List W32 :=
  [0x428A2F98, 0x71374491, 0xB5C0FBCF, 0xE9B5DBA5, 0x3956C25B, 0x59F111F1, 0x923F82A4, 0xAB1C5ED5,
   0xD807AA98, 0x12835B01, 0x243185BE, 0x550C7DC3, 0x72BE5D74, 0x80DEB1FE, 0x9BDC06A7, 0xC19BF174,
   0xE49B69C1, 0xEFBE4786, 0x0FC19DC6, 0x240CA1CC, 0x2DE92C6F, 0x4A7484AA, 0x5CB0A9DC, 0x76F988DA,
   0x983E5152, 0xA831C66D, 0xB00327C8, 0xBF597FC7, 0xC6E00BF3, 0xD5A79147, 0x06CA6351, 0x14292967] ++
  [0x27B70A85, 0x2E1B2138, 0x4D2C6DFC, 0x53380D13, 0x650A7354, 0x766A0ABB, 0x81C2C92E, 0x92722C85,
   0xA2BFE8A1, 0xA81A664B, 0xC24B8B70, 0xC76C51A3, 0xD192E819, 0xD6990624, 0xF40E3585, 0x106AA070,
   0x19A4C116, 0x1E376C08, 0x2748774C, 0x34B0BCB5, 0x391C0CB3, 0x4ED8AA4A, 0x5B9CCA4F, 0x682E6FF3,
   0x748F82EE, 0x78A5636F, 0x84C87814, 0x8CC70208, 0x90BEFFFA, 0xA4506CEB, 0xBEF9A3F7, 0xC67178F2]

/-- The message with its padding: 0x80, zeros, the bit length in eight bytes, big-endian. -/
def shaPad (bs : List Byte) : List Byte :=
  bs ++ [0x80] ++ List.replicate ((119 - bs.length % 64) % 64) 0 ++ (natLe 8 (8 * bs.length)).reverse

/-- The next word of the schedule, the last sixteen words standing newest first. -/
def shaNext (w : List W32) : W32 :=
  let g := fun (n : Nat) => (w[n]?.getD 0 : W32)
  let s0 := (g 14).rotateRight 7 ^^^ (g 14).rotateRight 18 ^^^ (g 14) >>> 3
  let s1 := (g 1).rotateRight 17 ^^^ (g 1).rotateRight 19 ^^^ (g 1) >>> 10
  s1 + g 6 + s0 + g 15

def shaSchedule : Nat → List W32 → List W32
  | 0, w => w
  | n + 1, w => shaSchedule n (shaNext w :: w)

def shaRound (h : List W32) (x : W32 × W32) : List W32 :=
  match h with
  | [a, b, c, d, e, f, g, k] =>
    let s1 := e.rotateRight 6 ^^^ e.rotateRight 11 ^^^ e.rotateRight 25
    let ch := (e &&& f) ^^^ (~~~e &&& g)
    let t1 := k + s1 + ch + x.1 + x.2
    let s0 := a.rotateRight 2 ^^^ a.rotateRight 13 ^^^ a.rotateRight 22
    let mj := (a &&& b) ^^^ (a &&& c) ^^^ (b &&& c)
    [t1 + s0 + mj, a, b, c, d + t1, e, f, g]
  | _ => h

/-- The words of a block, big-endian, first word first. -/
def shaWords : Nat → List Byte → List W32
  | 0, _ => []
  | n + 1, bs => BitVec.ofNat 32 (leNat (bs.take 4).reverse) :: shaWords n (bs.drop 4)

def shaBlock (h : List W32) (bs : List Byte) : List W32 :=
  let w := (shaSchedule 48 (shaWords 16 bs).reverse).reverse
  let r := (shaK.zip w).foldl shaRound h
  (h.zip r).map fun x => x.1 + x.2

def shaBlocks : Nat → List W32 → List Byte → List W32
  | 0, h, _ => h
  | n + 1, h, bs => shaBlocks n (shaBlock h (bs.take 64)) (bs.drop 64)

/-- The 32 bytes of a SHA-256 digest. -/
def sha256 (bs : List Byte) : List Byte :=
  let m := shaPad bs
  (shaBlocks (m.length / 64) shaInit m).flatMap fun w => (natLe 4 w.toNat).reverse

end Sys2Proof.Machine
end

