-- ==== Sys2Proof/Machine/Object.lean ====
section
/-! DEFINITION. Launch records and code objects: the checks of R115 and of R30 in its order, and what a launch takes from them (R12 to
R29, R114, R116, R125, R129). -/

namespace Sys2Proof.Machine

open Sys2Proof

-- statuses (R30, R121)

def stFormat : Nat := 1
def stVersion : Nat := 2
def stNotLinked : Nat := 3
def stMalformed : Nat := 4
def stUnknownSection : Nat := 5
def stNoteMandatory : Nat := 6
def stNoKernel : Nat := 7
def stKind : Nat := 8
def stResource : Nat := 9
def stCapability : Nat := 10
def stRecord : Nat := 11
def stObjFault : Nat := 12
def stKilled : Nat := 16
def stLost : Nat := 17
def stEngFault : Nat := 18

/-- The least multiple of `a` not below `n`. -/
def alignUp (n a : Nat) : Nat := (n + a - 1) / a * a

/-- A list of checks: the status of the first that fails. -/
def firstBad : List (Bool × Nat) → Option Nat
  | [] => none
  | (b, st) :: t => if b then some st else firstBad t

-- launch records (R114, R115)

def rkObj (r : List Byte) : Nat := bits (dw r 0) 54 0
def rkKernel (r : List Byte) : Nat := bits (dw r 1) 63 48
def rkId (r : List Byte) : Nat := bits (dw r 1) 47 32
def rkResident (r : List Byte) : Bool := (dw r 1).testBit 7
def rkMinTier (r : List Byte) : Nat := bits (dw r 1) 6 5
def rkPrio (r : List Byte) : Nat := bits (dw r 1) 2 0
def rkTeam (r : List Byte) : Nat := bits (dw r 2) 63 58
def rkClw (r : List Byte) : Nat := bits (dw r 2) 57 54
def rkClh (r : List Byte) : Nat := bits (dw r 2) 53 51
def rkGrid (r : List Byte) : Nat × Nat × Nat := (bits (dw r 2) 15 0, bits (dw r 2) 31 16, bits (dw r 2) 47 32)
def rkHandler (r : List Byte) : Nat := bits (dw r 3) 63 32
def rkBudget (r : List Byte) : Nat := bits (dw r 3) 31 28
def rkScratch (r : List Byte) : Nat := bits (dw r 3) 27 15
def rkAccum (r : List Byte) : Nat := bits (dw r 3) 14 10
def rkHovr (r : List Byte) : Bool := (dw r 3).testBit 9
def rkPrivVa (r : List Byte) : Nat := bits (dw r 4) 54 0
def rkPrivLen (r : List Byte) : Nat := bits (dw r 5) 31 0
def rkCapTbl (r : List Byte) : Nat := bits (dw r 6) 54 0
def rkArg (r : List Byte) : Nat := bits (dw r 7) 54 0
def gridTeams (g : Nat × Nat × Nat) : Nat := g.1 * g.2.1 * g.2.2

/-- The used ranges among dwords `a` to `a + 3`, first byte and the byte after the last. -/
def rkRanges (r : List Byte) (a : Nat) : List (Nat × Nat) :=
  (List.range 4).filterMap fun i =>
    let x := dw r (a + i)
    if bits x 24 0 = 0 then none else some (bits x 63 25 * 65536, (bits x 63 25 + bits x 24 0) * 65536)

/-- R115: the record is refused. -/
def recordBad (r : List Byte) : Bool :=
  let g := rkGrid r
  bits (dw r 0) 63 55 != 0 || bits (dw r 1) 31 8 != 0 || bits (dw r 1) 4 3 != 0 || bits (dw r 2) 50 48 != 0 ||
  bits (dw r 3) 8 0 != 0 || bits (dw r 4) 63 55 != 0 || bits (dw r 5) 63 32 != 0 || bits (dw r 6) 63 55 != 0 ||
  bits (dw r 7) 63 55 != 0 || g.1 == 0 || g.2.1 == 0 || g.2.2 == 0 || decide (2 ^ 32 - 1 < gridTeams g) ||
  rkBudget r == 1 || decide (8 < rkBudget r) || decide (6144 < rkScratch r) || decide (24 < rkAccum r) ||
  decide (32 < rkTeam r) || decide (8 < rkClw r) || decide (6 < rkClh r) || rkObj r % 8 != 0 || rkPrivVa r % 65536 != 0 ||
  rkCapTbl r % 1024 != 0 || (rkRanges r 8 ++ rkRanges r 12).any fun x => decide (2 ^ 55 < x.2)

-- code objects (R11 to R20)

/-- The doubleword at a byte offset of an object. -/
def odw (o : List Byte) (off : Nat) : Nat := leNat ((o.drop off).take 8)
def oLen (o : List Byte) : Nat := bits (odw o 8) 31 0
def oSectOff (o : List Byte) : Nat := bits (odw o 16) 63 32
def oNSect (o : List Byte) : Nat := bits (odw o 16) 15 0
def oNoteOff (o : List Byte) : Nat := bits (odw o 24) 63 32
def oNNote (o : List Byte) : Nat := bits (odw o 24) 15 0
def oStrOff (o : List Byte) : Nat := bits (odw o 32) 63 32
def oStrLen (o : List Byte) : Nat := bits (odw o 32) 31 0

/-- A name lies wholly inside the string table (R11). Log 39 (DEDUCED). -/
def nameOk (o : List Byte) (n : Nat) : Bool := (((o.drop (oStrOff o)).take (oStrLen o)).drop n).any (· == 0)

/-- Steps 1 to 4; a NOTEOFF that is misaligned or leads out of the object is among the header fields of step 4. Log 39 (DEDUCED). -/
def headerStatus (o : List Byte) : Option Nat :=
  firstBad [
    (bits (odw o 0) 31 0 != 0x4F434741 || bits (odw o 0) 47 32 != 1 ||
      bits (odw o 56) 31 0 != (crc32c (o.take 56)).toNat, stFormat),
    (bits (odw o 0) 63 56 != 1 || bits (odw o 0) 55 48 != 0, stVersion),
    (!(odw o 40).testBit 0, stNotLinked),
    (bits (odw o 8) 63 32 != 0 || bits (odw o 16) 31 16 != 0 || bits (odw o 24) 31 16 != 0 || bits (odw o 40) 63 1 != 0 ||
      odw o 48 != 0 || bits (odw o 56) 63 32 != 0 || oLen o % 8 != 0 || decide (oLen o < 64) || oNSect o == 0 ||
      decide (1024 < oNSect o) || decide (1024 < oNNote o) || oSectOff o % 8 != 0 || oStrOff o % 8 != 0 ||
      decide (oLen o < oSectOff o + 32 * oNSect o) || decide (oLen o < oStrOff o + oStrLen o) ||
      (oNNote o != 0 && (oNoteOff o % 8 != 0 || decide (oLen o < oNoteOff o + 8))), stMalformed)]

/-- A section header (R14). -/
structure Sect where
  typ : Nat
  ign : Bool
  ex : Bool
  wr : Bool
  zfill : Bool
  name : Nat
  off : Nat
  flen : Nat
  mlen : Nat
  alog : Nat
  link : Nat
  resv : Bool
  deriving DecidableEq, Repr

def sect (o : List Byte) (i : Nat) : Sect :=
  let w := fun k => odw o (oSectOff o + 32 * i + 8 * k)
  { typ := bits (w 0) 15 0, ign := (w 0).testBit 16, ex := (w 0).testBit 17, wr := (w 0).testBit 18, zfill := (w 0).testBit 19
    name := bits (w 0) 63 32, off := bits (w 1) 63 32, flen := bits (w 1) 31 0, mlen := bits (w 2) 31 0, alog := bits (w 2) 63 56
    link := bits (w 3) 15 0, resv := bits (w 0) 31 20 != 0 || bits (w 2) 55 32 != 0 || bits (w 3) 63 16 != 0 }

def sects (o : List Byte) : List Sect := (List.range (oNSect o)).map (sect o)

/-- EXEC, WR and ZFILL as R15 requires them of a known type. Log 40 (DEDUCED). -/
def flagsOk (h : Sect) : Bool :=
  let f := (h.ex, h.wr, h.zfill)
  match h.typ with
  | 1 => f == (true, false, false)
  | 2 => f == (false, false, false)
  | 3 => f == (false, true, false)
  | 4 => f == (false, true, true)
  | _ => f == (false, false, false)

/-- Step 5 for one section, `before` the ones of lower index. A section of no bytes whose offset lies beyond the object has its contents
outside. Log 39 (DEDUCED), 90 (DESIGN CHOICE). -/
def sectStatus (o : List Byte) (all before : List Sect) (h : Sect) : Option Nat :=
  if h.typ = 0 then some stMalformed
  else if 7 < h.typ then
    firstBad [(!h.ign, stUnknownSection), (h.resv || decide (h.mlen < h.flen) || decide (oLen o < h.off + h.flen), stMalformed)]
  else
    firstBad [(h.resv || !flagsOk h || !nameOk o h.name || decide (h.alog < 3) || decide (29 < h.alog) || decide (h.mlen < h.flen) ||
      (h.zfill && h.flen != 0) || decide (oLen o < h.off + h.flen) ||
      ((h.typ == 1 || h.typ == 5) && before.any fun x => x.typ == h.typ) ||
      (h.typ == 5 && (h.off % 8 != 0 || ((all[h.link]?.map (·.typ)).getD 0) != 1)), stMalformed)]

/-- Log 40 (DEDUCED). -/
def sectsStatus (o : List Byte) (all : List Sect) (before : List Sect) : List Sect → Option Nat
  | [] => if all.any (fun x => x.typ == 1) then none else some stMalformed
  | h :: t =>
    match sectStatus o all before h with
    | some st => some st
    | none => sectsStatus o all (before ++ [h]) t

/-- What the notes give: the tier (R21) and the BUILDID (R109). -/
structure Notes where
  tier : Nat
  build : List Byte

/-- Step 6: the notes in order from an offset. A skipped note must lie in the object as a known one does, and the last of several BUILDIDs
counts. Log 39 (DEDUCED), 40 (DEDUCED), 90 (DESIGN CHOICE). -/
def notesWalk (o : List Byte) : Nat → Nat → Notes → Except Nat Notes
  | 0, _, r => .ok r
  | n + 1, a, r =>
    let h := odw o a
    let len := bits h 63 32
    let typ := bits h 15 0
    let known := typ == 1 || typ == 2 || typ == 3
    match firstBad [
        (decide (oLen o < a + 8), stMalformed),
        (!known && h.testBit 16, stNoteMandatory),
        (bits h 31 17 != 0 || len % 8 != 0 || decide (65536 < len) || decide (oLen o < a + 8 + len) || (typ == 2 && len != 32) ||
          (typ == 3 && (len != 8 || bits (odw o (a + 8)) 63 2 != 0)), stMalformed)] with
    | some st => .error st
    | none =>
      notesWalk o n (a + 8 + len)
        { tier := if typ = 3 then max r.tier (bits (odw o (a + 8)) 1 0) else r.tier
          build := if typ = 2 then (o.drop (a + 8)).take 32 else r.build }

-- the image (R17)

/-- The loaded sections with their places in the image. -/
def layout : Nat → List Sect → List (Sect × Nat)
  | _, [] => []
  | cur, h :: t =>
    if h.typ ≤ 4 then
      let a := alignUp cur (max 65536 (2 ^ h.alog))
      (h, a) :: layout (a + h.mlen) t
    else layout cur t

def imageSections (l : List (Sect × Nat)) : List Section :=
  l.map fun x => { base := x.2, size := alignUp x.1.mlen 65536, r := true, w := x.1.wr, x := x.1.ex }

def imageSize (l : List (Sect × Nat)) : Nat := l.foldl (fun n x => max n (x.2 + alignUp x.1.mlen 65536)) 0
def imageAlign (l : List (Sect × Nat)) : Nat := l.foldl (fun n x => max n (2 ^ x.1.alog)) 65536

/-- The bytes of the image from its base upward. -/
def imageBytes (o : List Byte) (l : List (Sect × Nat)) : Mem :=
  l.foldl (fun m x => Mem.writeList m x.2 ((o.drop x.1.off).take x.1.flen)) []

-- kernels (R22 to R27) and the capability table (R129)

def capDwords (t : List Byte) (i : Nat) : W64 × W64 := (BitVec.ofNat 64 (dw t (2 * i)), BitVec.ofNat 64 (dw t (2 * i + 1)))

/-- A kernel's declarations: slot, POP, PUSH; the queue's name is not read. Log 40 (DEDUCED), 90 (DESIGN CHOICE). -/
def kernelCaps (o : List Byte) (k : Sect) (off n : Nat) : List (Nat × Bool × Bool) :=
  (List.range n).map fun i =>
    let w := odw o (k.off + off + 8 * i)
    (bits w 5 0, w.testBit 7, w.testBit 6)

/-- The bytes of a private slot (R125). -/
def privSlotBytes (p : Nat) : Nat := 65536 + alignUp (2048 + 64 * p) 65536

/-- Steps 1 to 11 of R30 with R116 and R125: the status of the first check that fails, or the launch that enters the table, its
addresses counted from the base of its image, and its base holding the alignment it needs. `cores` counts the partition's cores;
`roomy` is the check of R126. A KERNELS section too short for its count holds no kernel; CAPOFF must lie in the section even where NCAP is
0; two declarations of one slot are found at step 8. Log 40 (DEDUCED), 46 (DEDUCED), 90 (DESIGN CHOICE). -/
def objectCheck (r o caps : List Byte) (cores : Nat) (base : Launch) (roomy : Launch → Bool) : Except Nat Launch :=
  match headerStatus o with
  | some st => .error st
  | none =>
    let ss := sects o
    match sectsStatus o ss [] ss with
    | some st => .error st
    | none =>
      match notesWalk o (oNNote o) (oNoteOff o) ⟨0, List.replicate 32 0⟩ with
      | .error st => .error st
      | .ok notes =>
        match ss.find? fun h => h.typ == 5 with
        | none => .error stNoKernel
        | some k =>
          let count := if k.flen < 8 then 0 else bits (odw o k.off) 15 0
          if count ≤ rkKernel r then .error stNoKernel
          else
            let a := k.off + 8 + 64 * rkKernel r
            let w := fun n => odw o (a + 8 * n)
            let lay := layout 0 ss
            let code := ((lay.find? fun x => x.1.typ == 1).map fun x => (x.1.mlen, x.2)).getD (0, 0)
            let entry := bits (w 0) 31 0
            let hnd := (w 1).testBit 0
            let dhan := bits (w 1) 63 32
            let growmax := bits (w 2) 63 61
            let regs := bits (w 2) 60 58
            let accum := bits (w 2) 57 53
            let dteam := bits (w 2) 52 47
            let dclw := bits (w 2) 46 43
            let dclh := bits (w 2) 42 40
            let scratch := bits (w 2) 39 27
            let priv := 16 * bits (w 2) 26 11
            let capoff := bits (w 3) 63 32
            let ncap := bits (w 3) 6 0
            let decl := kernelCaps o k capoff ncap
            let team := if rkTeam r = 0 then dteam else rkTeam r
            let clw := if rkClw r = 0 then dclw else rkClw r
            let clh := if rkClh r = 0 then dclh else rkClh r
            let han := if rkHovr r then some (rkHandler r) else if hnd then some dhan else none
            let shapeBad := fun (t cw ch : Nat) =>
              t == 0 || decide (32 < t) || cw == 0 || decide (8 < cw) || ch == 0 || decide (6 < ch) || decide (12 < cw * ch) ||
              ((w 1).testBit 2 && cw % 2 == 1)
            let badAt := fun (x : Nat) => x % 8 != 0 || decide (code.1 ≤ x)
            let dbudget := 32 + 16 * regs
            let budget := if rkBudget r = 0 then dbudget else 16 * rkBudget r
            let scr := if rkScratch r = 0 then scratch else rkScratch r
            let acc := if rkAccum r = 0 then accum else rkAccum r
            let l : Launch := { base with
              resident := rkResident r, team := team, clw := clw, clh := clh, budget := budget
              growCeil := max (32 + 16 * growmax) budget, scratch := scr * 256, accum := acc, priv := priv
              entry := code.2 + entry, handler := han.map fun h => code.2 + h, pairOk := (w 1).testBit 2
              caps := (List.range 64).map (capDwords caps), imageLen := imageSize lay, image := imageBytes o lay
              sections := imageSections lay, buildId := notes.build, needTier := max notes.tier (rkMinTier r)
              imageBase := imageAlign lay }
            match firstBad [
                (decide (k.flen < 8 + 64 * (rkKernel r + 1)) || bits (w 1) 31 3 != 0 || bits (w 2) 10 0 != 0 ||
                  bits (w 3) 31 7 != 0 || bits (w 4) 63 32 != 0 || w 5 != 0 || w 6 != 0 || w 7 != 0 || !nameOk o (bits (w 0) 63 32) ||
                  decide (24 < accum) || decide (6144 < scratch) || decide (6 < regs) || decide (6 < growmax) ||
                  decide (growmax < regs) || shapeBad dteam dclw dclh || shapeBad team clw clh || badAt entry ||
                  badAt dhan || (han.map badAt).getD false || decide (64 < ncap) || (ncap != 0 && capoff % 8 != 0) ||
                  decide (k.flen < capoff + 8 * ncap) || !(decl.map (·.1)).Nodup ||
                  gridTeams (rkGrid r) % (clw * clh) != 0, stMalformed),
                ((w 1).testBit 1 != rkResident r, stKind),
                (decide (budget < dbudget) || decide (scr < scratch) || decide (acc < accum) || decide (team < dteam) ||
                  decide (clw < dclw) || decide (clh < dclh) ||
                  decide (384 < (team + 3) / 4 * budget) || decide (1572864 < scr * 256) || decide (24 < acc) ||
                  decide (rkPrivLen r * 65536 < 32 * cores * privSlotBytes priv) || (rkResident r && !roomy l), stResource),
                (decl.any fun c =>
                  let e := capDwords caps c.1
                  !capValid e || (c.2.1 && !e.1.getLsbD 61) || (c.2.2 && !e.1.getLsbD 62), stCapability)] with
            | some st => .error st
            | none => .ok l

end Sys2Proof.Machine
end

