-- ==== Sys2Proof/Machine/Place.lean ====
section
/-! DEFINITION. The work distributor: which cores can take a team, candidate rectangles, eviction for room, the start of teams and groups
(R49, R118, R123 to R126, R130 to R134). -/

namespace Sys2Proof.Machine

open Sys2Proof

/-- The partition's cores in ascending global core number (R124). -/
def partCores (p : Part) : List Nat :=
  (List.range 24).flatMap fun k => if p.sectors.contains k then (List.range 16).map fun i => 16 * k + i else []

/-- The order of launches in a table entry's ranges (R118). -/
def rangeSetsMeet (x y : List (Nat × Nat)) : Bool := x.any fun a => y.any fun b => decide (a.1 < b.2 ∧ b.1 < a.2)
def conflicts (l e : Launch) : Bool := rangeSetsMeet l.rranges e.wranges || rangeSetsMeet l.wranges e.rranges || rangeSetsMeet l.wranges e.wranges

/-- The launches of a partition's table in order. -/
def tableLaunches (s : State) (p : Part) : List Launch := p.table.filterMap s.launch?

/-- A launch is held while it conflicts with an earlier one. -/
def heldBy (l : Launch) : List Launch → Bool
  | [] => false
  | e :: t => if e.lid = l.lid then false else conflicts l e || heldBy l t

def clusterTeams (l : Launch) : Nat := l.clw * l.clh
def clusterCount (l : Launch) : Nat := gridTeams l.grid / max (clusterTeams l) 1

-- what a core can take (R131)

/-- What the incoming team needs of each core. -/
structure Room where
  lid : Nat
  team : Nat
  budget : Nat
  scratch : Nat
  tiles : Nat

def roomOf (l : Launch) : Room := ⟨l.lid, l.team, l.budget, l.scratch, l.accum⟩

/-- The team's groups on a sub-core. -/
def groupsOn (team sub : Nat) : Nat := (team + 3 - sub) / 4

/-- Groups that hold slots and registers on a core. -/
def residents (s : State) (core : Nat) : List Group := s.groups.filter fun g => g.core == core && decide (g.slot < 8)
def roomSlots (gs : List Group) (sub : Nat) : Nat := 8 - (gs.filter (·.sub == sub)).length
def roomRegs (gs : List Group) (sub : Nat) : Nat := 384 - ((gs.filter (·.sub == sub)).map fun g => g.sr.budget).sum
def scratchUsed (ts : List Team) : Nat := (ts.map fun t => alignUp t.scratchSize 256).sum
def tilesUsed (ts : List Team) : Nat := ((ts.filter fun t => !t.ended).map fun t => t.ntiles).sum
/-- Teams whose scratchpad is allocated on a core. -/
def coreTeams (s : State) (core : Nat) : List Team := s.teams.filter fun t => t.core == core && t.resident

def subsFit (gs : List Group) (r : Room) (sub : Nat) : Bool :=
  decide (groupsOn r.team sub ≤ roomSlots gs sub ∧ groupsOn r.team sub * r.budget ≤ roomRegs gs sub)
def spaceFits (ts : List Team) (r : Room) : Bool := decide (scratchUsed ts + r.scratch ≤ 1572864 ∧ tilesUsed ts + r.tiles ≤ 24)

/-- The core takes the team beside the groups and teams named. -/
def fitsBeside (gs : List Group) (ts : List Team) (r : Room) : Bool :=
  (List.range 4).all (subsFit gs r) && spaceFits ts r

/-- A core readmits its evicted groups of a launch before a new one of it starts (R134). -/
def owesReturn (s : State) (core lid : Nat) : Bool := s.saved.any fun x => x.g.core == core && x.g.lid == lid

def coreFits (s : State) (core : Nat) (r : Room) : Bool :=
  !(s.core core).fenced && !owesReturn s core r.lid && fitsBeside (residents s core) (coreTeams s core) r

/-- A core is avoid-marked (R132). -/
def avoided (s : State) (core : Nat) : Bool := (s.core core).heat || (s.core core).droop

-- candidates (R131)

def rect (die row col w h : Nat) : List Nat := (List.range (w * h)).map fun i => 48 * die + 8 * (row + i / w) + col + i % w

/-- The tier a launch runs at: that of its start, once it has started (R100). -/
def launchTier (s : State) (l : Launch) : Nat := if l.tstart.isSome then l.startTier else s.boot.tier

/-- The candidate rectangles in order; at tier 1 die 0 alone serves (R100). -/
def candidates (s : State) (p : Part) (l : Launch) : List (List Nat) :=
  let dies := if launchTier s l = 0 then [] else if launchTier s l = 1 then [0] else List.range 8
  (dies.flatMap fun d => (List.range (7 - l.clh)).flatMap fun r => (List.range (9 - l.clw)).map fun c => rect d r c l.clw l.clh).filter
    fun cs => cs.all fun c => p.sectors.contains (c / 16)

/-- Every core of the partition is avoid-marked (R133). -/
def allAvoided (s : State) (p : Part) : Bool := (partCores p).all (avoided s)

def hottest (s : State) (cs : List Nat) : Nat := cs.foldl (fun m c => max m (s.core c).temp) 0

/-- The first of the candidates whose hottest core is coolest. -/
def coolest (s : State) : List (List Nat) → Option (List Nat)
  | [] => none
  | cs :: t =>
    match coolest s t with
    | none => some cs
    | some ds => if hottest s cs ≤ hottest s ds then some cs else some ds

/-- The candidate a cluster goes to (R131, R133). -/
def chooseRect (s : State) (p : Part) (l : Launch) : Option (List Nat) :=
  if allAvoided s p then coolest s ((candidates s p l).filter fun cs => cs.all fun c => coreFits s c (roomOf l))
  else (candidates s p l).find? fun cs => cs.all fun c => !avoided s c && coreFits s c (roomOf l)

-- groups and teams at their start (R49, R123, R125)

/-- A group at its start. -/
def startGroup (l : Launch) (t : Team) (gid idx slot pslot born now : Nat) : Group :=
  let regs := Regs.start
  let x := t.t % max l.grid.1 1
  let y := t.t / max l.grid.1 1 % max l.grid.2.1 1
  let z := t.t / max (l.grid.1 * l.grid.2.1) 1
  let put := fun (r : Vector W64 64) (n v : Nat) => r.setIfInBounds n (BitVec.ofNat 64 v)
  let sv := put (put (put (put (put (put regs.s 1 l.argAddr) 2 l.imageBase) 3 (x + y * 2 ^ 16 + z * 2 ^ 32)) 4 t.t)
    5 (idx + t.rank * 2 ^ 8 + t.cluster * 2 ^ 16)) 6 l.launchId
  { gid := gid, part := l.part, lid := l.lid, tid := t.tid, idx := idx, core := t.core, sub := idx % 4, slot := slot
    privSlot := pslot, born := born, regs := { regs with s := sv }
    sr := SpecRegs.start l.budget (BitVec.ofNat 64 (l.privVa + pslot * privSlotBytes l.priv + 67584))
    trap := TrapCtx.start, tags := Vector.replicate 8 none, win := [], pc := BitVec.ofNat 64 l.entry, runPos := 0, rob := [], buf := []
    bufStop := none, fetched := false, bufRun := 0, begun := false, delivering := false, ready := false, readySince := now, startKnown := none, parkedAt := 0, parkedClk := 0
    wait := .none, waitFrom := none, pages := []
    served := false, codeServed := [], spoilt := false, wmHw := [], wmDepth := 0, copyS := Stream.reset, matrixS := Stream.reset, gatherS := Stream.reset
    f4 := none, markOp := none, barTok := none, task := none, region := Region.reset, stbuf := [], remWr := [], remOp := none, recStep := none, merge := []
    exiting := false, closing := false, killed := false, evict := none, drainFrom := none, preempt := false }

/-- A team at its start (R34, R44, R49). -/
def startTeam (l : Launch) (tid t rank cluster core : Nat) (live : List Nat) : Team where
  tid := tid
  lid := l.lid
  part := l.part
  t := t
  rank := rank
  cluster := cluster
  core := core
  c := Vector.replicate 16 0
  cp := 0
  cLast := Vector.replicate 16 (0, 0)
  cPrev := Vector.replicate 16 (0, false, [])
  scratchSize := l.scratch
  scratch := Store.empty
  resident := true
  ntiles := l.accum
  acc := []
  accP := []
  live := live
  killCause := none
  lost := false
  ended := false

/-- Private slots of a launch in use on a core. -/
def privUsed (s : State) (core lid : Nat) : List Nat :=
  ((s.groups ++ s.saved.map (·.g)).filter fun g => g.core == core && g.lid == lid).map fun g => g.privSlot % 32

/-- The lowest number from 0 to n − 1 not in a list. -/
def lowestFree (used : List Nat) (n : Nat) : Nat := ((List.range n).find? fun k => !used.contains k).getD 0

/-- A free group slot of a sub-core; the spec does not say which one is taken. Log 41 (DESIGN CHOICE). -/
def pickSlot (s : State) (core sub : Nat) : Nat × State :=
  let free := (List.range 8).filter fun k => !((residents s core).any fun g => g.sub == sub && g.slot == k)
  let (k, s) := s.choose free.length
  (free[k]?.getD 0, s)

/-- The groups idx to idx + n − 1 of a team. -/
def startGroups (l : Launch) (t : Team) (coreIx idx : Nat) : Nat → State → State
  | 0, s => s
  | n + 1, s =>
    let (slot, s) := pickSlot s t.core (idx % 4)
    let q := 32 * coreIx + lowestFree (privUsed s t.core l.lid) 32
    let g := startGroup l t s.nextId idx slot q s.nextId s.now
    startGroups l t coreIx (idx + 1) n { s with
      groups := s.groups ++ [g], nextId := s.nextId + 1
      teams := s.teams.map fun x => if x.tid = t.tid then { x with live := x.live ++ [g.gid] } else x }

/-- The teams of a cluster on the cores of its rectangle, from rank `rank`. -/
def startTeams (p : Part) (l : Launch) (cluster rank : Nat) : List Nat → State → State
  | [], s => s
  | core :: t, s =>
    let team := startTeam l s.nextId (cluster * clusterTeams l + rank) rank cluster core []
    let s := { s with teams := s.teams ++ [team], nextId := s.nextId + 1 }
    let s := s.modCore core fun c => { c with asleep := false, wakeIn := none }
    startTeams p l cluster (rank + 1) t (startGroups l team ((partCores p).idxOf core) 0 l.team s)

/-- The slots whose digests hold a measurement, with their loads (R108). Log 38 (DEDUCED). -/
def maskFor (s : State) (part : Nat) (meas : List Byte) : List (Nat × Nat) :=
  (s.slots.filter fun k => k.2.owner == part && !k.2.closed && k.2.digests.contains meas).map fun k => (k.1, k.2.load)

/-- The launch starts with its first team (R100, R108, R120): its tier, time and key mask are those of now. Log 38 (DEDUCED). -/
def beginLaunch (s : State) (l : Launch) : Launch :=
  if l.tstart.isSome then l else { l with tstart := some s.ns, startTier := s.boot.tier, keymask := maskFor s l.part l.meas }

/-- Places a launch's next cluster on the cores of a rectangle. -/
def placeOn (s : State) (p : Part) (l : Launch) (cs : List Nat) : State :=
  let hot := allAvoided s p
  let l1 := beginLaunch s l
  let s1 := startTeams p l1 l.nextCluster 0 cs s
  let new := s1.teams.drop s.teams.length
  let s1 := if hot then
      new.foldl (fun s t => s.modCore t.core fun c => { c with hotTeams := c.hotTeams ++ [t.tid] }) s1
    else s1
  s1.setLaunch { l1 with
    nextCluster := l.nextCluster + 1, waitSince := none, starved := false, hotHalf := l1.hotHalf || hot }

/-- Places every remaining cluster of a resident launch, or none (R126). -/
def placeAll (p : Part) (lid : Nat) : Nat → State → Except State State
  | 0, s => .ok s
  | n + 1, s =>
    match s.launch? lid with
    | none => .ok s
    | some l =>
      match chooseRect s p l with
      | some cs => placeAll p lid n (placeOn s p l cs)
      | none => .error s

/-- R126's check: the clusters of a resident launch fit the partition with no other team resident, at tier 3, with no core marked and with those
that are fenced left out. Log 104 (DESIGN CHOICE). -/
def roomy (s : State) (p : Part) (l : Launch) : Bool :=
  let s := { s with
    groups := [], teams := [], saved := [], launches := [{ l with lid := 0 }]
    boot := { s.boot with tier := 3 }
    cores := s.cores.map fun x => (x.1, { x.2 with heat := false, droop := false }) }
  match placeAll p 0 (clusterCount l) s with
  | .ok _ => true
  | .error _ => false

-- room by eviction (R134, R421)

/-- A group of lower priority that is not leaving yet. -/
def prioOf (s : State) (lid : Nat) : Nat := ((s.launch? lid).map (·.prio)).getD 0

/-- Comes before as a victim: lower priority, then younger, then the higher sub-core and slot. -/
def victimBefore (s : State) (a b : Group) : Bool :=
  let pa := prioOf s a.lid
  let pb := prioOf s b.lid
  decide (pa < pb) || (pa == pb && (decide (b.born < a.born) || (a.born == b.born && (decide (b.sub < a.sub) ||
    (a.sub == b.sub && decide (b.slot < a.slot))))))

def firstVictim (s : State) : List Group → Option Group
  | [] => none
  | g :: t =>
    match firstVictim s t with
    | none => some g
    | some h => if victimBefore s h g then some h else some g

/-- Which groups of a core leave so that the team fits, one unit at a time, each the first in the rule's order that frees something still lacked
(R421); `gone` are those already leaving. None where it cannot be made to fit. -/
def evictPlan (s : State) (core prio : Nat) (r : Room) : Nat → List Nat → Option (List Nat)
  | 0, _ => none
  | n + 1, gone =>
    let gs := (residents s core).filter fun g => !gone.contains g.gid
    let away := fun (t : Team) => t.live.all fun k => gone.contains k || s.saved.any (·.g.gid == k)
    let ts := (coreTeams s core).filter fun t => t.live.isEmpty || !away t
    if fitsBeside gs ts r then some gone
    else
      let low := gs.filter fun g => decide (prioOf s g.lid < prio) && !g.exiting
      if !spaceFits ts r then
        let lackS := decide (1572864 < scratchUsed ts + r.scratch)
        let lackT := decide (24 < tilesUsed ts + r.tiles)
        let useful := low.filter fun g =>
          (ts.any fun t => t.tid == g.tid && ((lackS && decide (0 < t.scratchSize)) || (lackT && !t.ended && decide (0 < t.ntiles)))) ||
          gs.any fun x => x.tid == g.tid && !subsFit gs r x.sub
        match firstVictim s useful with
        | some v => evictPlan s core prio r n (gone ++ (gs.filter (·.tid == v.tid)).map (·.gid))
        | none => none
      else
        match firstVictim s (low.filter fun g => !subsFit gs r g.sub) with
        | some v => evictPlan s core prio r n (gone ++ [v.gid])
        | none => none

/-- Contexts of a sub-core that the GROW rules have taken or are taking: the first of them stands in the sub-core's reserve (R425). -/
def growContexts (s : State) (core sub : Nat) : Nat :=
  (s.saved.countP fun x => x.g.core == core && x.g.sub == sub && x.byGrow) +
  s.groups.countP fun g => g.core == core && g.sub == sub && decide (g.evict = some true)

/-- Contexts of a core in the 60 places outside the four reserves, those of the groups that are leaving among them. -/
def generalContexts (s : State) (core : Nat) : Nat :=
  (s.saved.countP fun x => x.g.core == core && !x.byGrow) + (s.groups.countP fun g => g.core == core && decide (g.evict = some false)) +
  ((List.range 4).map fun k => growContexts s core k - 1).sum

/-- Teams of a core that are evicted, or would be with these groups gone. -/
def awayTeams (s : State) (core : Nat) (gone : List Nat) : Nat :=
  s.teams.countP fun t => t.core == core && !t.live.isEmpty && t.live.all fun k =>
    gone.contains k || s.saved.any (·.g.gid == k) || s.groups.any fun g => g.gid == k && g.evict.isSome

/-- The context store has room for what would leave a core (R425): at most 64 contexts, one of each sub-core kept for the GROW rules, and 8
teams. -/
def storeRoom (s : State) (core : Nat) (gone : List Nat) : Bool :=
  let fresh := gone.filter fun k => s.groups.any fun g => g.gid == k && g.evict.isNone
  decide (generalContexts s core + fresh.length ≤ 60 ∧ awayTeams s core gone ≤ 8)

/-- It has room for a group that leaves under the GROW rules (R425). -/
def growRoom (s : State) (g : Group) : Bool :=
  decide (growContexts s g.core g.sub = 0 ∨ generalContexts s g.core < 60) && decide (awayTeams s g.core [g.gid] ≤ 8)

/-- Groups of a core that are leaving already. -/
def leaving (s : State) (core : Nat) : List Nat := ((residents s core).filter fun g => g.evict.isSome).map (·.gid)

def rectPlan (s : State) (prio : Nat) (r : Room) : List Nat → Option (List Nat)
  | [] => some []
  | c :: t =>
    if (s.core c).fenced || owesReturn s c r.lid then none
    else
      match evictPlan s c prio r 64 (leaving s c), rectPlan s prio r t with
      | some a, some b => if storeRoom s c a then some (a ++ b) else none
      | _, _ => none

/-- The first candidate that would become fit if only groups of lower priority left, with the groups that are to leave. -/
def evictRect (s : State) (p : Part) (l : Launch) : Option (List Nat × List Nat) :=
  ((candidates s p l).filter fun cs => allAvoided s p || cs.all fun c => !avoided s c).findSome? fun cs =>
    (rectPlan s l.prio (roomOf l) cs).map fun v => (cs, v)

-- the distributor (R130)

/-- The ready launches with unplaced clusters, in descending priority and table order. -/
def readyLaunches (s : State) (p : Part) : List Launch :=
  let tab := tableLaunches s p
  let ready := tab.filter fun l => !heldBy l tab && decide (l.nextCluster < clusterCount l)
  (List.range 8).reverse.flatMap fun k => ready.filter (·.prio == k)

/-- Among launches whose cluster has waited 1 ms, the one to be served before others of its priority and below: the highest priority,
then the longest wait. Log 45 (DEDUCED). -/
def starving (ls : List Launch) : Option Launch :=
  (ls.filter (·.starved)).foldl (fun b l => match b with
    | none => some l
    | some x => if x.prio < l.prio ∨ (x.prio = l.prio ∧ l.waitSince.getD 0 < x.waitSince.getD 0) then some l else some x) none

/-- A launch may not place because a cluster of another has waited 1 ms. Log 45 (DEDUCED). -/
def barred (ls : List Launch) (l : Launch) : Bool :=
  match starving ls with
  | some x => x.lid != l.lid && decide (l.prio ≤ x.prio)
  | none => false

/-- What serving a launch comes to: a cluster is placed, or the launch waits, with the groups that are to leave for it marked. -/
inductive PlaceTry where
  | placed (s : State)
  | waits (s : State)

/-- The lowest unplaced cluster of every ready launch waits from when it became that (R130). -/
def noteWaits (s : State) (part : Nat) : State :=
  match s.part? part with
  | none => s
  | some p =>
    let ls := (readyLaunches s p).map (·.lid)
    { s with launches := s.launches.map fun l => if ls.contains l.lid then { l with waitSince := some (l.waitSince.getD s.now) } else l }
def markEvict (s : State) (v : List Nat) : State :=
  { s with groups := s.groups.map fun g => if v.contains g.gid && g.evict.isNone then { g with evict := some false } else g }

/-- Tries to place a launch's next cluster, or all of a resident launch. -/
def tryPlace (s : State) (p : Part) (l : Launch) : PlaceTry :=
  let room := fun (s0 : State) (l0 : Launch) =>
    match evictRect s0 p l0 with
    | some (_, v) => PlaceTry.waits (markEvict s v)
    | none => PlaceTry.waits s
  if l.resident then
    match placeAll p l.lid (clusterCount l - l.nextCluster) s with
    | .ok s' => .placed s'
    | .error s' => room s' ((s'.launch? l.lid).getD l)
  else
    match chooseRect s p l with
    | some cs => .placed (placeOn s p l cs)
    | none => room s l

/-- The first launch in order that places a cluster. -/
def serveLaunches (p : Part) (all : List Launch) (s : State) : List Launch → State
  | [] => s
  | l :: t =>
    if barred all l then serveLaunches p all s t
    else
      match tryPlace s p l with
      | .placed s => s
      | .waits s => serveLaunches p all s t

/-- CLUSTER_PLACE of a partition. -/
def clusterPlace (s : State) (part : Nat) : State :=
  match s.part? part with
  | none => s
  | some p =>
    if p.failed then s
    else
      let s := noteWaits s part
      let ls := readyLaunches s p
      noteWaits (serveLaunches p ls s ls) part

def execClusterPlace (part : Nat) (s : State) : Host.Outcome State Fault Refusal := .next (clusterPlace s part)

/-- One millisecond in units of State.now. -/
def msUnits : Nat := 34000000

def execClusterWaitTimeout (part lid : Nat) (s : State) : Host.Outcome State Fault Refusal :=
  .next (match s.launch? lid with
    | some l =>
      match l.waitSince with
      | some t => if l.part = part ∧ t + msUnits ≤ s.now then s.setLaunch { l with starved := true } else s
      | none => s
    | none => s)

/-- A ready launch of higher priority is to be placed on a core, so that the core readmits nothing below it (R134). -/
def coreClaimed (s : State) (p : Part) (core prio : Nat) : Bool :=
  (readyLaunches s p).any fun l => decide (prio < l.prio) &&
    (match chooseRect s p l with
      | some cs => cs.contains core
      | none => ((evictRect s p l).map fun x => x.1.contains core).getD false)

end Sys2Proof.Machine
end

