-- ==== Sys2Proof/Machine/Launch.lean ====
section
/-! DEFINITION. Host queue pairs and their apertures (R112, R113), the launch controller (R115, R117, R122), completion and release records
(R119, R120, R298). -/

namespace Sys2Proof.Machine

open Sys2Proof

-- queue pairs (R112)

def sqCap (q : QPair) : Nat := 2 ^ (q.sqlog + 4)
def cqCap (q : QPair) : Nat := 2 ^ (q.cqlog + 4)
/-- The 64 KiB frames a pair needs. -/
def pairFrames (q : QPair) : Nat := (128 * sqCap q + 32 * cqCap q + 128 + 65535) / 65536

/-- The partition's vault frames that no pair holds. Log 41 (DESIGN CHOICE). -/
def freeFrames (s : State) (p : Part) : List Nat :=
  let held := p.qpairs.toList.flatMap (·.frames)
  ((List.range 24).filter p.sectors.contains).flatMap fun k =>
    (List.range 4).flatMap fun q =>
      ((List.range (vaultSize s.boot.split / 65536)).map fun i =>
        (0x10000000000 + k / 3 * 2 ^ 30 + (4 * (k % 3) + q) * 2 ^ 26) / 65536 + i).filter fun f => !held.contains f

/-- The list begun at another place: the device chooses the frames it takes. Log 41 (DESIGN CHOICE). -/
def rotate {α : Type} (l : List α) (k : Nat) : List α := l.drop k ++ l.take k

-- the queue objects of a pair: both control blocks, then the submission slots, then the completion slots. Log 41 (DESIGN CHOICE).

def pairRoute : Route := .glob .vault .hw .clear 0 0
/-- A byte of the frames of a pair. -/
def pairPlace (q : QPair) (o : Nat) : Nat := q.frames.getD (o / 65536) 0 * 65536 + o % 65536
/-- A queue of a pair: its submission queue, or its completion queue. -/
inductive PairQ where
  | sub
  | com
  deriving DecidableEq, Repr
def PairQ.block (k : PairQ) (q : QPair) : Nat := pairPlace q (if k = .sub then 0 else 64)
def PairQ.cap (k : PairQ) (q : QPair) : Nat := if k = .sub then sqCap q else cqCap q
def PairQ.esz (k : PairQ) : Nat := if k = .sub then 128 else 32
/-- The slot of counter n. -/
def PairQ.slot (k : PairQ) (q : QPair) (n : Nat) : Nat :=
  pairPlace q ((if k = .sub then 128 else 128 + 128 * sqCap q) + k.esz * (n % k.cap q))
def PairQ.blk (k : PairQ) (s : State) (q : QPair) : QBlk := qBlkOf (qRead s pairRoute (k.block q))
/-- The block is corrupt (R347). -/
def PairQ.bad (k : PairQ) (s : State) (q : QPair) : Bool := qBad s pairRoute (k.block q)
/-- The records waiting. -/
def PairQ.len (k : PairQ) (s : State) (q : QPair) : Nat := if q.frames.isEmpty then 0 else (k.blk s q).count
/-- The oldest of them. -/
def PairQ.head (k : PairQ) (s : State) (q : QPair) : List Byte := homeBytes s pairRoute (k.slot q (k.blk s q).head) k.esz

/-- An empty queue in its frames. Log 41 (DESIGN CHOICE). -/
def PairQ.init (k : PairQ) (s : State) (part : Nat) (q : QPair) : State :=
  slotWrite s part pairRoute (k.block q)
    (qBytes
      { eszlog := if k = .sub then 7 else 5, caplog := (if k = .sub then q.sqlog else q.cqlog) + 4, scope := 6, block := false, multi := false,
        pois := false, task := false, owner := part, tail := 0, head := 0, resv := 0, free := k.cap q, slots := k.slot q 0 })

/-- A push or pop at the home: on a corrupt block R361, and nothing else; false then, and where a push finds the queue full. -/
def PairQ.push (k : PairQ) (s : State) (part : Nat) (q : QPair) (bs : List Byte) : State × Bool :=
  let b := k.blk s q
  if k.bad s q then (qSpoil s part pairRoute (k.block q), false)
  else if k.cap q ≤ b.count then (s, false)
  else (qWrite (slotWrite s part pairRoute (k.slot q b.tail) bs) part pairRoute (k.block q) (b.pushed 1), true)
def PairQ.pop (k : PairQ) (s : State) (part : Nat) (q : QPair) : State :=
  qWrite s part pairRoute (k.block q) ((k.blk s q).popped 1)
/-- Every record is discarded. -/
def PairQ.empty (k : PairQ) (s : State) (part : Nat) (q : QPair) : State := if q.frames.isEmpty then s else k.init s part q

/-- Log 43 (DEDUCED). -/
def bumpDrops (n : Nat) (q : QPair) : QPair := { q with drops := min (q.drops + n) 0xFFFF }

/-- A write of QSETn (R112); reserved bits are ignored. Log 41 (DESIGN CHOICE), 43 (DEDUCED). -/
def qsetWrite (s : State) (part n : Nat) (v : W64) : State :=
  match s.part? part with
  | none => s
  | some p =>
    if 8 ≤ n then s
    else
      let q := qpair p n
      let msix := v.extractLsb' 16 8
      if q.en then
        if v.getLsbD 63 then s.setPart (modPair p n fun q => { q with msix := msix })
        else
          let gone := PairQ.sub.len s q + PairQ.com.len s q + (p.releases.filter (·.pair == n)).length
          let s := PairQ.com.empty (PairQ.sub.empty s part q) part q
          s.modPart part fun p => modPair { p with releases := p.releases.filter (·.pair != n) } n fun q =>
            bumpDrops gone { q with en := false, msix := msix, head := none }
      else
        let q1 := { q with msix := msix, cqlog := bits v.toNat 11 8, sqlog := bits v.toNat 7 4 }
        if !v.getLsbD 63 then s.setPart (modPair p n fun _ => q1)
        else if !q.frames.isEmpty then s
        else
          let free := freeFrames s p
          if free.length < pairFrames q1 then s.setPart (modPair p n fun _ => q1)
          else
            let (k, s) := s.choose free.length
            let q2 := { q1 with en := true, drops := 0, frames := (rotate free k).take (pairFrames q1) }
            PairQ.com.init (PairQ.sub.init (s.setPart (modPair p n fun _ => q2)) part q2) part q2

def execQsetEnable (part pair : Nat) (v : W64) (s : State) : Host.Outcome State Fault Refusal :=
  .next (qsetWrite s part pair (v ||| (1#64 <<< 63)))
def execQsetDisable (part pair : Nat) (v : W64) (s : State) : Host.Outcome State Fault Refusal :=
  .next (qsetWrite s part pair (v &&& ~~~(1#64 <<< 63)))

/-- Launches of a pair that are in the launch table. -/
def inFlight (s : State) (p : Part) (n : Nat) : Bool := (tableLaunches s p).any fun l => l.pair == n

def execQueuePairRelease (part pair : Nat) (s : State) : Host.Outcome State Fault Refusal :=
  .next (match s.part? part with
    | some p =>
      let q := qpair p pair
      if !q.en && PairQ.com.len s q == 0 && !inFlight s p pair then s.setPart (modPair p pair fun q => { q with frames := [] }) else s
    | none => s)

-- the apertures (R113)

def dropOne (s : State) (part n : Nat) : State := s.modPart part fun p => modPair p n (bumpDrops 1)

/-- A posted write to BAR2, at a 4 KiB page and an offset from it: a push aperture takes a record; elsewhere nothing takes it.
Log 91 (DESIGN CHOICE). -/
def execSubmissionPush (part page off : Nat) (data : List Byte) (s : State) : Host.Outcome State Fault Refusal :=
  .next (match s.part? part with
    | some p =>
      let n := (4096 * page + off) / 4096
      let q := qpair p n
      if 8 ≤ n then s
      else if data.length = 128 ∧ off % 128 = 0 ∧ q.en then
        match PairQ.sub.push s part q data with
        | (s, true) => s
        | (s, false) => dropOne s part n
      else dropOne s part n
    | none => s)

def recordBytes (r : List W64) : List Byte := r.flatMap fun w => natLe 8 w.toNat

/-- The record an empty queue answers with. -/
def emptyRecord : List W64 := [0xFF, 0, 0, 0]

/-- A read of BAR2, at a 4 KiB page and an offset from it: a pop aperture answers with its oldest record; a push aperture, a read of another
size or place, with ones. Log 91 (DESIGN CHOICE). -/
def execCompletionPop (part page off size : Nat) (s : State) : Host.Outcome State Fault Refusal :=
  .next (match s.part? part with
    | some p =>
      let a := 4096 * page + off
      let n := (a - 0x8000) / 4096
      let q := qpair p n
      let empty := fun (s : State) => s.notify (.read (recordBytes emptyRecord))
      if a < 0x8000 ∨ 8 ≤ n ∨ size ≠ 32 ∨ off % 32 ≠ 0 then s.notify (.read (List.replicate size 0xFF))
      else if !q.en then empty (dropOne s part n)
      else if PairQ.com.bad s q then empty (dropOne (qSpoil s part pairRoute (PairQ.com.block q)) part n)
      else if PairQ.com.len s q = 0 then empty s
      else (PairQ.com.pop s part q).notify (.read (PairQ.com.head s q))
    | none => s)

-- completion records (R119, R120)

def isLaunchRecord (r : List W64) : Bool := ((r[0]?.getD 0) &&& 0xFF#64) == 0

/-- A completion queue can take a record, or discards it. -/
def recordRoom (s : State) (q : QPair) : Bool := !q.en || PairQ.com.bad s q || decide (PairQ.com.len s q < cqCap q)

/-- Pushes a record into a pair's completion queue: whether it went or was discarded, false while the queue is full. Log 91 (DESIGN CHOICE). -/
def pushRecord (s : State) (part n : Nat) (r : List W64) : State × Bool :=
  match s.part? part with
  | none => (s, true)
  | some p =>
    let q := qpair p n
    if !recordRoom s q then (s, false)
    else if !q.en then (dropOne s part n, true)
    else
      let first := PairQ.com.len s q == 0
      match PairQ.com.push s part q (recordBytes r) with
      | (s, false) => (dropOne s part n, true)
      | (s, true) =>
        let s := if isLaunchRecord r then s.modPart part fun p => { p with launches := (p.launches + 1) % 2 ^ 64 } else s
        (if first then s.notify (.msix part q.msix.toNat) else s, true)

def completionRecord (id status cause : Nat) (tierHalf hotHalf : Bool) (kteam teamsOk tstart tend : Nat) : List W64 :=
  [BitVec.ofNat 64 (id % 65536 * 2 ^ 48 + status % 65536 * 2 ^ 32 + cause % 65536 * 2 ^ 16 + (if tierHalf then 2 ^ 9 else 0) +
      (if hotHalf then 2 ^ 8 else 0)),
    BitVec.ofNat 64 (kteam % 2 ^ 32 * 2 ^ 32 + teamsOk % 2 ^ 32), BitVec.ofNat 64 tstart, BitVec.ofNat 64 tend]

/-- The record of a refusal. -/
def refusalRecord (s : State) (id status : Nat) : List W64 := completionRecord id status 0 false false 0xFFFFFFFF 0 0 s.ns

/-- The head record of a pair leaves its submission queue. -/
def popHead (s : State) (part n : Nat) : State :=
  match s.part? part with
  | none => s
  | some p => (PairQ.sub.pop s part (qpair p n)).modPart part fun p => modPair p n fun q => { q with head := none }

/-- Log 43 (DEDUCED). -/
def execRefusalPush (part pair : Nat) (s : State) : Host.Outcome State Fault Refusal :=
  .next (match s.part? part with
    | some p =>
      match (qpair p pair).head with
      | some (.refused id st) =>
        match pushRecord s part pair (refusalRecord s id st) with
        | (s, true) => popHead s part pair
        | (s, false) => s
      | _ => s
    | none => s)

/-- RELEASE_RECORD_PUSH: the oldest record waiting for a pair (R297). -/
def execReleaseRecordPush (part pair : Nat) (s : State) : Host.Outcome State Fault Refusal :=
  .next (match s.part? part with
    | some p =>
      match p.releases.find? (·.pair == pair) with
      | some r =>
        match pushRecord s part pair (releaseRecord s r) with
        | (s, true) => s.modPart part fun p => { p with releases := p.releases.erase r }
        | (s, false) => s
      | none => s
    | none => s)

-- the launch controller's reads (R115, R129)

/-- What a read of the controller comes to. -/
inductive CtlRead where
  | data (bs : List Byte)
  | bad
  | over (pages : List Nat)
  | away (r : Route) (sec : Nat)

/-- A byte as the controller reads it, with the pages already served; a poisoned sector reads as it stands. Log 92 (DESIGN CHOICE). -/
def ctlByte (s : State) (p : Part) (l : Launch) (op : Nat) (served : List (Nat × Option Bool)) (va : Nat) : CtlRead :=
  match translate s p l (walk s p va) va needR with
  | .fault _ => .bad
  | .over => if served.any (·.1 == va / 65536) || priOff s p.id then .bad else .over [va / 65536]
  | .ok r a =>
    if isRemote r then
      match engGot s op r (a / 32) with
      | some (.data bs _) => .data [bs[a % 32]?.getD 0]
      | some _ => .bad
      | none => .away r (a / 32)
    else .data [(homeSector s p.id r (a / 32)).2.1[a % 32]?.getD 0]

def CtlRead.join : CtlRead → CtlRead → CtlRead
  | .bad, _ => .bad
  | _, .bad => .bad
  | .over a, .over b => .over (a ++ b).eraseDups
  | .over a, _ => .over a
  | _, .over b => .over b
  | .away r k, _ => .away r k
  | _, .away r k => .away r k
  | .data a, .data b => .data (a ++ b)

def ctlBytes (s : State) (p : Part) (l : Launch) (op : Nat) (served : List (Nat × Option Bool)) (va : Nat) : Nat → CtlRead
  | 0 => .data []
  | n + 1 => (ctlByte s p l op served va).join (ctlBytes s p l op served (va + 1) n)

/-- A launch as its record gives it, before its object has been read. -/
def blankLaunch (p : Part) (pair : Nat) (r : List Byte) (mask : List (Nat × Nat)) : Launch where
  lid := 0
  part := p.id
  pair := pair
  launchId := rkId r
  prio := rkPrio r
  resident := rkResident r
  team := 0
  clw := 0
  clh := 0
  grid := rkGrid r
  budget := 0
  growCeil := 0
  scratch := 0
  accum := 0
  priv := 0
  privVa := rkPrivVa r
  argAddr := rkArg r
  entry := 0
  handler := none
  pairOk := false
  caps := []
  keymask := mask
  imageBase := 0
  imageLen := 0
  image := []
  frames := []
  imageKey := []
  sections := []
  rranges := rkRanges r 8
  wranges := rkRanges r 12
  meas := []
  buildId := []
  needTier := 0
  nextCluster := 0
  waitSince := none
  starved := false
  results := []
  tstart := none
  startTier := 0
  hotHalf := false

/-- Every load the partition's slots hold: the controller reads an object before it knows its measurement. Log 38 (DEDUCED). -/
def allLoads (s : State) (part : Nat) : List (Nat × Nat) :=
  (s.slots.filter fun k => k.2.owner == part && !k.2.closed).map fun k => (k.1, k.2.load)

/-- Sets what the controller has made of a pair's head. -/
def setHead (s : State) (part pair : Nat) (h : Option HeadSt) : State :=
  s.modPart part fun p => modPair p pair fun q => { q with head := h }

/-- The object and its capability table, read once (R29, R129). -/
inductive CtlObject where
  | got (o caps : List Byte) (meas : List Byte)
  | bad
  | over (pages : List Nat)
  | away (r : Route) (sec : Nat)

/-- Log 38 (DEDUCED). -/
def readObject (s : State) (p : Part) (l : Launch) (r : List Byte) (op : Nat) (served : List (Nat × Option Bool)) : CtlObject :=
  match ctlBytes s p l op served (rkObj r) 64 with
  | .bad => .bad
  | .over g => .over g
  | .away x k => .away x k
  | .data h =>
    match ctlBytes s p l op served (rkObj r + 64) (oLen h - 64) with
    | .bad => .bad
    | .over g => .over g
    | .away x k => .away x k
    | .data t =>
      let o := h ++ t
      let meas := sha256 (o.take (oLen h))
      if rkCapTbl r = 0 then .got o [] meas
      else
        match ctlBytes s p { l with keymask := maskFor s p.id meas } op served (rkCapTbl r) 1024 with
        | .bad => .bad
        | .over g => .over g
        | .away x k => .away x k
        | .data c => .got o c meas

/-- Asks another device for a sector of an object (R398). -/
def ctlRequest (s : State) (p : Part) (op : Nat) (r : Route) (sec : Nat) : State :=
  engRequest s ⟨16 * (p.sectors.headD 0), p.id, 0, 0, 0, op, false⟩ r sec

/-- The checks of a head record (R115, R30), its object served as far as `pages` say. Log 38 (DEDUCED), 74 (DEDUCED). -/
def checkHead (s : State) (p : Part) (pair : Nat) (r : List Byte) (op : Nat) (pages : List (Nat × Option Bool)) : State :=
  let refuse := fun (st : Nat) => setHead (dropIn s op) p.id pair (some (.refused (rkId r) st))
  if p.failed then refuse stLost
  else if recordBad r then refuse stRecord
  else if pages.any (·.2 == some false) then refuse stObjFault
  else
    let l0 := blankLaunch p pair r (allLoads s p.id)
    match readObject s p l0 r op pages with
    | .bad => refuse stObjFault
    | .over g =>
      let s := s.modPart p.id fun p => g.foldl (addReq needR) p
      setHead s p.id pair (some (.paging (pages ++ g.map fun n => (n, none)) op))
    | .away x k => setHead (ctlRequest s p op x k) p.id pair (some (.paging pages op))
    | .got o c meas =>
      let s := touchHosts s p.id (((List.range ((o.length + 31) / 32)).map fun i => rkObj r + 32 * i)
        ++ (List.range ((c.length + 31) / 32)).map fun i => rkCapTbl r + 32 * i)
      match objectCheck r o c (partCores p).length { l0 with meas := meas, keymask := maskFor s p.id meas } (roomy s p) with
      | .error st => refuse st
      | .ok l => setHead (dropIn s op) p.id pair (some (.ready l))

/-- A pair whose head the controller may take further: one that waits for pages, for its tier or for room for its refusal is held, and
the other queues are served. Log 93 (DESIGN CHOICE). -/
def takes (s : State) (q : QPair) : Bool :=
  q.en && decide (0 < PairQ.sub.len s q) && !PairQ.sub.bad s q &&
    (match q.head with
      | none => true
      | some (.paging pages _) => pages.all fun x => x.2.isSome
      | some (.ready l) => decide (l.needTier ≤ s.boot.tier)
      | some (.refused _ _) => recordRoom s q)

/-- The pair whose head is taken: the highest PRIO, then the lower number (R117). -/
def headPair (s : State) (p : Part) : Option Nat :=
  let ns := (List.range 8).filter fun n => takes s (qpair p n)
  let prio := fun (n : Nat) => rkPrio (PairQ.sub.head s (qpair p n))
  ns.foldl (fun b n => match b with
    | none => some n
    | some m => if prio m < prio n then some n else some m) none

/-- LAUNCH_CHECK of a partition. -/
def execLaunchCheck (part : Nat) (s : State) : Host.Outcome State Fault Refusal :=
  .next (match s.part? part with
    | none => s
    | some p =>
      if 64 ≤ p.table.length then s
      else
        match headPair s p with
        | none => s
        | some n =>
          let q := qpair p n
          match q.head with
          | some (.paging pages op) => checkHead s p n (PairQ.sub.head s q) op pages
          | none => checkHead { s with nextId := s.nextId + 1 } p n (PairQ.sub.head s q) s.nextId []
          | _ => s)

-- entering the table (R117, R122)

/-- The lowest free address of the code window with an alignment (R122); none where the image would run past the window's end. Log 44
(DESIGN CHOICE). -/
def imagePlace (s : State) (align len : Nat) : Option Nat :=
  let used := s.launches.map fun l => (l.imageBase, l.imageBase + l.imageLen)
  let tries := (codeWindow :: used.map (·.2)).map fun a => alignUp a align
  let free := tries.filter fun a => decide (a + len ≤ 0x80000000000000) && !used.any fun u => decide (a < u.2 ∧ u.1 < a + len)
  match free with
  | [] => none
  | a :: t => some (t.foldl min a)

/-- The highest `n` frames of the partition's HBM below its k-th that hold no image and no fenced channel. Log 44 (DESIGN CHOICE). -/
def imageFrames (s : State) (p : Part) (used : List Nat) : Nat → Nat → List Nat
  | 0, _ => []
  | _ + 1, 0 => []
  | k + 1, n + 1 =>
    let f := hbmFrame p k
    if used.contains f || chanFenced s .hbm (f * 65536) then imageFrames s p used k (n + 1) else f :: imageFrames s p used k n

/-- The image is written to its frames under its key (R122). -/
def writeImage (d : Store) (dev : Nat) (key : List Byte) (frames : List Nat) (image : Mem) : Store :=
  let d := frames.foldl (fun d f => d.clear (f * 65536) 65536) d
  image.foldl (fun d c => d.writeAs (.image key dev) (frames.getD (c.1 / 65536) 0 * 65536 + c.1 % 65536) 0xFF c.2) d

/-- A key pair of the device's random-number source (R105, R122). Log 27 (DESIGN CHOICE). -/
def randomKey (s : State) : List Byte := (List.range 64).map fun i => Config.random (s.free + i)

/-- The instruction-cache lines of frames of this device are dropped. -/
def dropImageCode (frames : List Nat) (c : Nat × CoreSt) : Nat × CoreSt :=
  (c.1, { c.2 with icache := c.2.icache.filter fun x => !(samePlace x.route (.glob .hbm .hw .clear 0 0) && frames.contains (x.line / 512)) })

/-- A checked launch with a place for its image, in frames of which no instruction cache holds a line any more: none where there is none.
Log 44 (DESIGN CHOICE). -/
def mapImage (s : State) (p : Part) (l : Launch) : Option (State × Launch) :=
  let used := (s.launches.filter (·.part == p.id)).flatMap (·.frames)
  let frames := imageFrames s p used (hbmFrames p - storeFrames p) (l.imageLen / 65536)
  match imagePlace { s with launches := tableLaunches s p } l.imageBase l.imageLen with
  | none => none
  | some b =>
    if frames.length < l.imageLen / 65536 then none
    else
      let key := randomKey s
      some ({ s with free := s.free + 64, dev := writeImage s.dev s.fabric.devid key frames l.image, cores := s.cores.map (dropImageCode frames) },
        { l with
          imageBase := b, entry := b + l.entry, handler := l.handler.map fun h => b + h, image := [], frames := frames, imageKey := key })

/-- The head of a pair that is checked enters the table, when it is its turn (R117). Log 46 (DEDUCED). -/
def execLaunchEnterTable (part pair : Nat) (s : State) : Host.Outcome State Fault Refusal :=
  .next (match s.part? part with
    | none => s
    | some p =>
      match (qpair p pair).head with
      | some (.ready l) =>
        if 64 ≤ p.table.length ∨ headPair s p ≠ some pair then s
        else
          match mapImage s p l with
          | none => s
          | some (s, l) =>
            let l := { l with lid := s.nextId }
            let s := (popHead s part pair).modPart part fun p =>
              { p with
                table := p.table ++ [l.lid]
                measured := (p.measured ++ [l.meas ++ l.buildId]).drop (p.measured.length - 249) }
            noteWaits { s with launches := s.launches ++ [l], nextId := s.nextId + 1 } part
      | _ => s)

end Sys2Proof.Machine
end

