-- ==== Sys2Proof/Machine/Evict.lean ====
section
/-! DEFINITION. Eviction and readmission (R421 to R426, R293), the GROW rules (R170, R171), the end of a YIELD (R192), the watchdog
(R417). -/

namespace Sys2Proof.Machine

open Sys2Proof

-- what an eviction waits for (R359, R422)

/-- The oldest entry's stop is already there (R427): its words fail the checks of R72, or could not be fetched. -/
def headStops (g : Group) : Bool := (g.rob.head?.map fun e => e.stop || e.fault.isSome).getD false

/-- The oldest instruction has a request on its way, a delivery has been chosen for it, or it stops: it is dealt with first. Log 79 (DEDUCED). -/
def mustFinish (s : State) (g : Group) : Bool := g.remOp.isSome || g.recStep.isSome || (chosenTask s g).isSome || headStops g

def tagsFree (g : Group) : Bool := g.tags.toList.all Option.isNone

def isMlda (k : Cmd) : Bool := k.op == 0xD3
def isScaled (k : Cmd) : Bool := k.op == 0xD1

/-- The last resident group of its team. -/
def lastOfTeam (s : State) (g : Group) : Bool := !s.groups.any fun x => x.tid == g.tid && x.gid != g.gid

/-- The team's engine state can be saved: no MLDA of it is left, and what executes for it is at a stop point (R293). Log 81 (DEDUCED). -/
def engineStops (s : State) (core tid : Nat) : Bool :=
  let c := s.core core
  !(c.cmds.any fun k => k.tid == tid && isMlda k) &&
  (match c.run with
    | some e => e.cmd.tid != tid || e.cmd.isMma
    | none => true)

/-- No engine operation's lock names the team's scratchpad, and no retired store or atomic of its groups is still to be applied there (R331). -/
def scratchFree (s : State) (tid : Nat) : Bool :=
  (!s.cores.any fun c => c.2.locks.any fun k => k.scratch == some tid) &&
  !s.allGroups.any fun g => g.tid == tid && g.stbuf.any fun b => b.places.any fun x => decide (x.1 = .scratch tid)

-- the steps of R422

/-- Abandons a parked instruction (R359). Log 79 (DEDUCED). -/
def abandon (s : State) (g : Group) : State :=
  s.modPart g.part fun p =>
    { p with
      waiters := p.waiters.filter fun w => w.2.2 != g.gid
      tasks := p.tasks.map fun t => { t with waiters := t.waiters.filter fun w => w != g.gid } }

/-- What a wait becomes in the context: a GROW, a stopover and the wait of R379 are kept. Log 79 (DEDUCED). -/
def keptWait : Wait → Wait
  | .grow n => .grow n
  | .stopover f => .stopover f
  | .retry => .retry
  | _ => .none

/-- Steps 1 to 3 of R422. An OPEN attempt that has no lane to abort is kept, the order numbers of its lanes that left handed on (R388).
Log 79 (DEDUCED). -/
def beginEviction (s : State) (g : Group) : State × Group :=
  let s := abandon s g
  let g : Group := { dropRun g g.runPos with
    spoilt := false, wait := keptWait g.wait, waitFrom := none
    drainFrom := some (g.drainFrom.getD g.sr.clk2) }
  if g.region.state = .open ∧ (g.region.liveLanes ||| g.region.pend) ≠ 0 then
    let s := handOrders s g g.region.gone
    endAttempt s (abortLanes g.sr.clk2 .preempt g g.region.liveLanes) g.region.rpc
  else if g.region.state = .open then (handOrders s g g.region.gone, { g with region := { g.region with gone := 0, turns := none } })
  else (s, g)

/-- Rows of the core's merge buffer go to their slices, the oldest first (R304); whether all have. -/
def flushMerge (gid : Nat) : Nat → State → State × Bool
  | 0, s => (s, false)
  | n + 1, s =>
    match s.anyGroup? gid with
    | none => (s, true)
    | some g =>
      match oldestRow ((g.merge.filter fun m => !m.atSlice).map fun m => (gid, m)) with
      | none => (s, true)
      | some (_, m) =>
        match flushRow s (ectx s g.core g.tid gid 0) m with
        | (s, true) => flushMerge gid n s
        | (s, false) => (s, false)

/-- A unit whose blocks are all done completes, and nothing of it is saved (R441). -/
def endDone (s : State) (core tid : Nat) : State :=
  match (s.core core).run with
  | some e => if e.cmd.tid = tid ∧ e.cmd.isMma ∧ unitDone e = true then endCmd (s.modCore core fun c => { c with run := none }) core e.cmd none else s
  | none => s

/-- The team's engine state and scratchpad leave the core (R293). Log 79 (DEDUCED), 81 (DEDUCED). -/
def saveTeam (s : State) (core tid : Nat) : State :=
  let s := endDone s core tid
  let c := s.core core
  let mine := c.cmds.filter (·.tid == tid)
  let cur := c.run.filter fun e => e.cmd.tid == tid
  let s := { s with savedTeams := s.savedTeams ++ [⟨tid, cur, mine⟩] }
  let s := dropCmds s core tid true
  let s := s.modCore core fun c => { c with ocache := c.ocache.filter fun o => o.tid != tid }
  s.modTeam tid fun t => { t with resident := false }

/-- Steps 5 and 6: the context goes to the store, and the group's registers and slot are free. -/
def storeContext (s : State) (g : Group) (byGrow : Bool) : State :=
  let s := { s with
    groups := s.groups.filter fun x => x.gid != g.gid
    saved := s.saved ++ [Saved.mk { g with evict := none, drainFrom := none, slot := 8 } byGrow s.nextId]
    nextId := s.nextId + 1 }
  clockGate (s.modPart g.part fun p => { p with evicts := (p.evicts + 1) % 2 ^ 64 }) g.core

/-- GROUP_EVICTION; `late` where tags still pending go to the return path (R423). Log 79 (DEDUCED). -/
def evictGroup (s : State) (gid : Nat) (late : Bool) : State :=
  match s.group? gid with
  | none => s
  | some g =>
    match g.evict with
    | none => s
    | some byGrow =>
      if g.exiting ∨ mustFinish s g = true then s
      else
        let (s, g) := beginEviction s g
        let s := s.setGroup g
        let last := lastOfTeam s g
        if !tagsFree g && !(late && decide (g.drainFrom.getD g.sr.clk2 + 4000 ≤ g.sr.clk2)) then s
        else if last && !(engineStops s g.core g.tid && scratchFree s g.tid) then s
        else
          match flushMerge gid (g.merge.length + 1) s with
          | (s, false) => s
          | (s, true) =>
            let s := if last then saveTeam s g.core g.tid else s
            storeContext s ((s.group? gid).getD g) byGrow

def execGroupEviction (gid : Nat) (s : State) : Host.Outcome State Fault Refusal := .next (evictGroup s gid false)
def execTagDrainTimeout (gid : Nat) (s : State) : Host.Outcome State Fault Refusal := .next (evictGroup s gid true)

-- deliveries (R39, R423)

/-- The deliveries that have come for a group's tags and not landed: tag and place. Log 15 (DESIGN CHOICE). -/
def deliveries (g : Group) : List (Nat × Nat) :=
  allTags.flatMap fun (n : Nat) =>
    match g.tags[n]?.join with
    | some t => (List.range t.sects.length).map fun k => (n, k)
    | none => []

/-- Lands the k-th of them. -/
def landNth (k : Nat) (g : Group) : Group :=
  match (deliveries g)[k]? with
  | some (n, j) => landTag g n j
  | none => g

/-- LATE_SECTOR_RETURN: a sector lands in a saved image. -/
def execLateSectorReturn (gid k : Nat) (s : State) : Host.Outcome State Fault Refusal :=
  .next { s with saved := s.saved.map fun x => if x.g.gid = gid then { x with g := landNth k x.g } else x }

-- readmission (R134, R170, R423, R426)

/-- The registers a unit needs to return: its budget, and under the GROW rules its request as well. -/
def returnRegs (x : Saved) : Nat :=
  match x.byGrow, x.g.wait with
  | true, .grow n => max n x.g.sr.budget
  | _, _ => x.g.sr.budget

/-- The core has the resources for a unit. -/
def canReturn (s : State) (x : Saved) : Bool :=
  let gs := residents s x.g.core
  let spaceOk := match s.team? x.g.tid with
    | some t => t.resident || spaceFits (coreTeams s x.g.core) ⟨0, 0, 0, t.scratchSize, t.ntiles⟩
    | none => false
  !(s.core x.g.core).fenced && tagsFree x.g && decide (0 < roomSlots gs x.g.sub ∧ returnRegs x ≤ if x.byGrow then freeRegs s x.g.core x.g.sub else roomRegs gs x.g.sub) && spaceOk &&
  (match s.part? x.g.part with
    | some p => !coreClaimed s p x.g.core (prioOf s x.g.lid)
    | none => false)

/-- The unit a core readmits next: the highest priority, then the unit evicted earliest. -/
def nextReturn (s : State) (core : Nat) : Option Saved :=
  (s.saved.filter fun x => x.g.core == core && canReturn s x).foldl (fun b x => match b with
    | none => some x
    | some y =>
      let px := prioOf s x.g.lid
      let py := prioOf s y.g.lid
      if py < px ∨ (py = px ∧ x.order < y.order) then some x else some y) none

/-- An interrupted unit as a command of the queue (R292, R442). Log 81 (DEDUCED). -/
def resumedCmd (e : Exec) : Cmd := { e.cmd with start := some (e.mh, e.kb, e.partialP) }

/-- The team's scratchpad and engine state return (R293, R426). Log 81 (DEDUCED). -/
def restoreTeam (s : State) (core tid : Nat) : State :=
  let mine := s.savedTeams.filter fun x => x.tid == tid
  let cmds := mine.flatMap fun x => (x.cur.map resumedCmd).toList ++ x.cmds
  let s := { s with savedTeams := s.savedTeams.filter fun x => x.tid != tid }
  let s := s.modCore core fun c => { c with cmds := c.cmds ++ cmds }
  s.modTeam tid fun t => { t with resident := true }

/-- The group resumes with its context (R416, R418, R424). Log 32 (DEDUCED). -/
def restoreGroup (s : State) (x : Saved) : State :=
  let (slot, s) := pickSlot s x.g.core x.g.sub
  let g := x.g
  let w := match g.wait with
    | .grow _ => Wait.none
    | w => w
  { s with
    groups := s.groups ++ [{ g with
      slot := slot, born := s.nextId, ready := false, startKnown := none, wait := w, preempt := g.trap.pn
      trap := { g.trap with armed := true, stepped := false } }]
    nextId := s.nextId + 1
    saved := s.saved.filter fun y => y.g.gid != g.gid }

def groupReadmit (s : State) (gid : Nat) : State :=
  match s.saved.find? (·.g.gid == gid) with
  | none => s
  | some x =>
    if ((nextReturn s x.g.core).map fun y => y.g.gid) = some gid then
      let s := if ((s.team? x.g.tid).map fun t => t.resident) = some true then s else restoreTeam s x.g.core x.g.tid
      let s := s.modCore x.g.core fun c => { c with asleep := false, wakeIn := none }
      restoreGroup s x
    else s

/-- Log 3 (DESIGN CHOICE). -/
def execGroupReadmit (gid : Nat) (s : State) : Host.Outcome State Fault Refusal := .next (groupReadmit s gid)

-- the GROW rules (R169 to R171)

def subGroups (s : State) (core sub : Nat) : List Group := onSub s core sub
def inGrow (g : Group) : Bool :=
  match g.wait with
  | .grow _ => true
  | _ => false
def youngest : List Group → Option Group
  | [] => none
  | g :: t =>
    match youngest t with
    | some h => if g.born < h.born then some h else some g
    | none => some g
def oldest : List Group → Option Group
  | [] => none
  | g :: t =>
    match oldest t with
    | some h => if h.born < g.born then some h else some g
    | none => some g

/-- Chosen under the GROW rules, where the context store has room (R425). Log 80 (DEDUCED). -/
def growLeaves (s : State) (g : Group) : State :=
  if g.evict.isNone && !growRoom s g then s else evictGroup (s.setGroup { g with evict := some true }) g.gid false

/-- Whether the GROW a group is blocked in can be served. Log 80 (DEDUCED). -/
def growFits (s : State) (g : Group) : Bool :=
  match g.wait with
  | .grow n => decide (n - g.sr.budget ≤ freeRegs s g.core g.sub)
  | _ => false

/-- Log 80 (DEDUCED). -/
def execGrowEvict (core sub : Nat) (s : State) : Host.Outcome State Fault Refusal :=
  let gs := subGroups s core sub
  .next (
    if gs.all inGrow && !(gs.any fun g => g.evict.isSome || growFits s g) then
      match youngest gs with
      | some g => growLeaves s g
      | none => s
    else s)

/-- Log 80 (DEDUCED). -/
def execGrowStarvationTimeout (core sub : Nat) (s : State) : Host.Outcome State Fault Refusal :=
  let gs := subGroups s core sub
  .next (match oldest gs, youngest gs with
    | some o, some y =>
      if inGrow o && decide ((o.waitFrom.getD o.sr.clk2) + 20000 ≤ o.sr.clk2) && o.gid != y.gid then
        growLeaves (s.setGroup { o with waitFrom := some o.sr.clk2 }) y
      else s
    | _, _ => s)

-- YIELD and the watchdog

/-- A blocked GROW is served (R170): it fits, and no older one of its sub-core does. -/
def growTurn (s : State) (g : Group) : Bool :=
  growFits s g && ((oldest ((subGroups s g.core g.sub).filter (growFits s))).map (·.gid)) == some g.gid

def execYieldExpire (gid : Nat) (s : State) : Host.Outcome State Fault Refusal :=
  .next (match s.group? gid with
    | some g =>
      match g.wait with
      | .yielded t => if t ≤ g.sr.clk2 then s.setGroup { g with wait := .none } else s
      | _ => s
    | none => s)

/-- The waits R417 watches: TWAIT, BWAIT and a wait on TC. -/
def watched (g : Group) (i : Instr) : Bool :=
  (match i with
    | .twait _ _ | .bwait _ _ _ => true
    | _ => false) || (iTC i != 0 && ((g.tags[(iTC i).toNat]?).join).isSome)

def execWatchdog (gid : Nat) (s : State) : Host.Outcome State Fault Refusal :=
  .next (match s.group? gid with
    | some g =>
      match headInstr g, g.waitFrom with
      | some i, some t =>
        if g.wait = .none ∧ g.evict = none ∧ watched g i = true ∧ t + 2 ^ 31 ≤ g.sr.clk2 then stopAt s g i (stopAll g .watchdog 0) else s
      | _, _ => s
    | none => s)

end Sys2Proof.Machine
end

