-- ==== Sys2Proof/Machine/Fetch.lean ====
section
/-! DEFINITION. Run fetch and run choice (R62, R65, R137 to R139, R154 to R156, R438), page walks, page requests and their responses (R145,
R148 to R152). -/

namespace Sys2Proof.Machine

open Sys2Proof

-- fetch translation (R137, R138, R144)

def CoreSt.itlb (c : CoreSt) (sub : Nat) : List TlbEnt := (c.itlbs[sub]?).getD []

/-- The translation of a fetch address, by way of the sub-core's instruction TLB and its sector's TLB. Log 16 (DEDUCED). -/
def fetchXlat (s : State) (g : Group) (va : Nat) : XRes :=
  match s.part? g.part, s.launch? g.lid with
  | some p, some l =>
    let held := (((s.core g.core).itlb g.sub).find? (·.isFor p.id (va / 65536))).or
      ((s.sectorTlb (g.core / 16)).ents.find? (·.isFor p.id (va / 65536)))
    translate s p l (lookupIn s held p g.core 65 va) va ⟨false, false, true⟩
  | _, _ => .fault .fetch

/-- The sub-core's instruction TLB, of 32 entries, holds the page that has been fetched from, and its sector's TLB does. Log 16 (DEDUCED). -/
def keepItlb (s : State) (g : Group) (va : Nat) : State :=
  match s.part? g.part with
  | none => s
  | some p =>
    let l := (s.core g.core).itlb g.sub
    if inWindow va || l.any (·.isFor p.id (va / 65536)) then s
    else
      let s := keepWalk s p (g.core / 16) va
      match (s.sectorTlb (g.core / 16)).ents.find? (·.isFor p.id (va / 65536)) with
      | none => s
      | some t =>
        let (s, l) := s.insertTlb 32 l l t
        s.modCore g.core fun c => { c with itlbs := c.itlbs.setIfInBounds g.sub l }

/-- A fetch from a page of tier host obtains the translation of its frame (R152). -/
def touchFetch (s : State) (g : Group) (va : Nat) : State :=
  if inWindow va then s
  else
    match s.part? g.part with
    | some p => touchHost s p va
    | none => s

-- the instruction cache (R137)

def codeLine (s : State) (core : Nat) (r : Route) (line : Nat) : Option ILine := (s.core core).icache.find? (sameCode r line)

/-- A line comes to the cache; in a full set the line it replaces is the device's choice (128 sets of 8 ways). Log 18 (DESIGN CHOICE). -/
def putCode (s : State) (core : Nat) (r : Route) (line : Nat) (data : List Byte) : State :=
  let rest := (s.core core).icache.filter fun x => !sameCode r line x
  let set := (List.range rest.length).filter fun k => ((rest[k]?.map (·.line)).getD 0) % 128 == line % 128
  let (s, rest) :=
    if set.length < 8 then (s, rest)
    else
      let (k, s) := s.choose set.length
      (s, rest.eraseIdx (set[k]?.getD 0))
  s.modCore core fun c => { c with icache := rest ++ [⟨r, line, data⟩] }

/-- The request of a core for a line of another device, by its operation. -/
def codeReq (s : State) (part core : Nat) (r : Route) (line : Nat) : Option Nat :=
  ((s.core core).codeReqs.find? fun x => x.2.1 == part && decide (x.2.2.1 = r) && x.2.2.2 == line).map (·.1)

/-- That request, made where there is none. -/
def openReq (s : State) (part core : Nat) (r : Route) (line : Nat) : Nat × State :=
  match codeReq s part core r line with
  | some op => (op, s)
  | none => (s.nextId, { s.modCore core fun c => { c with codeReqs := c.codeReqs ++ [(s.nextId, part, r, line)] } with nextId := s.nextId + 1 })

/-- The answers to it. -/
def codeGot (s : State) (op : Nat) (r : Route) (line : Nat) : List (Option ERead) := (List.range 4).map fun k => engGot s op r (4 * line + k)

/-- Another device has refused a sector of the line. -/
def codeRefused (s : State) (part core : Nat) (r : Route) (line : Nat) : Bool :=
  ((codeReq s part core r line).map fun op => (codeGot s op r line).any fun x => match x with
    | some (.fault _) => true
    | _ => false).getD false

/-- A request is over. -/
def dropReq (s : State) (core op : Nat) : State :=
  { s.modCore core fun c => { c with codeReqs := c.codeReqs.filter (·.1 != op) } with engIn := s.engIn.filter (·.1 != op) }

/-- A request of the core that was refused is over. -/
def dropRefused (s : State) (g : Group) : State :=
  ((s.core g.core).codeReqs.filter fun x => codeRefused s g.part g.core x.2.2.1 x.2.2.2).foldl (fun s x => dropReq s g.core x.1) s

/-- A fill reads the home slice of the line: on this device, or on another, which is asked for its sectors, by an operation of the line's own
(R137). A poisoned sector reads as it stands. Log 69 (DESIGN CHOICE), 92 (DESIGN CHOICE). -/
def fillCode (s : State) (part core : Nat) (r : Route) (line : Nat) : State :=
  if isRemote r then
    let (op, s) := openReq s part core r line
    let got := (codeGot s op r line).map fun x => match x with
      | some (.data bs _) => some bs
      | _ => none
    if got.all Option.isSome then putCode (dropReq s core op) core r line (got.flatMap fun x => x.getD [])
    else if codeRefused s part core r line then s
    else (List.range 4).foldl (fun s k =>
      if (engGot s op r (4 * line + k)).isSome then s else engRequest s ⟨core, part, 0, 0, 0, op, false⟩ r (4 * line + k)) s
  else
    let s := sliceFill s part r line false
    putCode s core r line ((List.range 4).flatMap fun k => (homeSector s part r (4 * line + k)).2.1)

/-- Where the next word of a group's run lies, behind the words that are delivered and those in its buffer. -/
def fetchPc (g : Group) : W64 := g.pc + BitVec.ofNat 64 (8 * ((g.rob.map fun e => e.words.length).sum + g.buf.length))

/-- That address, and the outcome of its checks. -/
def nextFetch (s : State) (g : Group) : W64 × XRes :=
  let va := fetchPc g
  (va, match fetchXlat s g va.toNat with
    | .ok r a => if codeRefused s g.part g.core r (a / 128) then .fault .fetch else .ok r a
    | x => x)

/-- Instructions and the length of a buffer whose words may end in an instruction without its literal. -/
structure BufScan where
  count : Nat
  ended : Bool
  whole : Bool

/-- Scans the words of a run: how many instructions stand whole, whether one of them has E. -/
def scanRun : List W64 → BufScan
  | [] => ⟨0, false, true⟩
  | [w] => if hasLiteral w then ⟨0, false, false⟩ else ⟨1, w.getLsbD 55, true⟩
  | w :: x :: t =>
    if hasLiteral w then
      if w.getLsbD 55 then ⟨1, true, true⟩
      else
        let r := scanRun t
        ⟨r.count + 1, r.ended, r.whole⟩
    else if w.getLsbD 55 then ⟨1, true, true⟩
    else
      let r := scanRun (x :: t)
      ⟨r.count + 1, r.ended, r.whole⟩

/-- The run is wholly present: it has its E word, or its 24th instruction (R64). -/
def runWhole (g : Group) : Bool :=
  let r := scanRun g.buf
  r.whole && (r.ended || decide (24 ≤ g.bufRun + r.count))

/-- The fetch of a run, word by word, up to a line that the cache lacks (R137, R139). -/
def fetchWords : Nat → State → Group → State × Group
  | 0, s, g => (s, g)
  | n + 1, s, g =>
    if runWhole g then (s, { g with fetched := true })
    else
      let stopHere := fun (s : State) (va : W64) (served : Bool) => (s, { g with fetched := true, bufStop := some ⟨va, served⟩ })
      match nextFetch s g with
      | (va, .fault _) => stopHere (dropRefused s g) va false
      | (va, .over) => stopHere s va (!(failedPage g (va.toNat / 65536) || g.codeServed.contains (va.toNat / 65536) || priOff s g.part))
      | (va, .ok r a) =>
        if failedPage g (va.toNat / 65536) then stopHere s va false
        else
        match codeLine s g.core r (a / 128) with
        | some l => fetchWords n (keepItlb (touchFetch s g va.toNat) g va.toNat) { g with buf := g.buf ++ [BitVec.ofNat 64 (leNat ((l.data.drop (a % 128)).take 8))] }
        | none => (s, g)

/-- What comes after an entry of the reorder buffer is not known before it retires: a control transfer (R137), a GROW (R156), a
stop. -/
def RobEnt.closes (e : RobEnt) : Bool :=
  e.stop || e.fault.isSome ||
  (match e.instr with
    | some (.grow _ _) => true
    | some i => iCT i
    | none => true)

/-- The youngest delivered instruction of a group closes what comes after it. -/
def robClosed (g : Group) : Bool := (g.rob.getLast?.map RobEnt.closes).getD false

/-- A group whose next run, or the rest of it, is to be fetched. -/
def wantsRun (g : Group) : Bool :=
  !g.fetched && !g.exiting && g.evict.isNone && !robClosed g &&
  (match g.wait with
    | .none | .yielded _ | .engine | .parked _ _ _ => true
    | _ => false)

/-- RUN_FETCH of a group. -/
def runFetch (s : State) (gid : Nat) : State :=
  match s.group? gid with
  | none => s
  | some g =>
    if wantsRun g then
      let (s, g) := fetchWords 49 s g
      s.setGroup g
    else s

def execRunFetch (gid : Nat) (s : State) : Host.Outcome State Fault Refusal := .next (runFetch s gid)

/-- A line some group of the core waits for. -/
def missedLine (s : State) (g : Group) : Option (Route × Nat) :=
  if wantsRun g && !runWhole g then
    match nextFetch s g with
    | (_, .ok r a) => if (codeLine s g.core r (a / 128)).isSome then none else some (r, a / 128)
    | _ => none
  else none

/-- The fetch unit of a sub-core serves a group: its start has been known longest, ties going to the lower slot, of those whose next words are
in the cache; one that waits for a line has its turn back with the line (R438). -/
def fetchTurn (s : State) (g : Group) : Bool :=
  let open' := fun (x : Group) => wantsRun x && (missedLine s x).isNone
  let since := fun (x : Group) => x.startKnown.getD s.now
  open' g && (s.groups.filter fun x => x.core == g.core && x.sub == g.sub && x.gid != g.gid && open' x).all fun x =>
    decide (since g < since x ∨ (since g = since x ∧ g.slot < x.slot))

/-- ICACHE_FILL of a line that a fetch on the core waits for. -/
def execIcacheFill (core line : Nat) (s : State) : Host.Outcome State Fault Refusal :=
  .next (match (s.groups.filter (·.core == core)).findSome? fun g => ((missedLine s g).filter fun x => x.2 == line).map fun x => (g.part, x) with
    | some (p, r, n) => fillCode s p core r n
    | none => s)

-- the choice of a run (R154, R155)

/-- A group is ready (R154): its buffer holds the words of its next run, or of the rest of one that GROW has cut (R156); the control
transfer before them has resolved; nothing parks, blocks or stops it, and its registers are bound (R131). -/
def groupReady (s : State) (g : Group) : Bool :=
  g.fetched && !g.exiting && g.evict.isNone && !g.delivering && !preemptDue g && !robClosed g && decide (g.wait = .none) && regsBound s g

/-- The clock in which a group becomes ready (R154), and that in which the start of its next run becomes known (R438). -/
def stampReady (s : State) : State :=
  { s with groups := s.groups.map fun g =>
      let r := groupReady s g
      let g := { g with startKnown := if wantsRun g then some (g.startKnown.getD s.now) else none }
      if r && !g.ready then { g with ready := true, readySince := s.now } else { g with ready := r } }

/-- The group with the longest waiting time, then the lower slot. -/
def longestReady : List Group → Option Group
  | [] => none
  | g :: t =>
    match longestReady t with
    | none => some g
    | some h => if h.readySince < g.readySince ∨ (h.readySince = g.readySince ∧ h.slot < g.slot) then some h else some g

/-- The group of a sub-core whose run is being delivered (R156). -/
def delivers (s : State) (core sub : Nat) : Option Group :=
  s.groups.find? fun g => g.core == core && g.sub == sub && g.delivering

/-- RUN_SELECT: at a run boundary the sub-core takes the next run (R155). -/
def runSelect (s : State) (core sub : Nat) : State :=
  match delivers s core sub with
  | some _ => s
  | none =>
    match longestReady ((s.groups.filter fun g => g.core == core && g.sub == sub).filter (groupReady s)) with
    | some g => s.setGroup { g with delivering := true, ready := false }
    | none => s

def execRunSelect (core sub : Nat) (s : State) : Host.Outcome State Fault Refusal := .next (runSelect s core sub)

-- walks and page requests (R145, R148)

/-- PAGE_WALK: the walker of a die sector walks for a page of the partition that owns the sector, in one step. Log 17 (DESIGN CHOICE). -/
def execPageWalk (sector page : Nat) (s : State) : Host.Outcome State Fault Refusal :=
  .next (match s.parts.find? fun p => p.sectors.contains sector with
    | some p => if inWindow (page * 65536) then s else keepWalk s p sector (page * 65536)
    | none => s)

/-- A request is to be sent, and the Outstanding Page Request Allocation leaves room for it (R148). -/
def mayRequest (p : Part) : Bool := (p.reqs.any fun r => !r.sent) && decide ((p.reqs.filter (·.sent)).length < p.priAlloc)

/-- PAGE_REQUEST_SEND: the oldest request that has not been sent goes to the host. Log 28 (DESIGN CHOICE). -/
def execPageRequestSend (part : Nat) (s : State) : Host.Outcome State Fault Refusal :=
  .next (match s.part? part with
    | none => s
    | some p =>
      match (p.reqs.find? fun r => !r.sent).filter fun _ => mayRequest p with
      | none => s
      | some r =>
        let pasid := if p.pricfg.getLsbD 20 then some (bits p.pricfg.toNat 19 0) else none
        let s := s.setPart { p with reqs := p.reqs.map fun y => if y.page = r.page then { y with sent := true } else y }
        { (s.notify (.pageRequest part r.page r.rd r.wr (r.ex && pasid.isSome) true pasid (Config.pageGroup s.free))) with free := s.free + 1 })

-- responses (R149, R151, R265)

def answerWait (page : Nat) (code : PriCode) (w : PageWait) : PageWait := if w.1 = page ∧ w.2 = none then (w.1, some code) else w

/-- A stopover whose every page has been answered: the instruction issues again. -/
def resumeGroup (g : Group) : Group :=
  match g.wait, g.pages.all fun w => w.2.isSome with
  | .stopover true, true => { g with wait := .none, codeServed := g.codeServed ++ g.pages.map (·.1) }
  | .stopover false, true => { g with wait := .none, served := true }
  | _, _ => g

/-- Log 36 (DESIGN CHOICE). -/
def answerGroup (part page : Nat) (code : PriCode) (g : Group) : Group :=
  if g.part = part then resumeGroup { g with pages := g.pages.map (answerWait page code) } else g

/-- An engine's await after a response. -/
def answerAwait (page : Nat) (ok : Bool) (w : Option (Nat × Bool)) : Option (Nat × Bool) :=
  match w with
  | some (p, false) => if p = page then (if ok then none else some (p, true)) else w
  | _ => w

def answerHead (page : Nat) (ok : Bool) (h : HeadSt) : HeadSt :=
  match h with
  | .paging ps op => .paging (ps.map fun x => if x.1 = page ∧ x.2 = none then (x.1, some ok) else x) op
  | h => h

/-- What the engines of a core await for teams of a partition; an answered page's translation is no longer held. -/
def answerCore (s : State) (part page : Nat) (ok : Bool) (c : CoreSt) : CoreSt :=
  let mine := fun (tid : Nat) => ((s.team? tid).map fun t => t.part == part).getD false
  let left := fun (l : List TlbEnt) => if ok then l.filter fun t => !t.isFor part page else l
  { c with
    itlbs := c.itlbs.map left
    dtlb := left c.dtlb
    run := c.run.map fun e => if mine e.cmd.tid then { e with await := answerAwait page ok e.await } else e
    copies := c.copies.map fun o => if mine o.tid then { o with await := answerAwait page ok o.await } else o
    gathers := c.gathers.map fun o => if mine o.tid then { o with await := answerAwait page ok o.await } else o }

/-- A group's stopover and its rows after a response. -/
def answerAny (part page : Nat) (code : PriCode) (g : Group) : Group :=
  let g := answerGroup part page code g
  if g.part = part then { g with merge := g.merge.map fun m => { m with await := answerAwait page (decide (code = .success)) m.await } } else g

/-- A walk of the page goes by way of the entry. -/
def NodeEnt.onPath (e : NodeEnt) (part page : Nat) : Bool :=
  e.part == part && e.index == bits (65536 * page) 54 (if e.level = 1 then 42 else 29)

/-- The answer to one page reaches everything that waits for it; no cache keeps an entry of its walk. -/
def answerPage (s : State) (part page : Nat) (code : PriCode) : State :=
  let ok := decide (code = .success)
  let f := answerAny part page code
  let s := { s with
    groups := s.groups.map f
    saved := s.saved.map fun (x : Saved) => { x with g := f x.g }
    ended := s.ended.map f
    cores := s.cores.map fun (c : Nat × CoreSt) => (c.1, answerCore s part page ok c.2)
    xlats := s.xlats.map fun (x : Nat × SectorTlb) =>
      (x.1, if ok then { ents := x.2.ents.filter fun t => !t.isFor part page, nodes := x.2.nodes.filter fun e => !e.onPath part page } else x.2) }
  s.modPart part fun p =>
    { p with
      reqs := p.reqs.filter fun r => r.page != page
      qpairs := p.qpairs.map fun q => { q with head := q.head.map (answerHead page ok) } }

/-- PAGE_RESPONSE: a Response Failure answers every request of the partition, and later ones are refused (R149). -/
def execPageResponse (part page : Nat) (code : PriCode) (s : State) : Host.Outcome State Fault Refusal :=
  .next (match s.part? part with
    | none => s
    | some p =>
      if !(p.reqs.any fun r => r.page == page && r.sent) then s
      else if code = .failure then
        let s := p.reqs.foldl (fun s r => answerPage s part r.page .failure) s
        s.modPart part fun p => { p with priFailed := true }
      else answerPage s part page code)

/-- PRI_RESET: PRI Enable goes to 0 and then to 1. Log 9 (DESIGN CHOICE). -/
def execPriReset (part : Nat) (s : State) : Host.Outcome State Fault Refusal :=
  .next (s.modPart part fun p => { p with priEnabled := true, priFailed := false })

/-- ATS_INVALIDATE of frames (R152). -/
def execAtsInvalidate (part page npages : Nat) (s : State) : Host.Outcome State Fault Refusal :=
  .next (s.modPart part fun p =>
    { p with atsBusy := true, ats := p.ats.filter fun f => !decide (page ≤ f ∧ f < page + npages) })

def hostPending (g : Group) : Bool := g.stbuf.any fun b => b.places.any fun x => decide (routeTier x.1 = some .host)

/-- ATS_INVALIDATE_COMPLETE once no access to host memory is on its way. -/
def execAtsInvalidateComplete (part : Nat) (s : State) : Host.Outcome State Fault Refusal :=
  .next (match s.part? part with
    | some p =>
      if p.atsBusy && !(s.allGroups.any fun g => g.part == part && hostPending g) then
        (s.setPart { p with atsBusy := false }).notify (.atsDone part)
      else s
    | none => s)

end Sys2Proof.Machine
end

