-- ==== Sys2Proof/Machine/MemSys.lean ====
section
/-! DEFINITION. The memory system's own steps: sectors landing, store buffers and atomics applied, line fills, notifications and parked
instructions, task dispatch (R39, R128, R246, R328, R350, R356 to R358, R372, R445). -/

namespace Sys2Proof.Machine

open Sys2Proof

-- sectors (R39)

/-- SECTOR_RETURN: the k-th delivery that has come for a group's tags is written in place. Log 15 (DESIGN CHOICE). -/
def execSectorReturn (gid k : Nat) (s : State) : Host.Outcome State Fault Refusal := .next (s.modGroup gid (landNth k))

-- store buffers (R246, R247, R328)

def BufOp.isAtomic : BufOp → Bool
  | .atomic _ _ _ _ _ => true
  | _ => false

/-- The entries of a group's store buffer that may be applied now. -/
def openEntries (g : Group) (atomic : Bool) : List Nat :=
  (List.range g.stbuf.length).filter fun k => mayPass g k && ((g.stbuf[k]?.map fun b => b.isAtomic == atomic).getD false)

/-- Applies one of them, the choice being open. -/
def applyOpen (s : State) (gid : Nat) (atomic : Bool) : State :=
  match s.anyGroup? gid with
  | none => s
  | some g =>
    let ks := openEntries g atomic
    let (j, s) := s.choose ks.length
    match ks[j]? with
    | none => s
    | some k =>
      match applyAt s g k with
      | some (s, g') => s.modAny gid fun _ => g'
      | none => s

/-- Log 13 (DESIGN CHOICE). -/
def execStoreApply (gid : Nat) (s : State) : Host.Outcome State Fault Refusal := .next (applyOpen s gid false)
/-- Log 13 (DESIGN CHOICE). -/
def execAtomicHomeApply (gid : Nat) (s : State) : Host.Outcome State Fault Refusal := .next (applyOpen s gid true)

-- line fills (R372, R445)

/-- LINE_FILL: a line comes to its home slice with the slice's floor as its version; whether the slice drops another of its lines for it,
and which, is the device's choice. Log 18 (DESIGN CHOICE), 63 (DESIGN CHOICE), 84 (DESIGN CHOICE). -/
def lineFill (s : State) (part line : Nat) : State :=
  match s.part? part with
  | none => s
  | some p =>
    if (Tab.get none p.lines line).isSome ∨ p.sectors = [] then s
    else
      let l := sliceVictims p (homeSlice p (line * 128))
      let (k, s) := s.choose (l.length + 1)
      let s := match l[k]? with
        | some x => dropVictim s part x
        | none => s
      sliceHold s part line false

def execLineFill (part line : Nat) (s : State) : Host.Outcome State Fault Refusal := .next (lineFill s part line)

-- notifications and parked instructions (R356 to R358)

/-- WAITER_NOTIFY: a notification reaches its core, for every instruction parked there on the object; it is ignored where none is
(R427). Log 35 (DEDUCED). -/
def notifyNth (s : State) (k : Nat) : State :=
  match s.notes[k]? with
  | none => s
  | some (part, core, r, a) =>
    { s with
      notes := s.notes.eraseIdx k
      groups := s.groups.map fun (g : Group) =>
        if g.part = part ∧ g.core = core then
          match g.wait with
          | .parked r' a' _ => if samePt (r', a') (r, a) then { g with wait := .parked r' a' true } else g
          | _ => g
        else g }

def execWaiterNotify (k : Nat) (s : State) : Host.Outcome State Fault Refusal := .next (notifyNth s k)

/-- An instruction of the core is parked and notified, or its entries of the engine queue are free. -/
def coreNotified (s : State) (core : Nat) : Bool :=
  s.groups.any fun g => g.core == core && (match g.wait with
    | .parked _ _ true => true
    | .engine => !gateParked s g
    | _ => false)

/-- CORE_WAKE: a notification restarts stopped issue clocks, and its instruction re-executes 200 of them later (R358). Log 35 (DEDUCED). -/
def execCoreWake (core : Nat) (s : State) : Host.Outcome State Fault Refusal :=
  .next (let c := s.core core
    if c.asleep ∧ coreNotified s core = true then
      s.setCore core { c with asleep := false, wakeIn := some 400 }
    else s)

/-- The re-execution of an instruction that parks (R356); any other is left. -/
def reexec (i : Instr) (s : State) : Host.Outcome State Fault Refusal :=
  match i with
  | .qpush h d q sel => execQpush h d q sel s
  | .qpop h d q sel => execQpop h d q sel s
  | .sqpush h d q => execSqpush h d q s
  | .sqpop h d q => execSqpop h d q s
  | .barw h a b sc sp => execBarw h a b sc sp s
  | .bar h a sc sp => execBar h a sc sp s
  | .taskwait h q => execTaskwait h q s
  | .cpy h a x => execCpy h a x s
  | _ => .next s

/-- Re-executes a group's parked instruction. -/
def rerun (s : State) (g : Group) : Host.Outcome State Fault Refusal :=
  match headInstr g with
  | none => .next s
  | some i =>
    reexec i { s with cur := some g.gid }

/-- No group of the core was parked on the same object before it and is notified too. Log 35 (DEDUCED). -/
def firstParked (s : State) (g : Group) : Bool :=
  match g.wait with
  | .parked r a true =>
    !(s.groups.any fun x => x.core == g.core && x.gid != g.gid && decide (x.parkedAt < g.parkedAt) &&
      (match x.wait with
        | .parked r' a' true => samePt (r', a') (r, a)
        | _ => false))
  | _ => false

/-- QUEUE_HOME_OP: a notified instruction re-executes, oldest parked first. Log 35 (DEDUCED). -/
def execQueueHomeOp (gid : Nat) (s : State) : Host.Outcome State Fault Refusal :=
  match s.group? gid with
  | some g => if firstParked s g && coreAwake s g.core then rerun s g else .next s
  | none => .next s

/-- PARK_REPOLL: an instruction that no waiter set holds re-executes every 1024 issue clocks (R357). Log 35 (DEDUCED). -/
def execParkRepoll (gid : Nat) (s : State) : Host.Outcome State Fault Refusal :=
  match s.group? gid with
  | some g =>
    (match g.wait with
      | .parked _ _ false =>
        if !gateParked s g && !clocksStopped s g.core && decide (g.parkedClk + 2048 ≤ g.sr.clk2) then rerun s g else .next s
      | _ => .next s)
  | none => .next s

/-- TASK_DISPATCH of the q-th task queue of a partition. -/
def execTaskDispatch (part q : Nat) (s : State) : Host.Outcome State Fault Refusal :=
  .next (match (s.part? part).bind fun p => p.tasks[q]? with
    | some t => taskDispatch s part t.route t.addr
    | none => s)

end Sys2Proof.Machine
end

