-- ==== Sys2Proof/Machine/Ending.lean ====
section
/-! DEFINITION. Endings (R433 to R436, R119): groups, teams, launches. -/

namespace Sys2Proof.Machine

open Sys2Proof

/-- Step 1 of R433: what an ending group's region leaves (R388). Log 37 (DEDUCED). -/
def endRegion (s : State) (g : Group) : State × Group :=
  let r := g.region
  let s := if r.spec && !(decide (r.state = .none)) then handOrders s g ((r.rlanes &&& ~~~(r.done ||| r.left)) ||| r.gone) else s
  let s := s.modPart g.part fun p =>
    { p with
      serialHolder := if p.serialHolder = some g.gid then none else p.serialHolder
      serialQueue := p.serialQueue.filter fun x => x != g.gid }
  (s, { g with region := Region.reset })

/-- Steps 2 and 3: a held task entry is retired, a pin nobody will use is given up, the open gather set is closed. -/
def endHoldings (s : State) (g : Group) : State × Group :=
  let s := match g.task with
    | some t => retireTask s g.part t
    | none => s
  let (s, g) := settleRec s g
  (s, { g with task := none, closing := true, gatherS := { g.gatherS with closed := (g.gatherS.closed + 1) % 2 ^ 64 } })

/-- Gradients that the group's ESCATs have given are still to be read or applied (R303). -/
def gatherLeft (s : State) (g : Group) : Bool :=
  !g.merge.isEmpty || ((s.core g.core).gathers.any fun o => o.scatter && o.gid == g.gid)

/-- Step 5: registers and slots are free; streams, failures and rows stay for the team. -/
def freeGroup (s : State) (g : Group) : State :=
  let s := { s with
    groups := s.groups.filter fun x => x.gid != g.gid
    saved := s.saved.filter fun x => x.g.gid != g.gid
    ended := s.ended ++ [{ g with slot := 8, wait := .none, stbuf := [], remWr := [], remOp := none }] }
  clockGate (s.modTeam g.tid fun t => { t with live := t.live.filter fun x => x != g.gid }) g.core

/-- GROUP_END: steps 1 to 3 once its older accesses are performed, since the token's return and the entry's are releases (R364, R380); its
resources are free when its stores are performed at system scope, its tags have drained and its
gather updates are applied (R303). -/
def groupEnd (s : State) (gid : Nat) : State :=
  match s.group? gid with
  | none => s
  | some g =>
    if !g.exiting || recAsked g then s
    else
      match performAll s g false with
      | none => s
      | some (s, g) =>
        let (s, g) := if g.closing then (s, g) else
          let (s, g) := endRegion s g
          endHoldings s g
        let s := s.setGroup g
        match performAll s g true with
        | none => s
        | some (s, g) =>
          match waitTags g allTags with
          | none => s.setGroup g
          | some g => if gatherLeft s g then s.setGroup g else freeGroup s g

def execGroupEnd (gid : Nat) (s : State) : Host.Outcome State Fault Refusal := .next (groupEnd s gid)

-- teams (R434, R435)

/-- Engine work of a team that is not complete: commands, copies, gathers, updates of gather batches. -/
def teamBusy (s : State) (t : Team) : Bool :=
  s.cores.any (fun c =>
    (c.2.cmds.any fun k => k.tid == t.tid) || (c.2.copies.any fun o => o.tid == t.tid) ||
    (c.2.gathers.any fun o => o.tid == t.tid) || (match c.2.run with
      | some e => e.cmd.tid == t.tid
      | none => false)) ||
  (s.ended.any fun g => g.tid == t.tid && !g.merge.isEmpty) ||
  s.engOut.any fun o => ((s.anyGroup? o.gid).map fun g => g.tid == t.tid).getD false

def groupFails (g : Group) : List EngFail := g.copyS.fails ++ g.matrixS.fails ++ g.gatherS.fails

/-- The status of a team that ends, and its CAUSE (R435). -/
def teamStatus (s : State) (t : Team) : Nat × Nat :=
  let fs := (s.ended.filter fun g => g.tid == t.tid).flatMap groupFails
  if t.lost then (stLost, 0)
  else
    match t.killCause with
    | some c => (stKilled, c.toNat)
    | none => if fs.isEmpty then (0, 0) else (stEngFault, (fs.foldl (fun (c : BitVec 16) f => c ||| f.causes) 0).toNat)

/-- TEAM_END: tiles and tokens are free at once, scratchpads with the last team of the cluster (R234). -/
def teamEnd (s : State) (tid : Nat) : State :=
  match s.team? tid with
  | none => s
  | some t =>
    if t.ended || !t.live.isEmpty || teamBusy s t then s
    else
      let (st, c) := teamStatus s t
      let s := s.setTeam { t with ended := true, acc := [], accP := [] }
      let s := s.modLaunch t.lid fun l => { l with results := l.results ++ [(t.t, st, c)] }
      let s := if st = 0 then s else s.modPart t.part fun p => { p with abnormal := (p.abnormal + 1) % 2 ^ 64 }
      let s := s.modCore t.core fun c => { c with hotTeams := c.hotTeams.filter fun x => x != tid }
      let s := { s with
        ended := s.ended.filter fun g => g.tid != tid
        cores := s.cores.map fun (c : Nat × CoreSt) => (c.1, { c.2 with ocache := c.2.ocache.filter fun o => o.tid != tid })
        savedTeams := s.savedTeams.filter fun x => x.tid != tid }
      let mates := fun (x : Team) => x.lid == t.lid && x.cluster == t.cluster
      if (s.teams.filter mates).all fun x => x.ended then { s with teams := s.teams.filter fun x => !mates x } else s

def execTeamEnd (tid : Nat) (s : State) : Host.Outcome State Fault Refusal := .next (teamEnd s tid)

-- launches (R119, R120, R436)

/-- The results of teams that ended otherwise than normally, the lowest index first. -/
def firstAbnormal (rs : List (Nat × Nat × Nat)) : Option (Nat × Nat × Nat) :=
  (rs.filter fun r => r.2.1 != 0).foldl (fun b r => match b with
    | none => some r
    | some x => if r.1 < x.1 then some r else some x) none

/-- The record of a launch that completes; TSTART is 0 where no team of it was ever placed. Log 94 (DESIGN CHOICE). -/
def launchRecord (s : State) (l : Launch) : List W64 :=
  let ok := (l.results.filter fun r => r.2.1 == 0).length
  let (k, st, c) := (firstAbnormal l.results).getD (0xFFFFFFFF, 0, 0)
  completionRecord l.launchId st c (l.tstart.isSome && decide (l.startTier < 3)) l.hotHalf k ok (l.tstart.getD 0) s.ns

/-- LAUNCH_COMPLETE: the record is pushed, then the launch leaves the table. -/
def launchComplete (s : State) (lid : Nat) : State :=
  match s.launch? lid with
  | none => s
  | some l =>
    if l.results.length < gridTeams l.grid then s
    else
      match pushRecord s l.part l.pair (launchRecord s l) with
      | (_, false) => s
      | (s, true) =>
        noteWaits { (s.modPart l.part fun p => { p with table := p.table.filter fun x => x != lid }) with
          launches := s.launches.filter fun x => x.lid != lid } l.part

def execLaunchComplete (lid : Nat) (s : State) : Host.Outcome State Fault Refusal := .next (launchComplete s lid)

end Sys2Proof.Machine
end

