-- ==== Sys2Proof/Machine/Power.lean ====
section
/-! DEFINITION. Power tokens and the issue clock (R135, R136), heat and droop marks (R132). -/

namespace Sys2Proof.Machine

open Sys2Proof

-- tokens (R135)

/-- The tokens a core waits for: its engine is idle and an MMA, whole with its MSCALE, stands at the head of its queue without them. -/
def tokensWanted (s : State) (core : Nat) : Nat :=
  let c := s.core core
  match c.run, c.cmds with
  | none, k :: _ => if k.isMma && !(k.isF4 && k.scale.isNone) && !c.fenced && decide (c.tokens < cmdTokens k) then cmdTokens k - c.tokens else 0
  | _, _ => 0

/-- Tokens go back to the message, one withdrawn at a time while firmware withdraws them (R136). Log 48 (DEDUCED). -/
def giveTokens (d : DieSt) : Nat → DieSt
  | 0 => d
  | n + 1 => giveTokens (if 0 < d.withdraw ∧ 8 < d.limit then { d with limit := d.limit - 1 } else { d with count := d.count + 1 }) n

/-- The partition that owns a core. -/
def corePart (s : State) (core : Nat) : Option Nat := (s.parts.find? fun p => p.sectors.contains (core / 16)).map (·.id)

/-- The message at one core: it returns tokens, takes what it waits for, or reserves; the reservation of a core that waits no more is cleared when
the message next reaches it. Log 47 (DESIGN CHOICE). -/
def visitCore (s : State) (die : Nat) : State :=
  let d := s.die die
  let core := 48 * die + d.pos
  let c := s.core core
  let d := giveTokens d c.giveBack
  let c := { c with giveBack := 0 }
  let n := tokensWanted s core
  let next := (d.pos + 1) % 48
  if n = 0 then (s.setCore core { c with tokSeen := false }).setDie die { d with pos := next, resv := if d.resv = some core then none else d.resv }
  else if n ≤ d.count ∧ (d.resv = none ∨ d.resv = some core) then
    (s.setCore core { c with tokens := c.tokens + n, tokWait := none, tokSeen := false }).setDie die
      { d with count := d.count - n, resv := none, pos := next }
  else
    let r := if c.tokSeen && d.resv.isNone then some core else d.resv
    (s.setCore core { c with tokWait := some (c.tokWait.getD s.now), tokSeen := true }).setDie die { d with resv := r, pos := next }

/-- Log 47 (DESIGN CHOICE). -/
def execTokenVisit (die : Nat) (s : State) : Host.Outcome State Fault Refusal := .next (if die < 8 then visitCore s die else s)

-- the power cap (R136), in milliwatts, and times in State.now's units

def msTicks (n : Nat) : Nat := 34000000 * n

/-- How long something has held. -/
def heldFor (s : State) (t : Option Nat) (n : Nat) : Bool :=
  match t with
  | some x => decide (x + n ≤ s.now)
  | none => false

/-- POWER_SAMPLE. Log 48 (DEDUCED). -/
def execPowerSample (die milliwatt : Nat) (s : State) : Host.Outcome State Fault Refusal :=
  let d := s.die die
  let above := decide (650000 < milliwatt)
  .next (s.setDie die { d with
    power := milliwatt
    overSince := if above then some (d.overSince.getD s.now) else none
    withdraw := if above then d.withdraw else 0
    minSince := if above && d.withdraw != 0 && decide (d.limit ≤ 8) then some (d.minSince.getD s.now) else none
    underSince := if milliwatt < 585000 then some (d.underSince.getD s.now) else none })

/-- POWER_CAP_EXCEEDED: firmware begins to withdraw tokens. Log 48 (DEDUCED). -/
def execPowerCapExceeded (die : Nat) (s : State) : Host.Outcome State Fault Refusal :=
  let d := s.die die
  .next (if heldFor s d.overSince (msTicks 1) then s.setDie die { d with
      withdraw := 1, restoreAt := none, minSince := if d.limit ≤ 8 then some (d.minSince.getD s.now) else none } else s)

def execClockHalve (die : Nat) (s : State) : Host.Outcome State Fault Refusal :=
  let d := s.die die
  .next (if heldFor s d.minSince (msTicks 1) && decide (d.limit ≤ 8) then s.setDie die { d with halved := true } else s)

def execClockRestore (die : Nat) (s : State) : Host.Outcome State Fault Refusal :=
  let d := s.die die
  .next (if d.halved && heldFor s d.underSince (msTicks 10) then s.setDie die { d with halved := false, restoreAt := some (s.now + msTicks 1) } else s)

/-- The tokens a die ring begins with (R99). -/
def tokenCount (b : Boot) : Nat := if b.tokens = 0 then 36 else b.tokens

/-- A token is due to be restored: one millisecond after the last, or, where no clock was halved, after the 10 ms below 585 W. Log 48 (DEDUCED). -/
def restoreDue (s : State) (d : DieSt) : Bool :=
  !d.halved && d.withdraw == 0 && decide (d.limit < tokenCount s.boot) &&
  (match d.restoreAt with
    | some t => decide (t ≤ s.now)
    | none => heldFor s d.underSince (msTicks 11))

def execTokenRestore (die : Nat) (s : State) : Host.Outcome State Fault Refusal :=
  let d := s.die die
  .next (if restoreDue s d then
      s.setDie die { d with
        count := d.count + 1, limit := d.limit + 1
        restoreAt := if d.limit + 1 < tokenCount s.boot then some (s.now + msTicks 1) else none }
    else s)

-- heat and droop (R132), in hundredths of a degree

/-- HEAT_MARK: a temperature of the core. -/
def execHeatMark (core centi : Nat) (s : State) : Host.Outcome State Fault Refusal :=
  .next (s.modCore core fun c =>
    { c with
      temp := centi
      heat := c.heat || decide (9500 ≤ centi)
      coolSince := if 8800 ≤ c.temp then s.now else c.coolSince })

def execHeatMarkClear (core : Nat) (s : State) : Host.Outcome State Fault Refusal :=
  let c := s.core core
  .next (if c.heat && decide (c.temp < 8800 ∧ c.coolSince + msTicks 2 ≤ s.now) then s.setCore core { c with heat := false } else s)

/-- DROOP_MARK: the core records a droop event. -/
def execDroopMark (core : Nat) (s : State) : Host.Outcome State Fault Refusal :=
  .next (s.modCore core fun c =>
    let l := (c.droops.filter fun t => decide (s.now < t + msTicks 1)) ++ [s.now]
    { c with droops := l, droop := c.droop || decide (4 < l.length) })

def execDroopMarkClear (core : Nat) (s : State) : Host.Outcome State Fault Refusal :=
  let c := s.core core
  .next (if c.droop && c.droops.all fun t => decide (t + msTicks 2 ≤ s.now) then s.setCore core { c with droop := false, droops := [] } else s)

end Sys2Proof.Machine
end

