-- ==== Sys2Proof/Machine/Boot.lean ====
section
/-! DEFINITION. The boot record (R99), service tiers (R100), creating and destroying partitions (R101, R102, R425). -/

namespace Sys2Proof.Machine

open Sys2Proof

-- the boot record (R99)

def bootTokens (r : List Byte) : Nat := bits (dw r 1) 15 10
def bootSplit (r : List Byte) : Nat := bits (dw r 1) 1 0

/-- The fields of a boot record are legal. Log 75 (DEDUCED). -/
def bootLegal (r : List Byte) : Bool :=
  r.length == 64 && bits (dw r 0) 63 32 == 0x42524741 && bits (dw r 0) 31 16 == 1 && bits (dw r 0) 15 0 == 0 &&
  bits (dw r 1) 63 16 == 0 && decide (bootTokens r ≤ 48) && bits (dw r 1) 9 2 == 0 && bootSplit r != 3 &&
  [3, 4, 5, 6, 7].all fun n => dw r n == 0

/-- The low 64 bits of a digest, read as R7 reads bytes. Log 75 (DEDUCED). -/
def lowDigest (bs : List Byte) : Nat := leNat ((sha256 bs).take 8)

/-- A record is read: one that verifies sets what the device chooses and loads the firmware its digest matches; any other leaves tier 0. Whether
the signature verifies under the root key is `sigOk`. Log 75 (DEDUCED), 95 (DESIGN CHOICE). -/
def takeRecord (s : State) (r : List Byte) (sigOk : Bool) (fw : List Byte) : State :=
  if sigOk && bootLegal r then
    let ok := lowDigest fw == dw r 2
    let b : Boot := {
      record := some r, verified := true, bad := false, tokens := bootTokens r, split := bootSplit r
      fwDigest := BitVec.ofNat 64 (dw r 2), fw := if ok then fw else [], fwLoaded := ok, tier := s.boot.tier }
    { s with boot := b, dies := s.dies.map fun d => { d with count := tokenCount b, limit := tokenCount b } }
  else { (s.notify .bootrecBad) with boot := { s.boot with record := some r, bad := true } }

/-- BOOT_RECORD_VERIFY, at power-on. -/
def execBootRecordVerify (rec : List Byte) (sigOk : Bool) (fw : List Byte) (s : State) : Host.Outcome State Fault Refusal :=
  .next (if s.boot.record = none then takeRecord s rec sigOk fw else s)

/-- BOOT_RECORD_LOAD, while the device reports BOOTREC_BAD. -/
def execBootRecordLoad (rec : List Byte) (sigOk : Bool) (fw : List Byte) (s : State) : Host.Outcome State Fault Refusal :=
  .next (if s.boot.bad then takeRecord s rec sigOk fw else s)

/-- TIER_REACHED: firmware runs, and what the next tier asks for is trained. Log 3 (DESIGN CHOICE). -/
def execTierReached (s : State) : Host.Outcome State Fault Refusal :=
  .next (if s.boot.verified && s.boot.fwLoaded && decide (s.boot.tier < 3) then { s with boot := { s.boot with tier := s.boot.tier + 1 } }
    else s)

-- partitions (R101, R102)

/-- Numbers below a bound, each once. -/
def distinctBelow (n : Nat) (l : List Nat) : Bool := l.all (fun (x : Nat) => decide (x < n)) && decide l.Nodup

def insertSorted (n : Nat) : List Nat → List Nat
  | [] => [n]
  | x :: t => if n ≤ x then n :: x :: t else x :: insertSorted n t
def sorted (l : List Nat) : List Nat := l.foldr insertSorted []

/-- MiB of the context store, and of a channel group (R140, R425). Log 44 (DESIGN CHOICE). -/
def storeMiB (sectors : Nat) : Nat := 768 * sectors
def groupMiB : Nat := 8192

/-- Log 44 (DESIGN CHOICE), 76 (DEDUCED). -/
def mayCreate (s : State) (p : Nat) (sectors groups : List Nat) : Bool :=
  s.boot.verified && decide (p < 24) && (s.part? p).isNone && distinctBelow 24 sectors && distinctBelow 128 groups &&
  !sectors.isEmpty && !groups.isEmpty &&
  s.parts.all (fun q => !(sectors.any q.sectors.contains) && !(groups.any q.cgroups.contains)) &&
  decide (storeMiB sectors.length ≤ groupMiB * groups.length)

/-- The counters of the ports a partition owns take their reset values when it is created (R146). -/
def freshCounters (f : Fabric) (p : Nat) : Fabric :=
  { f with ports := f.ports.map fun x => if x.assigned && x.owner == p then { x with ctrs := [] } else x }

/-- Log 76 (DEDUCED). -/
def execPartitionCreate (p : Nat) (sectors groups : List Nat) (s : State) : Host.Outcome State Fault Refusal :=
  .next (if mayCreate s p sectors groups then
      { s with
        parts := s.parts ++ [Part.create p (sorted sectors) (sorted groups) (randomKey s)]
        free := s.free + 64
        fabric := freshCounters s.fabric p }
    else s)

/-- A device-local physical address lies in a vault of one of the sectors. -/
def inVaultOf (sectors : List Nat) (pa : Nat) : Bool :=
  decide (0x10000000000 ≤ pa ∧ pa < 0x10200000000) && sectors.contains (bits pa 32 30 * 3 + bits pa 29 26 / 4)

/-- The vaults of the sectors read as zero. -/
def zeroVaults (sectors : List Nat) (d : Store) : Store :=
  { d with
    bytes := d.bytes.filter fun c => !inVaultOf sectors c.1
    pois := d.pois.filter fun n => !inVaultOf sectors (n * 32)
    keys := d.keys.filter fun k => !inVaultOf sectors (k.1 * 32) }

/-- What a core keeps when its partition is destroyed: its fence, its temperature and its droop history. Log 76 (DEDUCED). -/
def wipeCore (c : CoreSt) : CoreSt :=
  { CoreSt.reset with
    fenced := c.fenced, heat := c.heat, temp := c.temp, coolSince := c.coolSince, droop := c.droop, droops := c.droops
    giveBack := c.giveBack + c.tokens }

/-- PARTITION_DESTROY (R102): keys first, then cached state without write-back, then vaults, then the resources. Log 76 (DEDUCED). -/
def execPartitionDestroy (p : Nat) (s : State) : Host.Outcome State Fault Refusal :=
  .next (match s.part? p with
    | none => s
    | some q =>
      if !q.table.isEmpty then s
      else
        { s with
          slots := s.slots.filter fun k => k.2.owner != p
          cores := s.cores.map fun (c : Nat × CoreSt) => if q.sectors.contains (c.1 / 16) then (c.1, wipeCore c.2) else c
          xlats := s.xlats.filter fun x => !q.sectors.contains x.1
          notes := s.notes.filter fun x => x.1 != p
          groups := s.groups.filter fun g => g.part != p
          saved := s.saved.filter fun x => x.g.part != p
          ended := s.ended.filter fun g => g.part != p
          teams := s.teams.filter fun t => t.part != p
          dev := zeroVaults q.sectors s.dev
          sessions := s.sessions.filter fun x => x.1 != p + 1
          parts := s.parts.filter fun x => x.id != p })

end Sys2Proof.Machine
end

