-- ==== Sys2Proof/Machine/Scalar.lean ====
section
/-! DEFINITION. The scalar, special-register and mask instructions (R174 to R186). -/

namespace Sys2Proof.Machine

open Sys2Proof

/-- An instruction with a scalar result computed from uniform operands (R173). -/
def scalarOp (i : Instr) (d : Option SDst) (f : (UOp → W64) → W64) (s : State) (g : Group) : Out :=
  let x := srcOf s g
  if poisonU x (iUs i) then .stop (stopAll g .poison 0)
  else
    let v := f fun u => (rdU x u).1
    let (s, g) := writeS s g d v
    .done s g (.scalar v false)

/-- A mask as a scalar result. -/
def maskResult (d : Option SDst) (f : Group → W64) (s : State) (g : Group) : Out :=
  let v := f g
  let (s, g) := writeS s g d v
  .done s g (.scalar v false)

def execSadd (h : Hdr) (d : Option SDst) (a b : UOp) (ty : STy) (sat : Bool) (s : State) : Host.Outcome State Fault Refusal :=
  let i := Instr.sadd h d a b ty sat
  issue i (scalarOp i d fun r => tyRes (styTy ty) sat (tyVal (styTy ty) (r a) + tyVal (styTy ty) (r b))) s

def execSsub (h : Hdr) (d : Option SDst) (a b : UOp) (ty : STy) (sat : Bool) (s : State) : Host.Outcome State Fault Refusal :=
  let i := Instr.ssub h d a b ty sat
  issue i (scalarOp i d fun r => tyRes (styTy ty) sat (tyVal (styTy ty) (r a) - tyVal (styTy ty) (r b))) s

def execSmul (h : Hdr) (d : Option SDst) (a b : UOp) (ty : STy) (sat : Bool) (s : State) : Host.Outcome State Fault Refusal :=
  let i := Instr.smul h d a b ty sat
  issue i (scalarOp i d fun r => tyRes (styTy ty) sat (tyVal (styTy ty) (r a) * tyVal (styTy ty) (r b))) s

def execSmulh (h : Hdr) (d : Option SDst) (a b : UOp) (ty : STy) (s : State) : Host.Outcome State Fault Refusal :=
  let i := Instr.smulh h d a b ty
  issue i (scalarOp i d fun r => mulHigh (styTy ty) (r a) (r b)) s

def execSand (h : Hdr) (d : Option SDst) (a b : UOp) (ty : STy) (s : State) : Host.Outcome State Fault Refusal :=
  let i := Instr.sand h d a b ty
  issue i (scalarOp i d fun r => r a &&& r b) s

def execSor (h : Hdr) (d : Option SDst) (a b : UOp) (ty : STy) (s : State) : Host.Outcome State Fault Refusal :=
  let i := Instr.sor h d a b ty
  issue i (scalarOp i d fun r => r a ||| r b) s

def execSxor (h : Hdr) (d : Option SDst) (a b : UOp) (ty : STy) (s : State) : Host.Outcome State Fault Refusal :=
  let i := Instr.sxor h d a b ty
  issue i (scalarOp i d fun r => r a ^^^ r b) s

def execSshl (h : Hdr) (d : Option SDst) (a b : UOp) (ty : STy) (s : State) : Host.Outcome State Fault Refusal :=
  let i := Instr.sshl h d a b ty
  issue i (scalarOp i d fun r => shlTy .n64 (r a) (r b)) s

def execSshr (h : Hdr) (d : Option SDst) (a b : UOp) (ty : STy) (s : State) : Host.Outcome State Fault Refusal :=
  let i := Instr.sshr h d a b ty
  issue i (scalarOp i d fun r => shrTy .n64 (r a) (r b)) s

def execSsar (h : Hdr) (d : Option SDst) (a b : UOp) (ty : STy) (s : State) : Host.Outcome State Fault Refusal :=
  let i := Instr.ssar h d a b ty
  issue i (scalarOp i d fun r => sarTy .i64 (r a) (r b)) s

def execSmin (h : Hdr) (d : Option SDst) (a b : UOp) (ty : STy) (s : State) : Host.Outcome State Fault Refusal :=
  let i := Instr.smin h d a b ty
  issue i (scalarOp i d fun r => minTy (styTy ty) (r a) (r b)) s

def execSmax (h : Hdr) (d : Option SDst) (a b : UOp) (ty : STy) (s : State) : Host.Outcome State Fault Refusal :=
  let i := Instr.smax h d a b ty
  issue i (scalarOp i d fun r => maxTy (styTy ty) (r a) (r b)) s

def execScmp (h : Hdr) (d : Option SDst) (a b : UOp) (ty : STy) (c : Cond) (s : State) : Host.Outcome State Fault Refusal :=
  let i := Instr.scmp h d a b ty c
  issue i (scalarOp i d fun r => b2w (condHolds c (tyVal (styTy ty) (r a)) (tyVal (styTy ty) (r b)))) s

def execSsel (h : Hdr) (d : Option SDst) (a b c : UOp) (ty : STy) (s : State) : Host.Outcome State Fault Refusal :=
  let i := Instr.ssel h d a b c ty
  issue i (scalarOp i d fun r => if r a ≠ 0 then r b else r c) s

def execSmov (h : Hdr) (d : Option SDst) (a : UOp) (ty : STy) (s : State) : Host.Outcome State Fault Refusal :=
  let i := Instr.smov h d a ty
  issue i (scalarOp i d fun r => r a) s

def execSbit (h : Hdr) (d : Option SDst) (a : UOp) (op : BitOp UOp) (ty : STy) (s : State) : Host.Outcome State Fault Refusal :=
  let i := Instr.sbit h d a op ty
  issue i (scalarOp i d fun r => bitTy (styTy ty) op (r a) fun u => (r u).toNat) s

def execSli (h : Hdr) (d : Option SDst) (imm : BitVec 32) (s : State) : Host.Outcome State Fault Refusal :=
  let i := Instr.sli h d imm
  issue i (scalarOp i d fun _ => imm.signExtend 64) s

def execSlih (h : Hdr) (d : Option SDst) (a : UOp) (imm : BitVec 32) (s : State) : Host.Outcome State Fault Refusal :=
  let i := Instr.slih h d a imm
  issue i (scalarOp i d fun r => imm ++ (r a).setWidth 32) s

-- special registers

/-- XCTX (R411). -/
def xctxOf (t : TrapCtx) : W64 :=
  BitVec.ofNat 64 ((if t.stepen then 2 ^ 63 else 0) + (if t.pn then 2 ^ 62 else 0) + (if t.inh then 2 ^ 61 else 0)
    + (if t.wv then 2 ^ 60 else 0) + t.rcnt % 32 * 2 ^ 55 + t.tcode.toNat * 2 ^ 32)

/-- A group-wide special register, reserved bits reading 0 (R45, R181). -/
def srValue (s : State) (g : Group) : SReg → W64
  | .lane | .srseed | .txstatus => 0
  | .fpflags => g.sr.fpflags.setWidth 64
  | .amax => g.sr.amax.setWidth 64
  | .budget => BitVec.ofNat 64 (g.sr.budget % 256)
  | .wmdepth => BitVec.ofNat 64 (g.wmDepth % 128)
  | .privbase => g.sr.privbase
  | .cause => g.sr.cause.setWidth 64
  | .faultmask => g.sr.faultmask
  | .xpc => g.trap.xpc &&& 0x007FFFFFFFFFFFF8
  | .xexm => g.trap.xexm
  | .xaddr => g.trap.xaddr
  | .xctx => xctxOf g.trap
  | .cycles => BitVec.ofNat 64 (g.sr.clk2 / 2)
  | .retired => g.sr.retired
  | .tier => BitVec.ofNat 64 (s.boot.tier % 4)
  | .partid => BitVec.ofNat 64 (g.part % 32)

/-- A per-lane special register. -/
def srLane (g : Group) (n : SReg) (l : Lane) : W32 :=
  match n with
  | .srseed => g.sr.srseed[l.val]
  | .txstatus => g.sr.txstatus[l.val]
  | _ => BitVec.ofNat 32 l.val

def execRdsr (h : Hdr) (d : Option RDst) (n : SReg) (s : State) : Host.Outcome State Fault Refusal :=
  issue (.rdsr h d n) (fun s g =>
    if n.perLane then
      let dv := match d with
        | some (.v x) => some x
        | _ => none
      let (g, w) := writeV32 g dv g.regs.exm (srLane g n)
      .done s g w
    else
      let ds := match d with
        | some (.s x) => some x
        | _ => none
      maskResult ds (fun g => srValue s g n) s g) s

/-- A write of a group-wide register (R182, R412); a read-only one is refused at issue. -/
def srWrite (g : Group) (n : SReg) (v : W64) : Group :=
  match n with
  | .fpflags => { g with sr := { g.sr with fpflags := v.setWidth 5 } }
  | .amax => { g with sr := { g.sr with amax := v.setWidth 32 } }
  | .xpc => { g with trap := { g.trap with xpc := v &&& 0x007FFFFFFFFFFFF8, wv := false } }
  | .xexm => { g with trap := { g.trap with xexm := v } }
  | .xaddr => { g with trap := { g.trap with xaddr := v } }
  | .xctx =>
    { g with trap := { g.trap with stepen := v.getLsbD 63, pn := v.getLsbD 62, wv := g.trap.wv && v.getLsbD 60 } }
  | _ => g

def execWrsr (h : Hdr) (n : SReg) (a : OOp) (s : State) : Host.Outcome State Fault Refusal :=
  let i := Instr.wrsr h n a
  issue i (fun s g =>
    let x := srcOf s g
    if n = .srseed then
      let p := poisonLanes x (iOs i) g.regs.exm
      if p ≠ 0 then .stop (poisonStop p)
      else
        let seeds : Vector W32 64 :=
          Vector.ofFn fun l => if g.regs.exm.getLsbD l.val then (rd32 x a l).1 else g.sr.srseed[l.val]
        .done s { g with sr := { g.sr with srseed := seeds } } .none
    else if poisonU x (iUs i) then .stop (stopAll g .poison 0)
    else
      match a with
      | .u u => .done s (srWrite g n (rdU x u).1) .none
      | _ => .stop (stopAll g .illop 0)) s

/-- The highest vector register a pending tag names, plus one. -/
def tagTop (g : Group) : Nat :=
  g.tags.toList.foldl (fun m t => match t with
    | some t => t.regs.foldl (fun m r => max m (r.toNat + 1)) m
    | none => m) 0

/-- The registers from `lo` to `hi` - 1 read zero, unmarked. -/
def zeroRegs (r : Regs) (lo hi : Nat) : Regs :=
  { r with
    v := Vector.ofFn fun n => if lo ≤ n.val ∧ n.val < hi then Vector.replicate 64 0 else r.v[n.val]
    vp := Vector.ofFn fun n => if lo ≤ n.val ∧ n.val < hi then 0 else r.vp[n.val] }

/-- A GROW that has not blocked takes the free registers it needs, whatever older ones wait for. Log 80 (DEDUCED). -/
def execGrow (h : Hdr) (n : BitVec 8) (s : State) : Host.Outcome State Fault Refusal :=
  let i := Instr.grow h n
  issue i (fun s g =>
    let n := n.toNat
    let b := g.sr.budget
    let fin := fun (g : Group) => Out.done s g .none
    if ((s.launch? g.lid).map (·.growCeil)).getD 128 < n then .stop (stopAll g .growdeny 0)
    else if n = b then fin g
    else if b < n then
      if n - b ≤ freeRegs s g.core g.sub then
        fin { g with sr := { g.sr with budget := n }, regs := zeroRegs g.regs b n }
      else .halt s { g with wait := .grow n, waitFrom := match g.wait with
        | .grow _ => g.waitFrom
        | _ => some g.sr.clk2 }
    else if n < tagTop g then .wait s g
    else fin { g with sr := { g.sr with budget := n }, regs := zeroRegs g.regs n b }) s

def execTwait (h : Hdr) (set : BitVec 7) (s : State) : Host.Outcome State Fault Refusal :=
  issue (.twait h set) (fun s g =>
    match waitTags g (allTags.filter fun n => set.getLsbD (n - 1)) with
    | some g => .done s g .none
    | none => .wait s g) s

def execClrc (h : Hdr) (bits : BitVec 16) (s : State) : Host.Outcome State Fault Refusal :=
  issue (.clrc h bits) (fun s g => .done s { g with sr := { g.sr with cause := g.sr.cause &&& ~~~bits } } .none) s

-- masks (R186)

/-- Sets a mask register or EXM. -/
def setMask (g : Group) (d : MOp) (x : LMask) : Group := { g with regs := g.regs.setMOp d x }

def execMmov (h : Hdr) (d a : MOp) (s : State) : Host.Outcome State Fault Refusal :=
  issue (.mmov h d a) (fun s g => .done s (setMask g d (rdM g.regs a)) .none) s

/-- A truth table on two masks, bit 2a + b of the table for each lane. -/
def mlogic (tt : BitVec 4) (a b : LMask) : LMask :=
  maskOf fun l => tt.getLsbD ((if a.getLsbD l.val then 2 else 0) + if b.getLsbD l.val then 1 else 0)

def execMlog (h : Hdr) (d a b : MOp) (tt : BitVec 4) (s : State) : Host.Outcome State Fault Refusal :=
  issue (.mlog h d a b tt) (fun s g => .done s (setMask g d (mlogic tt (rdM g.regs a) (rdM g.regs b))) .none) s

def execMpopc (h : Hdr) (d : Option SDst) (a : MOp) (s : State) : Host.Outcome State Fault Refusal :=
  issue (.mpopc h d a) (maskResult d fun g => BitVec.ofNat 64 (popc (rdM g.regs a))) s

def execMfirst (h : Hdr) (d : Option SDst) (a : MOp) (s : State) : Host.Outcome State Fault Refusal :=
  issue (.mfirst h d a) (maskResult d fun g => BitVec.ofNat 64 (lowBit (rdM g.regs a))) s

def execMrd (h : Hdr) (d : Option SDst) (a : MOp) (s : State) : Host.Outcome State Fault Refusal :=
  issue (.mrd h d a) (maskResult d fun g => rdM g.regs a) s

def execMwr (h : Hdr) (d : MOp) (a : UOp) (s : State) : Host.Outcome State Fault Refusal :=
  let i := Instr.mwr h d a
  issue i (fun s g =>
    let x := srcOf s g
    if poisonU x (iUs i) then .stop (stopAll g .poison 0) else .done s (setMask g d (rdU x a).1) .none) s

def execMtest (h : Hdr) (d : Option SDst) (a : MOp) (b : UOp) (s : State) : Host.Outcome State Fault Refusal :=
  let i := Instr.mtest h d a b
  issue i (fun s g => scalarOp i d (fun r => b2w ((rdM g.regs a).getLsbD ((r b).toNat % 64))) s g) s

end Sys2Proof.Machine
end

