-- ==== Sys2Proof/Machine/Vector.lean ====
section
/-! DEFINITION. The vector integer, floating-point and special-function instructions (R200 to R224). -/

namespace Sys2Proof.Machine

open Sys2Proof

/-- An instruction that computes a result of width 32 or 64 in each active lane (R200, R203). -/
def vecOp (i : Instr) (d : Option VReg) (sel : BitVec 3) (wide : Bool) (f : Src → Lane → W64) (s : State) (g : Group) : Out :=
  let x := srcOf s g
  let act := active g.regs sel
  let p := poisonLanes x (iOs i) act
  if p ≠ 0 then .stop (poisonStop p)
  else
    let (g, w) := writeVW wide g d act (f x)
    .done s g w

/-- The same with FPFLAGS (R204). -/
def vecFOp (i : Instr) (d : Option VReg) (sel : BitVec 3) (wide : Bool) (f : Src → Lane → W64 × BitVec 5) (s : State) (g : Group) :
    Out :=
  let x := srcOf s g
  let act := active g.regs sel
  let p := poisonLanes x (iOs i) act
  if p ≠ 0 then .stop (poisonStop p)
  else
    let (g, w) := writeVW wide g d act fun l => (f x l).1
    .done s (orFlags g (lanesFlags act fun l => (f x l).2)) w

/-- A comparison into a mask register (R211, R218). -/
def vecCmp (i : Instr) (d : BitVec 3) (sel : BitVec 3) (f : Src → Lane → Bool) (s : State) (g : Group) : Out :=
  let x := srcOf s g
  let act := active g.regs sel
  let p := poisonLanes x (iOs i) act
  if p ≠ 0 then .stop (poisonStop p) else .done s (writeM g d act (maskOf (f x))) .none

/-- An operand's bits at a type's width. -/
def vx (t : VTy) (x : Src) (a : OOp) (l : Lane) : W64 := (rdW t.wide x a l).1
/-- An operand as an integer of a type (X of R201). -/
def vi (t : VTy) (x : Src) (a : OOp) (l : Lane) : Int := tyVal t (vx t x a l)
/-- An operand as a 32-bit element. -/
def v32 (x : Src) (a : OOp) (l : Lane) : W32 := (rd32 x a l).1

def execVadd (h : Hdr) (d : Option VReg) (a b : OOp) (sel : BitVec 3) (ty : VTy) (sat : Bool) (s : State) : Host.Outcome State Fault Refusal :=
  let i := Instr.vadd h d a b sel ty sat
  issue i (vecOp i d sel ty.wide fun x l => tyRes ty sat (vi ty x a l + vi ty x b l)) s

def execVsub (h : Hdr) (d : Option VReg) (a b : OOp) (sel : BitVec 3) (ty : VTy) (sat : Bool) (s : State) : Host.Outcome State Fault Refusal :=
  let i := Instr.vsub h d a b sel ty sat
  issue i (vecOp i d sel ty.wide fun x l => tyRes ty sat (vi ty x a l - vi ty x b l)) s

def execVmul (h : Hdr) (d : Option VReg) (a b : OOp) (sel : BitVec 3) (ty : VTy) (sat : Bool) (s : State) : Host.Outcome State Fault Refusal :=
  let i := Instr.vmul h d a b sel ty sat
  issue i (vecOp i d sel ty.wide fun x l => tyRes ty sat (vi ty x a l * vi ty x b l)) s

def execVmulh (h : Hdr) (d : Option VReg) (a b : OOp) (sel : BitVec 3) (ty : VTy) (s : State) : Host.Outcome State Fault Refusal :=
  let i := Instr.vmulh h d a b sel ty
  issue i (vecOp i d sel ty.wide fun x l => mulHigh ty (vx ty x a l) (vx ty x b l)) s

def execVmad (h : Hdr) (d : Option VReg) (a b c : OOp) (sel : BitVec 3) (ty : VTy) (sat : Bool) (s : State) : Host.Outcome State Fault Refusal :=
  let i := Instr.vmad h d a b c sel ty sat
  issue i (vecOp i d sel ty.wide fun x l => tyRes ty sat (vi ty x a l * vi ty x b l + vi ty x c l)) s

/-- The sum of VADDC with its carry (R208). -/
def addc (a b : W64) (c : Bool) : Nat := a.toNat + b.toNat + (if c then 1 else 0)

def execVaddc (h : Hdr) (d : Option VReg) (a b : OOp) (sel : BitVec 3) (ty : VTy) (k : BitVec 3) (s : State) :
    Host.Outcome State Fault Refusal :=
  let i := Instr.vaddc h d a b sel ty k
  issue i (fun s g =>
    let x := srcOf s g
    let act := active g.regs sel
    let p := poisonLanes x (iOs i) act
    if p ≠ 0 then .stop (poisonStop p)
    else
      let m := g.regs.m[k.toNat]
      let sum := fun (l : Lane) => addc (vx ty x a l) (vx ty x b l) (m.getLsbD l.val)
      let (g, w) := writeVW ty.wide g d act fun l => tyWrap ty (sum l)
      .done s (writeM g k act (maskOf fun l => (sum l).testBit (tyWidth ty))) w) s

def execVand (h : Hdr) (d : Option VReg) (a b : OOp) (sel : BitVec 3) (ty : VTy) (s : State) : Host.Outcome State Fault Refusal :=
  let i := Instr.vand h d a b sel ty
  issue i (vecOp i d sel ty.wide fun x l => vx ty x a l &&& vx ty x b l) s

def execVor (h : Hdr) (d : Option VReg) (a b : OOp) (sel : BitVec 3) (ty : VTy) (s : State) : Host.Outcome State Fault Refusal :=
  let i := Instr.vor h d a b sel ty
  issue i (vecOp i d sel ty.wide fun x l => vx ty x a l ||| vx ty x b l) s

def execVxor (h : Hdr) (d : Option VReg) (a b : OOp) (sel : BitVec 3) (ty : VTy) (s : State) : Host.Outcome State Fault Refusal :=
  let i := Instr.vxor h d a b sel ty
  issue i (vecOp i d sel ty.wide fun x l => vx ty x a l ^^^ vx ty x b l) s

def execVshl (h : Hdr) (d : Option VReg) (a b : OOp) (sel : BitVec 3) (ty : VTy) (s : State) : Host.Outcome State Fault Refusal :=
  let i := Instr.vshl h d a b sel ty
  issue i (vecOp i d sel ty.wide fun x l => shlTy ty (vx ty x a l) (vx ty x b l)) s

def execVshr (h : Hdr) (d : Option VReg) (a b : OOp) (sel : BitVec 3) (ty : VTy) (s : State) : Host.Outcome State Fault Refusal :=
  let i := Instr.vshr h d a b sel ty
  issue i (vecOp i d sel ty.wide fun x l => shrTy ty (vx ty x a l) (vx ty x b l)) s

def execVsar (h : Hdr) (d : Option VReg) (a b : OOp) (sel : BitVec 3) (ty : VTy) (s : State) : Host.Outcome State Fault Refusal :=
  let i := Instr.vsar h d a b sel ty
  issue i (vecOp i d sel ty.wide fun x l => sarTy ty (vx ty x a l) (vx ty x b l)) s

def execVmin (h : Hdr) (d : Option VReg) (a b : OOp) (sel : BitVec 3) (ty : VTy) (s : State) : Host.Outcome State Fault Refusal :=
  let i := Instr.vmin h d a b sel ty
  issue i (vecOp i d sel ty.wide fun x l => minTy ty (vx ty x a l) (vx ty x b l)) s

def execVmax (h : Hdr) (d : Option VReg) (a b : OOp) (sel : BitVec 3) (ty : VTy) (s : State) : Host.Outcome State Fault Refusal :=
  let i := Instr.vmax h d a b sel ty
  issue i (vecOp i d sel ty.wide fun x l => maxTy ty (vx ty x a l) (vx ty x b l)) s

def execVabsd (h : Hdr) (d : Option VReg) (a b : OOp) (sel : BitVec 3) (ty : VTy) (s : State) : Host.Outcome State Fault Refusal :=
  let i := Instr.vabsd h d a b sel ty
  issue i (vecOp i d sel ty.wide fun x l => tyWrap ty ((vi ty x a l - vi ty x b l).natAbs : Int)) s

def execVbit (h : Hdr) (d : Option VReg) (a : OOp) (op : BitOp OOp) (sel : BitVec 3) (ty : VTy) (s : State) : Host.Outcome State Fault Refusal :=
  let i := Instr.vbit h d a op sel ty
  issue i (vecOp i d sel ty.wide fun x l => bitTy ty op (vx ty x a l) fun o => (vx ty x o l).toNat) s

def execVcmp (h : Hdr) (d : BitVec 3) (a b : OOp) (sel : BitVec 3) (ty : VTy) (c : Cond) (s : State) : Host.Outcome State Fault Refusal :=
  let i := Instr.vcmp h d a b sel ty c
  issue i (vecCmp i d sel fun x l => condHolds c (vi ty x a l) (vi ty x b l)) s

def execVsel (h : Hdr) (d : Option VReg) (a b : OOp) (sel : BitVec 3) (ty : VTy) (k : BitVec 3) (s : State) : Host.Outcome State Fault Refusal :=
  let i := Instr.vsel h d a b sel ty k
  issue i (vecOp i d sel ty.wide fun x l => if (x.regs.m[k.toNat]).getLsbD l.val then vx ty x a l else vx ty x b l) s

def execVmov (h : Hdr) (d : Option VReg) (a : OOp) (sel : BitVec 3) (ty : VTy) (s : State) : Host.Outcome State Fault Refusal :=
  let i := Instr.vmov h d a sel ty
  issue i (vecOp i d sel ty.wide fun x l => vx ty x a l) s

def execVli (h : Hdr) (d : Option VReg) (imm : BitVec 32) (s : State) : Host.Outcome State Fault Refusal :=
  let i := Instr.vli h d imm
  issue i (vecOp i d 0 false fun _ _ => imm.setWidth 64) s

/-- The active lanes below a lane (R201). -/
def rankOf (act : LMask) (l : Nat) : Nat := (List.range l).countP fun j => act.getLsbD j

def execVidx (h : Hdr) (d : Option VReg) (a b : OOp) (sel : BitVec 3) (signed : Bool) (s : State) : Host.Outcome State Fault Refusal :=
  let i := Instr.vidx h d a b sel signed
  issue i (vecOp i d sel false fun x l =>
    ((v32 x a l + v32 x b l * BitVec.ofNat 32 (rankOf (active x.regs sel) l.val)).setWidth 64)) s

/-- A byte of VPERMB (R215). -/
def permByte (a : W32) (c : Byte) : Byte :=
  if c.getLsbD 7 then 0 else BitVec.ofNat 8 (a.toNat / 256 ^ (c.toNat % 4) % 256)
def permBytes (a b : W32) : W32 :=
  permByte a (b.extractLsb' 24 8) ++ permByte a (b.extractLsb' 16 8) ++ permByte a (b.extractLsb' 8 8) ++ permByte a (b.extractLsb' 0 8)

def execVpermb (h : Hdr) (d : Option VReg) (a b : OOp) (sel : BitVec 3) (s : State) : Host.Outcome State Fault Refusal :=
  let i := Instr.vpermb h d a b sel
  issue i (vecOp i d sel false fun x l => (permBytes (v32 x a l) (v32 x b l)).setWidth 64) s

-- floating point (R216 to R221)

/-- A result with its flags, as the 64-bit value written. -/
def fres (r : W32 × BitVec 5) : W64 × BitVec 5 := (r.1.setWidth 64, r.2)

def execVfadd (h : Hdr) (d : Option VReg) (a b : OOp) (sel : BitVec 3) (rm : RM) (s : State) : Host.Outcome State Fault Refusal :=
  let i := Instr.vfadd h d a b sel rm
  issue i (vecFOp i d sel false fun x l => fres (fAdd (rndOf rm) (v32 x a l) (v32 x b l))) s

def execVfsub (h : Hdr) (d : Option VReg) (a b : OOp) (sel : BitVec 3) (rm : RM) (s : State) : Host.Outcome State Fault Refusal :=
  let i := Instr.vfsub h d a b sel rm
  issue i (vecFOp i d sel false fun x l => fres (fSub (rndOf rm) (v32 x a l) (v32 x b l))) s

def execVfmul (h : Hdr) (d : Option VReg) (a b : OOp) (sel : BitVec 3) (rm : RM) (s : State) : Host.Outcome State Fault Refusal :=
  let i := Instr.vfmul h d a b sel rm
  issue i (vecFOp i d sel false fun x l => fres (fMul (rndOf rm) (v32 x a l) (v32 x b l))) s

def execVfma (h : Hdr) (d : Option VReg) (a b c : OOp) (sel : BitVec 3) (rm : RM) (s : State) : Host.Outcome State Fault Refusal :=
  let i := Instr.vfma h d a b c sel rm
  issue i (vecFOp i d sel false fun x l => fres (fFma (rndOf rm) (v32 x a l) (v32 x b l) (v32 x c l))) s

def execVfmin (h : Hdr) (d : Option VReg) (a b : OOp) (sel : BitVec 3) (s : State) : Host.Outcome State Fault Refusal :=
  let i := Instr.vfmin h d a b sel
  issue i (vecOp i d sel false fun x l => (fMinMax false (v32 x a l) (v32 x b l)).setWidth 64) s

def execVfmax (h : Hdr) (d : Option VReg) (a b : OOp) (sel : BitVec 3) (s : State) : Host.Outcome State Fault Refusal :=
  let i := Instr.vfmax h d a b sel
  issue i (vecOp i d sel false fun x l => (fMinMax true (v32 x a l) (v32 x b l)).setWidth 64) s

def execVfcmp (h : Hdr) (d : BitVec 3) (a b : OOp) (sel : BitVec 3) (c : FCond) (s : State) : Host.Outcome State Fault Refusal :=
  let i := Instr.vfcmp h d a b sel c
  issue i (vecCmp i d sel fun x l => fCond c (v32 x a l) (v32 x b l)) s

def execVfclass (h : Hdr) (d : Option VReg) (a : OOp) (sel : BitVec 3) (s : State) : Host.Outcome State Fault Refusal :=
  let i := Instr.vfclass h d a sel
  issue i (vecOp i d sel false fun x l => BitVec.ofNat 64 (2 ^ fClass (v32 x a l))) s

def execVfrnd (h : Hdr) (d : Option VReg) (a : OOp) (sel : BitVec 3) (rm : RM) (s : State) : Host.Outcome State Fault Refusal :=
  let i := Instr.vfrnd h d a sel rm
  issue i (vecOp i d sel false fun x l => (fRound (rndOf rm) (v32 x a l)).setWidth 64) s

/-- VFCVT of an operand's bits (R221). -/
def cvt (t : CvtTy) (r : Rnd) (x : W64) : W64 × BitVec 5 :=
  match t with
  | .toF src =>
    let (v, f) := intToF r (tyVal src x)
    (v.setWidth 64, f)
  | .fromF dst =>
    let (v, f) := fToInt dst r (x.setWidth 32)
    (tyWrap dst v, f)

def execVfcvt (h : Hdr) (d : Option VReg) (a : OOp) (sel : BitVec 3) (t : CvtTy) (rm : RM) (s : State) : Host.Outcome State Fault Refusal :=
  let i := Instr.vfcvt h d a sel t rm
  issue i (vecFOp i d sel t.wideDst fun x l => cvt t (rndOf rm) (rdW t.wideSrc x a l).1) s

-- special functions (R222)

def execVrcp (h : Hdr) (d : Option VReg) (a : OOp) (sel : BitVec 3) (s : State) : Host.Outcome State Fault Refusal :=
  let i := Instr.vrcp h d a sel
  issue i (vecFOp i d sel false fun x l => fres (special .rcp (v32 x a l))) s

def execVrsq (h : Hdr) (d : Option VReg) (a : OOp) (sel : BitVec 3) (s : State) : Host.Outcome State Fault Refusal :=
  let i := Instr.vrsq h d a sel
  issue i (vecFOp i d sel false fun x l => fres (special .rsq (v32 x a l))) s

def execVsqrt (h : Hdr) (d : Option VReg) (a : OOp) (sel : BitVec 3) (s : State) : Host.Outcome State Fault Refusal :=
  let i := Instr.vsqrt h d a sel
  issue i (vecFOp i d sel false fun x l => fres (special .sqrt (v32 x a l))) s

def execVexp2 (h : Hdr) (d : Option VReg) (a : OOp) (sel : BitVec 3) (s : State) : Host.Outcome State Fault Refusal :=
  let i := Instr.vexp2 h d a sel
  issue i (vecFOp i d sel false fun x l => fres (special .exp2 (v32 x a l))) s

def execVlog2 (h : Hdr) (d : Option VReg) (a : OOp) (sel : BitVec 3) (s : State) : Host.Outcome State Fault Refusal :=
  let i := Instr.vlog2 h d a sel
  issue i (vecFOp i d sel false fun x l => fres (special .log2 (v32 x a l))) s

def execVsinpi (h : Hdr) (d : Option VReg) (a : OOp) (sel : BitVec 3) (s : State) : Host.Outcome State Fault Refusal :=
  let i := Instr.vsinpi h d a sel
  issue i (vecFOp i d sel false fun x l => fres (special .sinpi (v32 x a l))) s

def execVcospi (h : Hdr) (d : Option VReg) (a : OOp) (sel : BitVec 3) (s : State) : Host.Outcome State Fault Refusal :=
  let i := Instr.vcospi h d a sel
  issue i (vecFOp i d sel false fun x l => fres (special .cospi (v32 x a l))) s

def execVtanh (h : Hdr) (d : Option VReg) (a : OOp) (sel : BitVec 3) (s : State) : Host.Outcome State Fault Refusal :=
  let i := Instr.vtanh h d a sel
  issue i (vecFOp i d sel false fun x l => fres (special .tanh (v32 x a l))) s

end Sys2Proof.Machine
end

