-- ==== Sys2Proof/Machine/CrossLane.lean ====
section
/-! DEFINITION. The cross-lane instructions (R225 to R231). -/

namespace Sys2Proof.Machine

open Sys2Proof

/-- A lane number modulo 64 (R225). -/
def laneOf (n : Nat) : Lane := ⟨n % 64, Nat.mod_lt n (by decide)⟩

/-- A cross-lane result for the active lanes; `bad` says which lanes consume a poisoned element. -/
def crossOp (d : Option VReg) (act : LMask) (wide : Bool) (bad : Lane → Bool) (f : Lane → W64) (s : State) (g : Group) : Out :=
  let p := act &&& maskOf bad
  if p ≠ 0 then .stop (poisonStop p)
  else
    let (g, w) := writeVW wide g d act f
    .done s g w

/-- The source lane of VSHFL (R226). -/
def shflLane (f : ShflForm) (l : Lane) (k : W32) : Lane :=
  match f with
  | .idx => laneOf k.toNat
  | .xor => laneOf (l.val ^^^ (k.toNat % 64))
  | .up => laneOf (l.val + 64 - k.toNat % 64)
  | .down => laneOf (l.val + k.toNat)

def execVshfl (h : Hdr) (d : Option VReg) (a b : OOp) (sel : BitVec 3) (ty : NTy) (f : ShflForm) (s : State) :
    Host.Outcome State Fault Refusal :=
  issue (.vshfl h d a b sel ty f) (fun s g =>
    let x := srcOf s g
    let src := fun l => shflLane f l (v32 x b l)
    crossOp d (active g.regs sel) ty.wide (fun l => (rd32 x b l).2 || (rdW ty.wide x a (src l)).2)
      (fun l => (rdW ty.wide x a (src l)).1) s g) s

def execVbcast (h : Hdr) (d : Option VReg) (a : OOp) (b : UOp) (sel : BitVec 3) (ty : NTy) (s : State) :
    Host.Outcome State Fault Refusal :=
  issue (.vbcast h d a b sel ty) (fun s g =>
    let x := srcOf s g
    let src := laneOf (rdU x b).1.toNat
    crossOp d (active g.regs sel) ty.wide (fun _ => (rdU x b).2 || (rdW ty.wide x a src).2) (fun _ => (rdW ty.wide x a src).1) s g) s

/-- The identity of a reduction (R228). -/
def redIdent (t : VTy) : RedOp → Int
  | .add => 0
  | .min => tyMax t
  | .max => tyMin t
  | .and => tyVal t 0xFFFFFFFFFFFFFFFF
  | .or => 0
  | .xor => 0

/-- One step of a reduction, on the integers the elements stand for. -/
def redStep (t : VTy) (op : RedOp) (acc x : Int) : Int :=
  match op with
  | .add => acc + x
  | .min => min acc x
  | .max => max acc x
  | .and => tyVal t (tyWrap t acc &&& tyWrap t x)
  | .or => tyVal t (tyWrap t acc ||| tyWrap t x)
  | .xor => tyVal t (tyWrap t acc ^^^ tyWrap t x)

def execVred (h : Hdr) (d : Option SDst) (a : OOp) (sel : BitVec 3) (ty : VTy) (op : RedOp) (s : State) :
    Host.Outcome State Fault Refusal :=
  let i := Instr.vred h d a sel ty op
  issue i (fun s g =>
    let x := srcOf s g
    let act := active g.regs sel
    let p := poisonLanes x (iOs i) act
    if p ≠ 0 then .stop (poisonStop p)
    else
      let v := (lanesOf act).foldl (fun acc l => redStep ty op acc (vi ty x a l)) (redIdent ty op)
      maskResult d (fun _ => BitVec.ofInt 64 v) s g) s

/-- VREDF.MIN and .MAX (R229). -/
def redfMinMax (big : Bool) (xs : List W32) : W32 :=
  match xs with
  | [] => f32Inf big
  | y :: ys => ys.foldl (fMinMax big) (if (f32 y).isNan then canonNaN else y)

def execVredf (h : Hdr) (d : Option SDst) (a : OOp) (sel : BitVec 3) (op : FRedOp) (s : State) : Host.Outcome State Fault Refusal :=
  let i := Instr.vredf h d a sel op
  issue i (fun s g =>
    let x := srcOf s g
    let act := active g.regs sel
    let p := poisonLanes x (iOs i) act
    if p ≠ 0 then .stop (poisonStop p)
    else
      let els := (lanesOf act).map fun l => v32 x a l
      let r : W32 × BitVec 5 := match op with
        | .add => treeSum ((List.finRange 64).map fun l => if act.getLsbD l.val then v32 x a l else 0x80000000)
        | .min => (redfMinMax false els, 0)
        | .max => (redfMinMax true els, 0)
      let (s, g) := writeS s g d (r.1.setWidth 64)
      .done s (orFlags g (r.2 &&& (fInvalid ||| fOverflow ||| fInexact))) (.scalar (r.1.setWidth 64) false)) s

/-- The operation of VSCAN on 32-bit elements, with flags (R230). -/
def scanStep (t : ScanTy) (op : FRedOp) (acc x : W32) : W32 × BitVec 5 :=
  match t, op with
  | .f32, .add => let (v, f) := fAdd .rn acc x; (v, f &&& (fInvalid ||| fOverflow ||| fInexact))
  | .f32, .min => (fMinMax false acc x, 0)
  | .f32, .max => (fMinMax true acc x, 0)
  | .i32, .min => (if x.toInt < acc.toInt then x else acc, 0)
  | .i32, .max => (if acc.toInt < x.toInt then x else acc, 0)
  | .n32, .min => (if x.toNat < acc.toNat then x else acc, 0)
  | .n32, .max => (if acc.toNat < x.toNat then x else acc, 0)
  | _, .add => (acc + x, 0)

def scanIdent (t : ScanTy) (op : FRedOp) : W32 :=
  match t, op with
  | .f32, .add => 0x80000000
  | .f32, .min => 0x7F800000
  | .f32, .max => 0xFF800000
  | _, .add => 0
  | .i32, .min => 0x7FFFFFFF
  | .i32, .max => 0x80000000
  | .n32, .min => 0xFFFFFFFF
  | .n32, .max => 0

/-- The running results by lane, and the flags. -/
def scanGo (t : ScanTy) (op : FRedOp) (excl : Bool) (el : Lane → W32) (acc : W32) (fl : BitVec 5) : List Lane → List (Lane × W32) × BitVec 5
  | [] => ([], fl)
  | l :: ls =>
    let (v, f) := scanStep t op acc (el l)
    let (r, fl) := scanGo t op excl el v (fl ||| f) ls
    ((l, if excl then acc else v) :: r, fl)

def execVscan (h : Hdr) (d : Option VReg) (a : OOp) (sel : BitVec 3) (ty : ScanTy) (op : FRedOp) (excl : Bool) (s : State) :
    Host.Outcome State Fault Refusal :=
  issue (.vscan h d a sel ty op excl) (fun s g =>
    let x := srcOf s g
    let act := active g.regs sel
    let (r, fl) := scanGo ty op excl (v32 x a) (scanIdent ty op) 0 (lanesOf act)
    let bad := fun (l : Lane) => (lanesOf act).any fun k => (rd32 x a k).2 && (decide (k < l) || (!excl && k == l))
    crossOp d act false bad (fun l => ((r.find? (·.1 == l)).map (·.2.setWidth 64)).getD 0) s (orFlags g fl)) s

/-- The n-th active lane. -/
def nthLane (act : LMask) (n : Nat) : Lane := ((lanesOf act)[n]?).getD (laneOf 0)

def execVcomp (h : Hdr) (d : Option VReg) (a : OOp) (sel : BitVec 3) (ty : NTy) (s : State) : Host.Outcome State Fault Refusal :=
  let i := Instr.vcomp h d a sel ty
  issue i (fun s g =>
    let x := srcOf s g
    let act := active g.regs sel
    let p := poisonLanes x (iOs i) act
    if p ≠ 0 then .stop (poisonStop p)
    else
      let n := (lanesOf act).length
      crossOp d (maskOf fun l => decide (l.val < n)) ty.wide (fun _ => false)
        (fun l => (rdW ty.wide x a (nthLane act l.val)).1) s g) s

def execVexpd (h : Hdr) (d : Option VReg) (a : OOp) (sel : BitVec 3) (ty : NTy) (s : State) : Host.Outcome State Fault Refusal :=
  issue (.vexpd h d a sel ty) (fun s g =>
    let x := srcOf s g
    let act := active g.regs sel
    let src := fun (l : Lane) => laneOf (rankOf act l.val)
    crossOp d act ty.wide (fun l => (rdW ty.wide x a (src l)).2) (fun l => (rdW ty.wide x a (src l)).1) s g) s

end Sys2Proof.Machine
end

