-- ==== Sys2Proof/Machine/Spdm.lean ====
section
/-! DEFINITION. Attestation and keys: the SPDM responder (R109), KEYLOAD (R107, R110) and the erasure of a slot (R111). -/

namespace Sys2Proof.Machine

open Sys2Proof

-- the responder (R109): function 0 is the physical one, p + 1 that of partition p

/-- A request on a function is taken: the device has 25, and without a good boot record takes only a new one (R99). -/
def spdmTaken (s : State) (fn : Nat) : Bool := decide (fn < 25) && !s.boot.bad

/-- A response is sent to a request that is taken. Log 27 (DESIGN CHOICE). -/
def answerSpdm (s : State) (fn : Nat) (kind : String) (body : List Byte) : State :=
  if spdmTaken s fn then s.notify (.spdm fn kind body) else s

/-- Payloads the spec gives no contents: certificates, digests of them, signatures. Log 27 (DESIGN CHOICE), 77 (DESIGN CHOICE). -/
def blob (kind n : Nat) : List Byte := (List.range n).map fun i => Config.spdmBlob kind i

/-- Version 1.3. -/
def execGetVersion (fn : Nat) (s : State) : Host.Outcome State Fault Refusal := .next (answerSpdm s fn "VERSION" [0x13])
def execGetCapabilities (fn : Nat) (s : State) : Host.Outcome State Fault Refusal := .next (answerSpdm s fn "CAPABILITIES" (blob 1 16))
/-- The body of ALGORITHMS after its 4-byte header: SHA-256 for measurements and hashes, no algorithm of the base asymmetric field, and
one extended asymmetric algorithm, LMS with SHA-256, under IANA's registry; which of that registry's parameter sets is open. Log 96 (PRESUMED). -/
def algorithmsBody : List Byte :=
  [40, 0, 1] ++ blob 2 1 ++ [2, 0, 0, 0] ++ [0, 0, 0, 0] ++ [1, 0, 0, 0] ++ List.replicate 12 0 ++ [1, 0, 0, 0] ++ [4, 0] ++ blob 7 1 ++ [0]

/-- Log 96 (PRESUMED). -/
def execNegotiateAlgorithms (fn : Nat) (s : State) : Host.Outcome State Fault Refusal :=
  .next (answerSpdm s fn "ALGORITHMS" algorithmsBody)
def execGetDigests (fn : Nat) (s : State) : Host.Outcome State Fault Refusal := .next (answerSpdm s fn "DIGESTS" (blob 3 32))
def execGetCertificate (fn : Nat) (s : State) : Host.Outcome State Fault Refusal := .next (answerSpdm s fn "CERTIFICATE" (blob 4 1024))
def execChallenge (fn : Nat) (nonce : List Byte) (s : State) : Host.Outcome State Fault Refusal :=
  .next (answerSpdm s fn "CHALLENGE_AUTH" (nonce ++ blob 5 1024))

/-- A bit per number of a list. -/
def bitSet (l : List Nat) : Nat := l.foldl (fun x n => x ||| 2 ^ n) 0

/-- The measurement at an index; an index with none reads empty. Log 77 (DESIGN CHOICE). -/
def measurement (s : State) (fn index : Nat) : List Byte :=
  if index = 1 then sha256 s.boot.fw
  else if index = 2 then sha256 (s.boot.record.getD [])
  else
    match if fn = 0 then none else s.part? (fn - 1) with
    | none => []
    | some p =>
      if index = 3 then natLe 4 (bitSet p.sectors) ++ natLe 16 (bitSet p.cgroups)
      else if 4 ≤ index ∧ index < 254 then p.measured[index - 4]?.getD []
      else []

def execGetMeasurements (fn index : Nat) (s : State) : Host.Outcome State Fault Refusal :=
  .next (answerSpdm s fn "MEASUREMENTS" (measurement s fn index))

def closeSession (s : State) (fn : Nat) : State := { s with sessions := s.sessions.filter fun x => x.1 != fn }

def execKeyExchange (fn : Nat) (s : State) : Host.Outcome State Fault Refusal :=
  .next (let s := answerSpdm s fn "KEY_EXCHANGE_RSP" (blob 6 1024)
    if spdmTaken s fn then { (closeSession s fn) with sessions := (closeSession s fn).sessions ++ [(fn, false)] } else s)

def execFinish (fn : Nat) (s : State) : Host.Outcome State Fault Refusal :=
  .next (if spdmTaken s fn && s.sessions.any fun x => x.1 == fn then
      { (answerSpdm s fn "FINISH_RSP" []) with sessions := s.sessions.map fun x => if x.1 = fn then (fn, true) else x }
    else s)

def execEndSession (fn : Nat) (s : State) : Host.Outcome State Fault Refusal :=
  .next (if spdmTaken s fn && s.sessions.any fun x => x.1 == fn then closeSession (answerSpdm s fn "END_SESSION_ACK" []) fn else s)

-- KEYLOAD (R110)

/-- A message of a function lies in a secured session of a partition. Log 78 (DEDUCED). -/
def keySession (s : State) (fn : Nat) (secured : Bool) : Option Part :=
  if secured && s.sessions.contains (fn, true) && fn != 0 then s.part? (fn - 1) else none

def klOp (r : List Byte) : Nat := bits (dw r 0) 31 24
def klSlot (r : List Byte) : Nat := bits (dw r 0) 23 15
def klDigs (r : List Byte) : Nat := bits (dw r 0) 14 12
def klKeyId (r : List Byte) : Nat := bits (dw r 1) 15 0
def klDigest (r : List Byte) (k : Nat) : List Byte := (r.drop (96 + 32 * k)).take 32

/-- The record is formed as R110 says. -/
def klLegal (r : List Byte) : Bool :=
  r.length == 224 && bits (dw r 0) 63 32 == 0x594B4741 && (klOp r == 1 || klOp r == 2) && bits (dw r 0) 11 0 == 0 &&
  bits (dw r 1) 63 16 == 0 && dw r 2 == 0 && dw r 3 == 0 && klKeyId r != 0 &&
  (klOp r == 2 || (decide (1 ≤ klDigs r ∧ klDigs r ≤ 4) &&
    [0, 1, 2, 3].all fun k => decide (k < klDigs r) || (klDigest r k).all fun b => b == 0))

/-- The status that refuses a record before its slot is looked at. Log 78 (DEDUCED). -/
def klStatus (s : State) (fn : Nat) (secured : Bool) (op : Nat) (r : List Byte) : Except String Part :=
  match keySession s fn secured with
  | none => .error "NO_SESSION"
  | some p => if !klLegal r || klOp r != op then .error "BAD_RECORD" else if klSlot r = 511 then .error "SLOT_RANGE" else .ok p

def slotOf (s : State) (n : Nat) : Option KeySlot := (s.slots.find? (·.1 == n)).map (·.2)

/-- Log 78 (DEDUCED). -/
def execKeyloadLoad (fn : Nat) (secured : Bool) (rec : List Byte) (s : State) : Host.Outcome State Fault Refusal :=
  .next (match klStatus s fn secured 1 rec with
    | .error e => s.notify (.keyload fn e)
    | .ok p =>
      if (slotOf s (klSlot rec)).isSome then s.notify (.keyload fn "SLOT_BUSY")
      else if s.slots.any fun k => k.2.owner == p.id && k.2.keyId == klKeyId rec then s.notify (.keyload fn "KEYID_DUP")
      else
        { (s.notify (.keyload fn "OK")) with
          slots := s.slots ++ [(klSlot rec,
            { owner := p.id, keyId := klKeyId rec, key := (rec.drop 32).take 64
              digests := (List.range (klDigs rec)).map (klDigest rec), load := s.nextLoad, closed := false })]
          nextLoad := s.nextLoad + 1 })

/-- KEYLOAD_ERASE closes the slot (step 1 of R111); its response comes with KEY_ERASE_FINISH. Log 78 (DEDUCED). -/
def execKeyloadErase (fn : Nat) (secured : Bool) (rec : List Byte) (s : State) : Host.Outcome State Fault Refusal :=
  .next (match klStatus s fn secured 2 rec with
    | .error e => s.notify (.keyload fn e)
    | .ok p =>
      match slotOf s (klSlot rec) with
      | none => s.notify (.keyload fn "OK")
      | some k =>
        if k.owner ≠ p.id then s.notify (.keyload fn "NOT_OWNER")
        else { s with slots := s.slots.map fun x => if x.1 = klSlot rec then (x.1, { x.2 with closed := true }) else x })

-- the end of an erasure (R111)

/-- A write that has passed its checks through a slot is not known to be applied: a retired store or an engine's write that waits here, a
write of an open attempt, a packet with a payload under the slot's key that another device has not acknowledged. -/
def storesThrough (s : State) (slot : Nat) (k : KeySlot) : Bool :=
  let here := fun (r : Route) => (routeTag r).isLoad slot k.load
  (s.allGroups.any fun g => (g.stbuf.any fun b => b.places.any fun x => here x.1) || g.region.wlog.any fun w => here w.wr.route) ||
  (s.engOut.any fun o => o.pend.any fun w => here w.1.route) ||
  s.fabric.src.any fun x => x.sid.own.part == k.owner && x.unacked.any fun u => [1, 2, 5].contains (pType u.2.1) && pKey u.2.1 == k.keyId

/-- The lines under the load of a slot: L1 copies and slice copies. -/
def underKey (part n load : Nat) (x : L1Line) : Bool := x.part == part && x.key.isLoad n load

/-- Writes back and drops every L1 copy that a test names, on every core. -/
def dropCopies (s : State) (f : L1Line → Bool) : State :=
  s.cores.foldl (fun s c => (c.2.l1.filter f).foldl (fun s x => flushLine s c.1 x) s) s

/-- Carries the slice copies of host-tier lines that a test names to host memory and drops them. -/
def dropSlices (s : State) (part : Nat) (f : L1Line → Bool) : State :=
  let mine := ((s.part? part).map fun p => p.hostCopies.filter f).getD []
  (mine.foldl sliceToHost s).modPart part fun p => { p with hostCopies := p.hostCopies.filter fun x => !f x }

/-- Instruction-cache lines that came in under it. -/
def dropCode (s : State) (n load : Nat) : State :=
  { s with cores := s.cores.map fun c => (c.1, { c.2 with icache := c.2.icache.filter fun x => !(routeTag x.route).isLoad n load }) }

/-- The lines of HBM that the slices hold with a sector under it leave them, and the floors rise (R372). -/
def dropHbm (s : State) (part n load : Nat) : State :=
  let under := fun (line : Nat) => (List.range 4).any fun i => ((s.dev.tagOf (4 * line + i)).map (·.isLoad n load)).getD false
  s.modPart part fun p => ((p.lines.map (·.1)).filter under).foldl (fun p l => dropHeldLine l p) p

/-- Log 78 (DEDUCED). -/
def execKeyEraseFinish (slot : Nat) (s : State) : Host.Outcome State Fault Refusal :=
  .next (match slotOf s slot with
    | none => s
    | some k =>
      if !k.closed || storesThrough s slot k then s
      else
        let f := underKey k.owner slot k.load
        let s := dropHbm (dropCode (dropSlices (dropCopies s f) k.owner f) slot k.load) k.owner slot k.load
        ({ s with slots := s.slots.filter fun x => x.1 != slot }).notify (.keyload (k.owner + 1) "OK"))

end Sys2Proof.Machine
end

