-- ==== Sys2Proof/Machine/Regs.lean ====
section
/-! DEFINITION. The registers of the virtual functions and of the physical function, as the host writes and reads them (R8, R112, R146,
R148, R239, R391, R395, R404, R406, R408, R432, R437). -/

namespace Sys2Proof.Machine

open Sys2Proof

-- PTROOT and TLBICMD (R146)

def ptrootMask : W64 := 0x0000FFFFFFFF0001
def vaMask : W64 := 0x007FFFFFFFFF0000

def setPtroot (s : State) (part : Nat) (v : W64) : State :=
  s.modPart part fun p => if p.table.isEmpty then { p with ptroot := v &&& ptrootMask } else p

def execPtrootWrite (part : Nat) (v : W64) (s : State) : Host.Outcome State Fault Refusal := .next (setPtroot s part v)

/-- A write of TLBICMD; one while BUSY, or that names nothing, is ignored. Log 70 (DEDUCED). -/
def startInvalidate (s : State) (part : Nat) (all : Bool) (n : Nat) : State :=
  s.modPart part fun p =>
    if p.tlbiBusy || (!all && n % 2 ^ 32 == 0) then p
    else { p with tlbiBusy := true, tlbiAll := all, tlbiFrom := p.tlbiVa.toNat / 65536, tlbiPages := n % 2 ^ 32 }

def execTlbInvalidateAll (part : Nat) (s : State) : Host.Outcome State Fault Refusal := .next (startInvalidate s part true 0)
def execTlbInvalidateRange (part npages : Nat) (s : State) : Host.Outcome State Fault Refusal :=
  .next (startInvalidate s part false npages)

/-- A translation covers one of `n` pages from `a`. -/
def TlbEnt.within (t : TlbEnt) (a n : Nat) : Bool :=
  let lo := if t.big then t.page / 8192 * 8192 else t.page
  let len := if t.big then 8192 else 1
  decide (a < lo + len ∧ lo < a + n)
/-- An upper entry leads to one of them. -/
def NodeEnt.within (t : NodeEnt) (a n : Nat) : Bool :=
  let len := if t.level = 1 then 2 ^ 26 else 2 ^ 13
  decide (a < (t.index + 1) * len ∧ t.index * len < a + n)

/-- The translations and upper entries a running invalidation names. -/
def invalidates (p : Part) (t : TlbEnt) : Bool := t.part == p.id && (p.tlbiAll || t.within p.tlbiFrom p.tlbiPages)
def invalidatesNode (p : Part) (t : NodeEnt) : Bool := t.part == p.id && (p.tlbiAll || t.within p.tlbiFrom p.tlbiPages)

def isGlobal : Route → Bool
  | .glob _ _ _ _ _ => true
  | _ => false

/-- Accesses of the partition that have been translated and are not performed: stores, the logs of open attempts and the NEXT of their domains,
remote accesses, operations on records of other devices, accesses of engines sent or still to be sent, lookups that hold a pin. -/
def unperformed (s : State) (part : Nat) : Bool :=
  (s.allGroups.any fun g => g.part == part &&
    ((g.remWr.any (!·.lost)) || g.remOp.isSome || g.recStep.isSome || (g.stbuf.any fun b => b.places.any fun x => isGlobal x.1) || !g.region.wlog.isEmpty || !g.region.rlog.isEmpty ||
      (decide (g.region.state ≠ .none) && g.region.domRoute.isSome))) ||
  (s.engOut.any fun o => !(o.pend.isEmpty && o.writes.isEmpty) && ((s.anyGroup? o.gid).map fun g => g.part == part).getD false) ||
  (s.fabric.reqs.any fun r => r.sid.own.part == part) || ((s.part? part).map fun p => !p.recDue.isEmpty).getD false ||
  s.cores.any fun c => c.2.gathers.any fun o => ((s.team? o.tid).map fun t => t.part == part).getD false

/-- TLB_INVALIDATE_DONE. Log 17 (DESIGN CHOICE), 70 (DEDUCED). -/
def execTlbInvalidateDone (part : Nat) (s : State) : Host.Outcome State Fault Refusal :=
  .next (match s.part? part with
    | none => s
    | some p =>
      if !p.tlbiBusy || unperformed s part then s
      else
        let left := fun (l : List TlbEnt) => l.filter fun t => !invalidates p t
        { (s.setPart { p with tlbiBusy := false }) with
          cores := s.cores.map fun (c : Nat × CoreSt) => (c.1, { c.2 with itlbs := c.2.itlbs.map left, dtlb := left c.2.dtlb })
          xlats := s.xlats.map fun (x : Nat × SectorTlb) =>
            (x.1, { x.2 with ents := left x.2.ents, nodes := x.2.nodes.filter fun t => !invalidatesNode p t }) })

-- the L1 flush register (R239)

/-- Log 70 (DEDUCED). -/
def startFlush (s : State) (part : Nat) (all : Bool) (n : Nat) : State :=
  s.modPart part fun p =>
    if p.flBusy || (!all && n % 2 ^ 32 == 0) then p
    else { p with flBusy := true, flAll := all, flFrom := p.flVa.toNat / 65536, flPages := n % 2 ^ 32 }

def execFlushAll (part : Nat) (s : State) : Host.Outcome State Fault Refusal := .next (startFlush s part true 0)
def execFlushRange (part npages : Nat) (s : State) : Host.Outcome State Fault Refusal := .next (startFlush s part false npages)

/-- The frames of the named pages: tier, first address, length. -/
def flushFrames (s : State) (p : Part) : List (Tier × Nat × Nat) :=
  (List.range p.flPages).filterMap fun i =>
    match walk s p (65536 * (p.flFrom + i)) with
    | .leaf e big => some (pteTier e, pteFrame e * 65536 + (if big then 65536 * (p.flFrom + i) % 2 ^ 29 else 0), 65536)
    | _ => none

/-- Whether the flush covers a line. -/
def flushes (p : Part) (fs : List (Tier × Nat × Nat)) (t : Tier) (line : Nat) : Bool :=
  p.flAll || fs.any fun f => decide (f.1 = t) && decide (f.2.1 ≤ line * 128 ∧ line * 128 < f.2.1 + f.2.2)

/-- FLUSH_DONE: copies are written back and dropped, slices' copies of host-tier lines go to host memory, owner records are cleared. Log 70 (DEDUCED). -/
def execFlushDone (part : Nat) (s : State) : Host.Outcome State Fault Refusal :=
  .next (match s.part? part with
    | none => s
    | some p =>
      if !p.flBusy then s
      else
        let f := flushes p (flushFrames s p)
        let mine := fun (x : L1Line) => x.part == part && f x.tier x.line
        let s := dropSlices (dropCopies s mine) part mine
        s.modPart part fun p => { p with flBusy := false, owners := p.owners.filter fun o => !f o.2.2 o.1 })

-- FABERR, the containment register, PRICFG

/-- Log 71 (DEDUCED). -/
def execFaberrClear (part : Nat) (v : W64) (s : State) : Host.Outcome State Fault Refusal :=
  .next (clearFabErr s part (v ||| (1#64 <<< 63)))

/-- A write of the containment register: writing 1 to V clears the record, MSIX is stored. Log 71 (DEDUCED). -/
def writeContain (v : W64) (p : Part) : Part :=
  let clr := v.getLsbD 63
  let w := (p.contain &&& ~~~0xFF#64) ||| (v &&& 0xFF#64)
  { p with contain := if clr then w &&& 0xFF#64 else w, containPa := if clr then 0 else p.containPa }

/-- The registers of a virtual function's BAR0. -/
def writeVf (s : State) (part off : Nat) (v : W64) : State :=
  if 0x100 ≤ off ∧ off < 0x180 ∧ off % 16 = 0 then qsetWrite s part ((off - 0x100) / 16) v
  else
    match off with
    | 0x040 => setPtroot s part v
    | 0x048 => s.modPart part fun p => { p with pricfg := v &&& 0x1FFFFF#64 }
    | 0x050 => s.modPart part fun p => { p with tlbiVa := v &&& vaMask }
    | 0x058 => startInvalidate s part (v.getLsbD 63) (v.toNat % 2 ^ 32)
    | 0x060 => s.modPart part fun p => { p with flVa := v &&& vaMask }
    | 0x068 => startFlush s part (v.getLsbD 63) (v.toNat % 2 ^ 32)
    | 0x0F00 => clearFabErr s part v
    | 0x0F10 => s.modPart part (writeContain v)
    | _ => s

-- the physical function (R391, R395, R404)

/-- A UCIe link end that exists: 0 east, 1 west, 2 the other row (R389, R395). -/
def linkExists (d k : Nat) : Bool := (k == 0 && d % 4 != 3) || (k == 1 && d % 4 != 0) || k == 2

/-- The block of a port exists. -/
def portExists (n : Nat) : Bool := decide (n < 16) || (decide (n < 40) && linkExists ((n - 16) / 3) ((n - 16) % 3))

/-- The holes that packets at a port have revealed count there no more. -/
def forgetHoles (n : Nat) (f : Fabric) : Fabric :=
  { f with dst := f.dst.map fun d => { d with holes := d.holes.map fun h => if h.2.2 = n then (h.1, h.2.1, 40) else h } }

/-- A write of a port's +0x18: a change of OWNER clears its counters. -/
def assignPort (s : State) (n : Nat) (v : W64) : State :=
  if n < 16 then
    let p := s.port n
    let o := bits v.toNat 4 0
    let s := s.setPort n { p with assigned := v.getLsbD 63, owner := o, ctrs := if o = p.owner then p.ctrs else [] }
    if o = p.owner then s else s.modFabric (forgetHoles n)
  else s

def execPortAssign (port : Nat) (v : W64) (s : State) : Host.Outcome State Fault Refusal :=
  .next (if s.boot.bad then s else assignPort s port v)

def wMask : W64 := 0x00FFFFFFFFFFFFFF
def thMask0 : W64 := 0x07FF07FF07FF07FF
def thMask1 : W64 := 0x000007FF07FF07FF

def writePort (s : State) (n off : Nat) (v : W64) : State :=
  if !portExists n then s
  else
    match off with
    | 0x00 => s.setPort n { s.port n with w := v &&& wMask }
    | 0x08 => s.setPort n { s.port n with th0 := v &&& thMask0 }
    | 0x10 => s.setPort n { s.port n with th1 := v &&& thMask1 }
    | 0x18 => assignPort s n v
    | _ => s

def routeMask : W64 := 0x8000001F0000FFFF

/-- The registers of the physical function's BAR0. -/
def writePf (s : State) (off : Nat) (v : W64) : State :=
  if 0x100000 ≤ off ∧ off < 0x102800 then writePort s ((off - 0x100000) / 256) (off % 256) v
  else if off = 0x103000 then s.modFabric fun f => { f with devid := bits v.toNat 11 0 }
  else if off = 0x103008 then s.modFabric fun f => { f with rto := bits v.toNat 27 16, maxrs := bits v.toNat 3 0 }
  else if 0x200000 ≤ off ∧ off < 0x200000 + 24 * 0x8000 ∧ off % 8 = 0 then
    s.modFabric fun f => { f with routes := Tab.set 0 f.routes ((off - 0x200000) / 8) (v &&& routeMask) }
  else s

/-- REGISTER_WRITE: a register takes the value's writable bits; anything else ignores the write, and so does a device that takes only a new
boot record (R99). -/
def execRegisterWrite (sp : BarSpace) (off : Nat) (v : W64) (s : State) : Host.Outcome State Fault Refusal :=
  .next (if s.boot.bad then s
    else match sp with
      | .vf part => writeVf s part off v
      | .pf => writePf s off v)

-- what the host reads

def qstat (s : State) (q : QPair) : W64 :=
  let free := if q.en then sqCap q - PairQ.sub.len s q else 0
  BitVec.ofNat 64 (free % 2 ^ 24 * 2 ^ 40 + PairQ.com.len s q % 2 ^ 24 * 2 ^ 16 + q.drops % 2 ^ 16)

def qset (q : QPair) : W64 :=
  BitVec.ofNat 64 ((if q.en then 2 ^ 63 else 0) + q.msix.toNat * 2 ^ 16 + q.cqlog * 2 ^ 8 + q.sqlog * 2 ^ 4)

/-- The holes now open that packets arriving at a port have revealed in a class, with the times they were recorded (R408). -/
def openHoles (s : State) (n c : Nat) : List Nat :=
  (s.fabric.dst.filter fun d => d.sid.tc == c).flatMap fun d => (d.holes.filter fun h => h.2.2 == n).map fun h => h.2.1

/-- A counter of a port (R408). -/
def portCounter (s : State) (n c k : Nat) : W64 :=
  if k = 3 then BitVec.ofNat 64 (openHoles s n c).length
  else if k = 4 then BitVec.ofNat 64 (((openHoles s n c).map fun t => s.ns - t).foldl max 0)
  else if k = 0 ∨ k = 1 ∨ k = 2 ∨ k = 5 ∨ k = 6 then BitVec.ofNat 64 (Tab.get 0 (s.port n).ctrs (8 * k + c))
  else 0

/-- A read of a virtual function's BAR0. -/
def readVf (s : State) (part off : Nat) : W64 :=
  match s.part? part with
  | none => 0
  | some p =>
    if 0x100 ≤ off ∧ off < 0x180 ∧ off % 16 = 0 then qset (qpair p ((off - 0x100) / 16))
    else if 0x100 ≤ off ∧ off < 0x180 ∧ off % 16 = 8 then qstat s (qpair p ((off - 0x100) / 16))
    else if 0x1000 ≤ off ∧ off < 0x3000 ∧ off % 8 = 0 then
      (let n := (off - 0x1000) / 512
       if (s.port n).assigned && (s.port n).owner == part then portCounter s n (off % 512 / 64) (off % 64 / 8) else 0)
    else
      match off with
      | 0x040 => p.ptroot
      | 0x048 => p.pricfg
      | 0x050 => p.tlbiVa
      | 0x058 => if p.tlbiBusy then 1#64 <<< 62 else 0
      | 0x060 => p.flVa
      | 0x068 => if p.flBusy then 1#64 <<< 62 else 0
      | 0x0E00 => BitVec.ofNat 64 (p.tokwait / 2)
      | 0x0E08 => BitVec.ofNat 64 p.mergeovf
      | 0x0E10 => BitVec.ofNat 64 p.evicts
      | 0x0E18 => BitVec.ofNat 64 p.launches
      | 0x0E20 => BitVec.ofNat 64 p.abnormal
      | 0x0E28 => BitVec.ofNat 64 p.regpois
      | 0x0E30 => BitVec.ofNat 64 p.mempois
      | 0x0E38 => BitVec.ofNat 64 p.fences
      | 0x0E40 => BitVec.ofNat 64 p.corrected
      | 0x0F00 => p.faberr
      | 0x0F10 => p.contain
      | 0x0F18 => p.containPa
      | _ => 0

/-- A read of the physical function's BAR0. -/
def readPf (s : State) (off : Nat) : W64 :=
  if 0x100000 ≤ off ∧ off < 0x102800 then
    let n := (off - 0x100000) / 256
    if !portExists n then 0
    else
      match off % 256 with
      | 0x00 => (s.port n).w
      | 0x08 => (s.port n).th0
      | 0x10 => (s.port n).th1
      | 0x18 => if n < 16 then BitVec.ofNat 64 ((if (s.port n).assigned then 2 ^ 63 else 0) + (s.port n).owner) else 0
      | _ => 0
  else if off = 0x103000 then BitVec.ofNat 64 s.fabric.devid
  else if off = 0x103008 then BitVec.ofNat 64 (s.fabric.rto * 65536 + s.fabric.maxrs)
  else if 0x200000 ≤ off ∧ off < 0x200000 + 24 * 0x8000 ∧ off % 8 = 0 then Tab.get 0 s.fabric.routes ((off - 0x200000) / 8)
  else 0

end Sys2Proof.Machine
end

