-- ==== Sys2Proof/Machine/Net.lean ====
section
/-! DEFINITION. The fabric's steps: egress queues, transit, packets arriving and applied, re-requests, acknowledgements and
retransmission (R390, R394, R396, R398, R400 to R405). -/

namespace Sys2Proof.Machine

open Sys2Proof

-- egress (R394, R396)

/-- The Emlys port that a packet for another device found at a UCIe link end is bound for: by its own partition's routing table where it is from
here, else by that of the partition whose port it came in by, any that routes to the device (R390). Log 102 (DESIGN CHOICE). -/
def exitPort (s : State) (p : Pkt) : Option Nat × State :=
  if (pSrc p).dev = s.fabric.devid then (pickPort s (pSrc p).part (pDst p).dev, s)
  else
    let l := (List.range 32).filterMap fun q => pickPort s q (pDst p).dev
    if l.length ≤ 1 then (l.head?, s)
    else
      let (k, s) := s.choose l.length
      (l[k]?, s)

/-- EGRESS_ENQUEUE: the packet is bound for the Emlys port, or, at a UCIe link end, for its die or the port it leaves by. -/
def execEgressEnqueue (port : Nat) (p : Pkt) (s : State) : Host.Outcome State Fault Refusal :=
  .next (if !portExists port then s
    else if port < 16 then enqueue s port ⟨p, port, port⟩
    else if (pDst p).dev = s.fabric.devid then enqueue s port ⟨p, 16 + (pDst p).die, port⟩
    else
      match exitPort s p with
      | (some n, s) => enqueue s port ⟨p, n, port⟩
      | (none, s) => countPort s port 5 (pTC p))

/-- TRANSIT_FORWARD of a packet for another device. -/
def execTransitForward (port : Nat) (p : Pkt) (s : State) : Host.Outcome State Fault Refusal := .next (arrive s port p fun s => s)

-- what a packet does when it is applied (R398, R400)

/-- The function an AT packet's OPARG names, and whether its elements are 64-bit; the model's own coding. Log 64 (DESIGN CHOICE). -/
def argAtom (x : Nat) : AFun × Bool :=
  let sg := x / 16 == 11 || x / 16 == 12
  let f : AFun :=
    match x % 16 with
    | 15 => .fadd
    | 14 => .cas
    | 1 => .op .sub sg
    | 2 => .op .and sg
    | 3 => .op .or sg
    | 4 => .op .xor sg
    | 5 => .op .min sg
    | 6 => .op .max sg
    | 7 => .op .xchg sg
    | 8 => .op .inc sg
    | _ => .op .add sg
  (f, x / 16 == 3 || x / 16 == 12)

/-- The atomic of an AT packet at its home: the old value and the sector's poison. -/
def pktAtom (s : State) (r : Route) (p : Pkt) : State × Nat × Bool :=
  let (f, wide) := argAtom (pArg p)
  let w := fun (k : Nat) => BitVec.ofNat 64 (leNat ((p.payload.drop (8 * k)).take 8))
  let (s, old, pz) := atomAt s (48 * (pDst p).die) (pDst p).part r (pAddr p) f wide (w 0) (w 1)
  (s, old.toNat, pz)

/-- The delivery a response makes: the elements asked for, or a sector for an engine. -/
def pktLand (p : Pkt) (r : RemReq) : Landing :=
  let pz := p.dw3.getLsbD 0
  if r.eng.isSome then .sect r.sid.peer.dev r.sec (p.payload.take 32) pz
  else if pType p = 6 then
    let old := BitVec.ofNat 64 (leNat (p.payload.take 8))
    .vec (r.elems.flatMap fun e => oldElems r.fmt.wide e.1 e.2.1 old pz)
  else
    match r.scal with
    | some (d, a) => .scal d (scalarLoad r.fmt (sectorPart p.payload a (fmtBytes r.fmt))) pz
    | none =>
      .vec (r.elems.flatMap fun e =>
        let n := if e.2.2.2 = 0 then fmtBytes r.fmt else 4
        pieceElems r.fmt e.1 ⟨e.2.1, .scratch 0, e.2.2.1, n, e.2.2.2⟩ (sectorPart p.payload e.2.2.1 n) pz)

/-- Sends a QRSP. -/
def queueAnswer (s : State) (sid : StreamId) (p : Pkt) (arg status : Nat) : State :=
  (sendSeq s (answerClass sid) 11 false 0 (pTag p) arg status (pAddr p) 0 0 []).1

/-- A barrier operation of another device's group at its home (R343, R344): 1 arrives, 2 and 3 wait for the phase to differ from 0 and 1. Log 64 (DESIGN CHOICE). -/
def barrierOp (s : State) (sid : StreamId) (p : Pkt) : State :=
  match destRoute s p with
  | none => queueAnswer s sid p 0 1
  | some r =>
    let a := pAddr p
    let part := (pDst p).part
    if pArg p = 1 then
      match barArrive s part r a with
      | (s, some tok) => queueAnswer s sid p (if tok then 1 else 0) 0
      | (s, none) => queueAnswer s sid p 3 0
    else
      let v := homeNat s r a 8
      let tok := pArg p == 3
      if barBad v then queueAnswer s sid p 3 0
      else if barPhase v != tok then queueAnswer s sid p 2 0
      else queueAnswer (s.modPart part fun q => { q with remWaiters := q.remWaiters ++ [(a, answerClass sid, pTag p, tok)] }) sid p 5 0

/-- An operation of another device on a handle or descriptor homed here (R297, R305), each one step: 0 says that it is done, 2 that CUR is no
longer the descriptor named. Log 64 (DESIGN CHOICE). -/
def recordOp (s : State) (sid : StreamId) (p : Pkt) : State :=
  match destRoute s p with
  | none => queueAnswer s sid p 0 1
  | some r =>
    let x := (r, pAddr p)
    let part := (pDst p).part
    let w := fun (k : Nat) => leNat (((openPkt s part s.fabric.devid p).payload.drop (8 * k)).take 8)
    match pArg p with
    | 4 => queueAnswer (addRef s part x 1) sid p 0 0
    | 5 => queueAnswer (addRef s part x (2 ^ 32 - 1)) sid p 0 0
    | 6 =>
      if (handleCur s x).toNat = w 0 % 2 ^ 55 then queueAnswer (setCur s part x (BitVec.ofNat 64 (w 1))) sid p 0 0
      else queueAnswer s sid p 2 0
    | _ => queueAnswer (retireDesc s part x (BitVec.ofNat 64 (w 0)) (w 1)) sid p 0 0

/-- The answer of an operation at its object's home reaches its group. -/
def answerOp (tag v : Nat) (g : Group) : Group :=
  match g.remOp with
  | some (x, t, none) => if t = tag then { g with remOp := some (x, t, some v) } else g
  | _ => g

/-- A wait on a barrier of another device that its home has recorded: the instruction is parked (R356). -/
def parkRemote (s : State) (dev a tag : Nat) : State :=
  match s.groups.find? fun g => match g.remOp with
    | some (_, t, none) => t == tag
    | _ => false with
  | none => s
  | some g =>
    let r : Route := .glob .remote .hw .clear 0 dev
    let s := s.setGroup { g with remOp := none, wait := .parked r a false, spoilt := false, parkedAt := s.now, parkedClk := g.sr.clk2, waitFrom := none }
    clockGate (s.modPart g.part fun p => { p with waiters := (p.waiters.filter fun w => w.2.2 != g.gid) ++ [(r, a, g.gid)] }) g.core

/-- QOP at its home, and QRSP at the requester: 5 says that the wait is recorded, 6 is the home's notification. Log 64 (DESIGN CHOICE). -/
def queuePkt (s : State) (sid : StreamId) (p : Pkt) (port : Nat) : State :=
  if pType p = 10 then (if pArg p < 4 then barrierOp s sid p else recordOp s sid p)
  else
    let refused := pStatus p == 1
    let s := if refused then fabErr s sid.own.part 2 sid.peer (pSeq p) sid.tc port else s
    if !refused && pArg p == 5 then parkRemote s sid.peer.dev (pAddr p) (pTag p)
    else if !refused && pArg p == 6 then notifyObj s sid.own.part (.glob .remote .hw .clear 0 sid.peer.dev) (pAddr p)
    else { s with groups := s.groups.map (answerOp (pTag p) (if refused then 4 else pArg p)) }

/-- Log 64 (DESIGN CHOICE), 66 (DEDUCED). -/
def carryOut (s : State) (sid : StreamId) (p : Pkt) (port : Nat) : State := applyPkt s sid p port pktAtom pktLand queuePkt

/-- The stream of a packet that arrives (R392). -/
def arrivalStream (p : Pkt) : StreamId := ⟨pDst p, pSrc p, if pTrim p then pOtc p else pTC p⟩

/-- The packet of a stream with a number, while it is held, and the port it came by. -/
def heldPkt (s : State) (sid : StreamId) (seq : Nat) : Option (DstStream × Pkt × Nat) :=
  (dstOf? s sid).bind fun d => (d.held.find? (·.1 == seq)).map fun h => (d, h.2)

/-- A sequenced packet at its destination: a packet that may pass the earlier ones is applied at once (R400). -/
def takePkt (s : State) (port : Nat) (p : Pkt) : State :=
  let s := receive s port p
  let sid := arrivalStream p
  match heldPkt s sid (pSeq p) with
  | some (d, q, _) => if pUnord p ∧ mayApply s d q = true then carryOut s sid q port else s
  | none => s

/-- What a packet for this device does on its die, by its type (R398). -/
def landPkt (s : State) (port : Nat) (p : Pkt) : State :=
  if pTrim p then (if unsequenced (pType p) then s else receive s port p)
  else
    match pType p with
    | 7 => takeErr s p port
    | 8 => sendDue (takeAck s p) (pDst p).part
    | 9 => takeRreq s p
    | _ => takePkt s port p

/-- EGRESS_SEND: a packet leaves by an Emlys port, or crosses a UCIe link to the next die, which sends it on or takes it (R389). -/
def execEgressSend (port : Nat) (s : State) : Host.Outcome State Fault Refusal :=
  .next (if portExists port then
      let (q, h) := sendOne (s.port port)
      let s := s.setPort port q
      match h with
      | none => s
      | some h =>
        if port < 16 then s
        else if 16 ≤ h.out ∧ h.die = hopDie port then landPkt s h.inp h.pkt
        else hopOn s (hopDie port) h
    else s)

/-- A packet of a type arrives. -/
def comes (typ : Nat) (port : Nat) (p : Pkt) (s : State) : State :=
  if pType p = typ ∧ pTrim p = false then arrive s port p fun s => landPkt s port p else s

def execWr (port : Nat) (p : Pkt) (s : State) : Host.Outcome State Fault Refusal := .next (comes 1 port p s)
def execWrb (port : Nat) (p : Pkt) (s : State) : Host.Outcome State Fault Refusal := .next (comes 2 port p s)
def execRd (port : Nat) (p : Pkt) (s : State) : Host.Outcome State Fault Refusal := .next (comes 3 port p s)
def execRdrsp (port : Nat) (p : Pkt) (s : State) : Host.Outcome State Fault Refusal := .next (comes 4 port p s)
def execAtReq (port : Nat) (p : Pkt) (s : State) : Host.Outcome State Fault Refusal := .next (comes 5 port p s)
def execAtrsp (port : Nat) (p : Pkt) (s : State) : Host.Outcome State Fault Refusal := .next (comes 6 port p s)
def execQop (port : Nat) (p : Pkt) (s : State) : Host.Outcome State Fault Refusal := .next (comes 10 port p s)
def execQrsp (port : Nat) (p : Pkt) (s : State) : Host.Outcome State Fault Refusal := .next (comes 11 port p s)
def execCtok (port : Nat) (p : Pkt) (s : State) : Host.Outcome State Fault Refusal := .next (comes 12 port p s)
def execFill (port : Nat) (p : Pkt) (s : State) : Host.Outcome State Fault Refusal := .next (comes 16 port p s)

-- unsequenced packets (R392)

/-- ERR: a refused write is recorded in FABERR. -/
def execErr (port : Nat) (p : Pkt) (s : State) : Host.Outcome State Fault Refusal :=
  .next (if pType p = 7 ∧ pTrim p = false then
      arrive s port p fun s => landPkt s port p
    else s)

def execAck (port : Nat) (p : Pkt) (s : State) : Host.Outcome State Fault Refusal :=
  .next (if pType p = 8 ∧ pTrim p = false then arrive s port p fun s => landPkt s port p else s)

def execRreq (port : Nat) (p : Pkt) (s : State) : Host.Outcome State Fault Refusal :=
  .next (if pType p = 9 ∧ pTrim p = false then arrive s port p fun s => landPkt s port p else s)

/-- TRIMMED_HEADER: the header of a packet whose payload was cut. -/
def execTrimmedHeader (port : Nat) (p : Pkt) (s : State) : Host.Outcome State Fault Refusal :=
  .next (if pTrim p ∧ unsequenced (pType p) = false then arrive s port p fun s => landPkt s port p else s)

-- PACKET_APPLY, RREQ_SEND, ACK_SEND, RETRANSMIT_TIMEOUT

/-- Carries out a held packet and the `n` that follow it. -/
def applyChain (sid : StreamId) (seq : Nat) : Nat → State → State
  | 0, s =>
    match heldPkt s sid seq with
    | some (_, p, port) => carryOut s sid p port
    | none => s
  | n + 1, s =>
    match heldPkt s sid seq with
    | some (_, p, port) => applyChain sid ((seq + 1) % 65536) n (carryOut s sid p port)
    | none => s

/-- Carries out a held packet whose turn has come, with the packets of its sequence (R310). -/
def applyHeld (s : State) (sid : StreamId) (seq : Nat) : State :=
  match heldPkt s sid seq with
  | some (d, p, _) => if mayApply s d p then applyChain sid seq (chainLeft s p) s else s
  | none => s

/-- Log 3 (DESIGN CHOICE). -/
def execPacketApply (sid : StreamId) (seq : Nat) (s : State) : Host.Outcome State Fault Refusal := .next (applyHeld s sid seq)

def execRreqSend (dev : Nat) (s : State) : Host.Outcome State Fault Refusal := .next (sendRreq s dev)

/-- Sends an ACK 256 ns after the oldest application that is not acknowledged. -/
def ackDue (s : State) (sid : StreamId) : State :=
  match dstOf? s sid with
  | some d =>
    match d.oldest with
    | some t => if t + 256 ≤ s.ns ∨ 16 ≤ d.sinceAck then sendAck s sid else s
    | none => s
  | none => s

def execAckSend (sid : StreamId) (s : State) : Host.Outcome State Fault Refusal := .next (ackDue s sid)

def execRetransmitTimeout (sid : StreamId) (seq : Nat) (s : State) : Host.Outcome State Fault Refusal := .next (timeoutPkt s sid seq)

end Sys2Proof.Machine
end

