-- ==== Sys2Proof/Machine/Errors.lean ====
section
/-! DEFINITION. Errors in hardware (R428 to R432): poisoned registers and sectors, fenced cores and channels, failed partitions, the
containment register. -/

namespace Sys2Proof.Machine

open Sys2Proof

/-- The containment register takes the first event since V was cleared and raises its vector (R432). Log 72 (DEDUCED). -/
def containEvent (s : State) (part kind die unit pa : Nat) : State :=
  match s.part? part with
  | none => s
  | some p =>
    if p.contain.getLsbD 63 then s
    else
      let v := p.contain &&& 0xFF#64
      let w := BitVec.ofNat 64 (2 ^ 63 + kind * 2 ^ 60 + die % 8 * 2 ^ 53 + unit % 64 * 2 ^ 47) ||| v
      (s.setPart { p with contain := w, containPa := if kind = 2 then BitVec.ofNat 64 (pa % 2 ^ 48) else 0 }).notify (.msix part v.toNat)

-- registers (R428)

def poisonWin (hi : Bool) (l : Lane) (w : WinEntry) : WinEntry :=
  match w with
  | .scalar v _ => .scalar v true
  | .vec v lo h => if hi then .vec v lo (h ||| laneBit l.val) else .vec v (lo ||| laneBit l.val) h
  | w => w

/-- An uncorrectable error marks the element or the register. -/
def poisonReg (r : EccReg) (g : Group) : Group :=
  match r with
  | .vec n l => { g with regs := g.regs.setElem n l (g.regs.getV n l) true }
  | .win n hi l => { g with win := setAt g.win n.toNat (poisonWin hi l (g.win[n.toNat]?.getD .none)) }
  | .scalar n => { g with regs := g.regs.setS n (g.regs.s[n.toNat]?.getD 0) true }
  | .common _ => g

def poisonCommon (r : EccReg) (t : Team) : Team :=
  match r with
  | .common n => { t with cp := t.cp ||| (1#16 <<< n.toNat) }
  | _ => t

def execRegisterEccError (gid : Nat) (r : EccReg) (s : State) : Host.Outcome State Fault Refusal :=
  .next (match s.group? gid with
    | none => s
    | some g =>
      let s := ((s.setGroup (poisonReg r g)).modTeam g.tid (poisonCommon r)).modPart g.part fun p =>
        { p with regpois := (p.regpois + 1) % 2 ^ 64 }
      containEvent s g.part 1 (dieOf g.core) (g.core % 48) 0)

-- teams that are lost (R429, R431)

/-- Every group of the teams is to end, with its team LOST; those on a fenced core leave their stores and deliveries behind. Log 56 (DEDUCED), 73 (DEDUCED). -/
def loseTeams (s : State) (part : Nat) (f : Team → Bool) (core : Option Nat) : State :=
  let tids := (s.teams.filter fun t => f t && !t.ended).map (·.tid)
  let mine := fun (n : Nat) => tids.contains n
  let back : List Group := (s.saved.filter fun x => mine x.g.tid).map fun x => { x.g with slot := 8 }
  let cut := fun (g : Group) => if some g.core = core then
      { g with stbuf := [], tags := Vector.replicate 8 none, remWr := [], remOp := none, merge := g.merge.filter (·.atSlice) } else g
  let s := { s with
    groups := (s.groups ++ back).map fun (g : Group) =>
      if mine g.tid then
        { dropRun (cut g) 0 with killed := true, exiting := true, wait := .none }
      else g
    saved := s.saved.filter fun x => !mine x.g.tid
    savedTeams := s.savedTeams.filter fun x => !mine x.tid
    ended := s.ended.map fun g => if mine g.tid then cut g else g
    teams := s.teams.map fun t => if mine t.tid then { t with lost := true } else t }
  let s := unpark s part (s.groups.filter fun g => mine g.tid)
  (s.teams.filter fun t => mine t.tid).foldl (fun s t => dropCmds s t.core t.tid false) s

/-- The clusters that include a core. Log 73 (DEDUCED). -/
def touchesCore (s : State) (core : Nat) (t : Team) : Bool :=
  s.teams.any fun x => x.core == core && x.lid == t.lid && x.cluster == t.cluster

/-- What a fenced core is left with: its tokens go back to the ring. Log 73 (DEDUCED). -/
def fencedCore (c : CoreSt) : CoreSt := { wipeCore c with fenced := true, giveBack := 0 }

/-- Log 73 (DEDUCED). -/
def execCoreFence (core : Nat) (s : State) : Host.Outcome State Fault Refusal :=
  .next (
    if 384 ≤ core ∨ (s.core core).fenced then s
    else
      let c := s.core core
      let d := dieOf core
      let s := s.setDie d (giveTokens (s.die d) (c.tokens + c.giveBack))
      let s := { (s.setCore core (fencedCore c)) with
        cores := (s.setCore core (fencedCore c)).cores.map fun x =>
          if x.2.claimedBy = some core then (x.1, { x.2 with claimedBy := none }) else x }
      match corePart s core with
      | none => s
      | some p =>
        let s := loseTeams s p (touchesCore s core) (some core)
        let s := s.modPart p fun q => { q with fences := (q.fences + 1) % 2 ^ 64 }
        containEvent s p 3 d (core % 48) 0)

-- memory (R430)

/-- A sector is poisoned by an error: it is counted and recorded. -/
def sectorPoisoned (s : State) (part die pa : Nat) : State :=
  containEvent (s.modPart part fun p => { p with mempois := (p.mempois + 1) % 2 ^ 64 }) part 2 die 0 pa

/-- The channel of a physical address of tier HBM (R431). -/
def channelOf (pa : Nat) : Nat := 4 * bits pa 36 33 + bits pa 32 31

/-- A channel records an uncorrectable error. Log 72 (DEDUCED). -/
def channelError (s : State) (pa : Nat) : State :=
  let d := bits pa 39 37
  s.setDie d { s.die d with chErrs := (s.die d).chErrs ++ [(channelOf pa, s.now)] }

/-- Marks the sector of an address in a copy of its line. -/
def poisonLine (pa : Nat) (x : L1Line) : L1Line := { x with pois := x.pois ||| (1#4 <<< (pa / 32 % 4)) }

/-- A sector the host returns with EP set (R95) is no error of the device's. Log 24 (DESIGN CHOICE), 72 (DEDUCED). -/
def execMemoryEccError (m : EccMem) (s : State) : Host.Outcome State Fault Refusal :=
  .next (match m with
    | .home part pa =>
      (match s.part? part with
      | none => s
      | some p =>
        let tier : Tier := if pa < 0x10000000000 then .hbm else .vault
        if !ownsMem s p tier pa then s
        else
          let s := homeSetPois s (.glob tier .hw .clear 0 0) (pa / 32) true
          let s := if tier = .hbm then channelError s pa else s
          sectorPoisoned s part (paDie tier pa) (pa / 32 * 32))
    | .scratch tid off =>
      (match s.team? tid with
      | none => s
      | some t =>
        if t.scratchSize ≤ off then s
        else sectorPoisoned (homeSetPois s (.scratch tid) (off / 32) true) t.part (dieOf t.core) 0)
    | .l1 core pa =>
      (match (s.core core).l1.find? fun x => x.line == pa / 128 with
      | none => s
      | some x =>
        if x.dirty = 0 then s.modCore core fun c => { c with l1 := c.l1.filter fun y => !sameLine x.tier x.line y }
        else
          let mark := fun (y : L1Line) => if sameLine x.tier x.line y then poisonLine pa y else y
          let s := s.modCore core fun c => { c with l1 := c.l1.map mark }
          sectorPoisoned s x.part (dieOf core) (pa / 32 * 32))
    | .sliceCopy pa =>
      (match s.parts.find? fun p => p.hostCopies.any fun x => x.line == pa / 128 with
      | none => s
      | some p =>
        let held := fun (x : L1Line) => x.line == pa / 128
        if p.hostCopies.any (fun x => held x && x.dirty != 0) then
          let s := s.setPart { p with hostCopies := p.hostCopies.map fun x => if held x then poisonLine pa x else x }
          sectorPoisoned s p.id (homeSlice p pa / 24) (pa / 32 * 32)
        else s.setPart { p with hostCopies := p.hostCopies.filter fun x => !held x })
    | .host sec => { s with host := s.host.setPois sec true })

-- channels and slices (R431)

/-- The errors a channel has recorded within the last second. -/
def recentErrors (s : State) (d : DieSt) (ch : Nat) : Nat :=
  (d.chErrs.filter fun e => e.1 == ch && decide (s.now < e.2 + msTicks 1000)).length

/-- A channel is fenced: sixteen errors within a second, or it does not train or refresh. -/
def fenceChannel (die ch : Nat) (untrained : Bool) (s : State) : State :=
  let d := s.die die
  if 8 ≤ die ∨ 64 ≤ ch ∨ d.chFenced.contains ch ∨ (untrained = false ∧ recentErrors s d ch < 16) then s
  else
    let s := s.setDie die { d with chFenced := nsAdd d.chFenced ch }
    match s.parts.find? fun p => p.cgroups.contains (16 * die + ch / 4) with
    | none => s
    | some p => containEvent (s.modPart p.id fun q => { q with fences := (q.fences + 1) % 2 ^ 64 }) p.id 4 die ch 0

/-- CHANNEL_FENCE. -/
def execChannelFence (die ch : Nat) (untrained : Bool) (s : State) : Host.Outcome State Fault Refusal :=
  .next (fenceChannel die ch untrained s)

/-- Teams of a launch that have not been placed end with LOST. Log 74 (DEDUCED). -/
def loseUnplaced (s : State) (l : Launch) : State :=
  let left := (List.range (gridTeams l.grid)).filter fun t =>
    !(l.results.any fun r => r.1 == t) && !(s.teams.any fun x => x.lid == l.lid && x.t == t)
  let s := s.setLaunch { l with
    nextCluster := clusterCount l, results := l.results ++ left.map fun t => (t, stLost, 0) }
  s.modPart l.part fun p => { p with abnormal := (p.abnormal + left.length) % 2 ^ 64 }

/-- A record that was accepted and has not entered the table is refused. Log 74 (DEDUCED). -/
def loseHead (h : HeadSt) : HeadSt :=
  match h with
  | .ready l => .refused l.launchId stLost
  | h => h

/-- PARTITION_FAIL: a slice of the partition (by its global number, R104) has failed. Log 74 (DEDUCED). -/
def execPartitionFail (part slice : Nat) (s : State) : Host.Outcome State Fault Refusal :=
  .next (match s.part? part with
    | none => s
    | some p =>
      if p.failed || !p.sectors.contains (slice / 8) then s
      else
        let p := { p with failed := true, qpairs := p.qpairs.map fun (q : QPair) => { q with head := q.head.map loseHead } }
        let s := loseTeams (s.setPart p) part (fun t => t.part == part) none
        let s := (tableLaunches s p).foldl loseUnplaced s
        containEvent s part 5 (slice / 24) (slice % 24) 0)

/-- CORRECTABLE_ERROR: corrected and counted. -/
def execCorrectableError (part : Nat) (s : State) : Host.Outcome State Fault Refusal :=
  .next (s.modPart part fun p => { p with corrected := (p.corrected + 1) % 2 ^ 64 })

end Sys2Proof.Machine
end

