-- ==== Sys2Proof/Machine/Dispatch.lean ====
section
/-! DEFINITION. The dispatch: one arm per constructor of `Instr`, each a direct call of the instruction's meaning. -/

namespace Sys2Proof.Machine

open Sys2Proof

/-- What an instruction does. -/
def exec (i : Instr) (s : State) : Host.Outcome State Fault Refusal :=
  match i with
  | .nop h => Sys2Proof.Machine.execNop h s
  | .br h ofs => Sys2Proof.Machine.execBr h ofs s
  | .brc h cond t ofs => Sys2Proof.Machine.execBrc h cond t ofs s
  | .brd h c neg ofs => Sys2Proof.Machine.execBrd h c neg ofs s
  | .join h => Sys2Proof.Machine.execJoin h s
  | .loop h ofs => Sys2Proof.Machine.execLoop h ofs s
  | .brk h c neg ofs => Sys2Proof.Machine.execBrk h c neg ofs s
  | .call h link ofs => Sys2Proof.Machine.execCall h link ofs s
  | .ret h a => Sys2Proof.Machine.execRet h a s
  | .jmpr h a => Sys2Proof.Machine.execJmpr h a s
  | .exit h => Sys2Proof.Machine.execExit h s
  | .trap h code => Sys2Proof.Machine.execTrap h code s
  | .rte h => Sys2Proof.Machine.execRte h s
  | .yield h => Sys2Proof.Machine.execYield h s
  | .sadd h d a b ty sat => Sys2Proof.Machine.execSadd h d a b ty sat s
  | .ssub h d a b ty sat => Sys2Proof.Machine.execSsub h d a b ty sat s
  | .smul h d a b ty sat => Sys2Proof.Machine.execSmul h d a b ty sat s
  | .smulh h d a b ty => Sys2Proof.Machine.execSmulh h d a b ty s
  | .sand h d a b ty => Sys2Proof.Machine.execSand h d a b ty s
  | .sor h d a b ty => Sys2Proof.Machine.execSor h d a b ty s
  | .sxor h d a b ty => Sys2Proof.Machine.execSxor h d a b ty s
  | .sshl h d a b ty => Sys2Proof.Machine.execSshl h d a b ty s
  | .sshr h d a b ty => Sys2Proof.Machine.execSshr h d a b ty s
  | .ssar h d a b ty => Sys2Proof.Machine.execSsar h d a b ty s
  | .smin h d a b ty => Sys2Proof.Machine.execSmin h d a b ty s
  | .smax h d a b ty => Sys2Proof.Machine.execSmax h d a b ty s
  | .scmp h d a b ty c => Sys2Proof.Machine.execScmp h d a b ty c s
  | .ssel h d a b c ty => Sys2Proof.Machine.execSsel h d a b c ty s
  | .smov h d a ty => Sys2Proof.Machine.execSmov h d a ty s
  | .sbit h d a op ty => Sys2Proof.Machine.execSbit h d a op ty s
  | .sli h d imm => Sys2Proof.Machine.execSli h d imm s
  | .slih h d a imm => Sys2Proof.Machine.execSlih h d a imm s
  | .rdsr h d n => Sys2Proof.Machine.execRdsr h d n s
  | .wrsr h n a => Sys2Proof.Machine.execWrsr h n a s
  | .grow h n => Sys2Proof.Machine.execGrow h n s
  | .twait h set => Sys2Proof.Machine.execTwait h set s
  | .clrc h bits => Sys2Proof.Machine.execClrc h bits s
  | .mmov h d a => Sys2Proof.Machine.execMmov h d a s
  | .mlog h d a b tt => Sys2Proof.Machine.execMlog h d a b tt s
  | .mpopc h d a => Sys2Proof.Machine.execMpopc h d a s
  | .mfirst h d a => Sys2Proof.Machine.execMfirst h d a s
  | .mrd h d a => Sys2Proof.Machine.execMrd h d a s
  | .mwr h d a => Sys2Proof.Machine.execMwr h d a s
  | .mtest h d a b => Sys2Proof.Machine.execMtest h d a b s
  | .vadd h d a b sel ty sat => Sys2Proof.Machine.execVadd h d a b sel ty sat s
  | .vsub h d a b sel ty sat => Sys2Proof.Machine.execVsub h d a b sel ty sat s
  | .vmul h d a b sel ty sat => Sys2Proof.Machine.execVmul h d a b sel ty sat s
  | .vmulh h d a b sel ty => Sys2Proof.Machine.execVmulh h d a b sel ty s
  | .vmad h d a b c sel ty sat => Sys2Proof.Machine.execVmad h d a b c sel ty sat s
  | .vaddc h d a b sel ty k => Sys2Proof.Machine.execVaddc h d a b sel ty k s
  | .vand h d a b sel ty => Sys2Proof.Machine.execVand h d a b sel ty s
  | .vor h d a b sel ty => Sys2Proof.Machine.execVor h d a b sel ty s
  | .vxor h d a b sel ty => Sys2Proof.Machine.execVxor h d a b sel ty s
  | .vshl h d a b sel ty => Sys2Proof.Machine.execVshl h d a b sel ty s
  | .vshr h d a b sel ty => Sys2Proof.Machine.execVshr h d a b sel ty s
  | .vsar h d a b sel ty => Sys2Proof.Machine.execVsar h d a b sel ty s
  | .vmin h d a b sel ty => Sys2Proof.Machine.execVmin h d a b sel ty s
  | .vmax h d a b sel ty => Sys2Proof.Machine.execVmax h d a b sel ty s
  | .vabsd h d a b sel ty => Sys2Proof.Machine.execVabsd h d a b sel ty s
  | .vbit h d a op sel ty => Sys2Proof.Machine.execVbit h d a op sel ty s
  | .vcmp h d a b sel ty c => Sys2Proof.Machine.execVcmp h d a b sel ty c s
  | .vsel h d a b sel ty k => Sys2Proof.Machine.execVsel h d a b sel ty k s
  | .vmov h d a sel ty => Sys2Proof.Machine.execVmov h d a sel ty s
  | .vli h d imm => Sys2Proof.Machine.execVli h d imm s
  | .vidx h d a b sel signed => Sys2Proof.Machine.execVidx h d a b sel signed s
  | .vpermb h d a b sel => Sys2Proof.Machine.execVpermb h d a b sel s
  | .vfadd h d a b sel rm => Sys2Proof.Machine.execVfadd h d a b sel rm s
  | .vfsub h d a b sel rm => Sys2Proof.Machine.execVfsub h d a b sel rm s
  | .vfmul h d a b sel rm => Sys2Proof.Machine.execVfmul h d a b sel rm s
  | .vfma h d a b c sel rm => Sys2Proof.Machine.execVfma h d a b c sel rm s
  | .vfmin h d a b sel => Sys2Proof.Machine.execVfmin h d a b sel s
  | .vfmax h d a b sel => Sys2Proof.Machine.execVfmax h d a b sel s
  | .vfcmp h d a b sel c => Sys2Proof.Machine.execVfcmp h d a b sel c s
  | .vfclass h d a sel => Sys2Proof.Machine.execVfclass h d a sel s
  | .vfrnd h d a sel rm => Sys2Proof.Machine.execVfrnd h d a sel rm s
  | .vfcvt h d a sel t rm => Sys2Proof.Machine.execVfcvt h d a sel t rm s
  | .vrcp h d a sel => Sys2Proof.Machine.execVrcp h d a sel s
  | .vrsq h d a sel => Sys2Proof.Machine.execVrsq h d a sel s
  | .vsqrt h d a sel => Sys2Proof.Machine.execVsqrt h d a sel s
  | .vexp2 h d a sel => Sys2Proof.Machine.execVexp2 h d a sel s
  | .vlog2 h d a sel => Sys2Proof.Machine.execVlog2 h d a sel s
  | .vsinpi h d a sel => Sys2Proof.Machine.execVsinpi h d a sel s
  | .vcospi h d a sel => Sys2Proof.Machine.execVcospi h d a sel s
  | .vtanh h d a sel => Sys2Proof.Machine.execVtanh h d a sel s
  | .vshfl h d a b sel ty f => Sys2Proof.Machine.execVshfl h d a b sel ty f s
  | .vbcast h d a b sel ty => Sys2Proof.Machine.execVbcast h d a b sel ty s
  | .vred h d a sel ty op => Sys2Proof.Machine.execVred h d a sel ty op s
  | .vredf h d a sel op => Sys2Proof.Machine.execVredf h d a sel op s
  | .vscan h d a sel ty op excl => Sys2Proof.Machine.execVscan h d a sel ty op excl s
  | .vcomp h d a sel ty => Sys2Proof.Machine.execVcomp h d a sel ty s
  | .vexpd h d a sel ty => Sys2Proof.Machine.execVexpd h d a sel ty s
  | .vld h ta d a off sel f acq nt => Sys2Proof.Machine.execVld h ta d a off sel f acq nt s
  | .vldIndexed h ta d a b c sel f acq nt => Sys2Proof.Machine.execVldIndexed h ta d a b c sel f acq nt s
  | .vldb h ta d a off sel f acq nt => Sys2Proof.Machine.execVldb h ta d a off sel f acq nt s
  | .vst h d a off sel f rnd rel nt => Sys2Proof.Machine.execVst h d a off sel f rnd rel nt s
  | .vstIndexed h d a b c sel f rnd rel nt => Sys2Proof.Machine.execVstIndexed h d a b c sel f rnd rel nt s
  | .vstAmax h d a off sel f rnd rel nt => Sys2Proof.Machine.execVstAmax h d a off sel f rnd rel nt s
  | .vstAmaxIndexed h d a b c sel f rnd rel nt => Sys2Proof.Machine.execVstAmaxIndexed h d a b c sel f rnd rel nt s
  | .vlds h ta d a off sel f acq => Sys2Proof.Machine.execVlds h ta d a off sel f acq s
  | .vsts h d a off sel f rnd rel => Sys2Proof.Machine.execVsts h d a off sel f rnd rel s
  | .vldp h ta d a off sel f nt => Sys2Proof.Machine.execVldp h ta d a off sel f nt s
  | .vstp h d a off sel f rnd nt => Sys2Proof.Machine.execVstp h d a off sel f rnd nt s
  | .sld h ta d a off f acq nt => Sys2Proof.Machine.execSld h ta d a off f acq nt s
  | .sst h d a off f rel nt => Sys2Proof.Machine.execSst h d a off f rel nt s
  | .pref h a off sel nt => Sys2Proof.Machine.execPref h a off sel nt s
  | .cwb h addr sc => Sys2Proof.Machine.execCwb h addr sc s
  | .cinv h addr sc => Sys2Proof.Machine.execCinv h addr sc s
  | .icinv h addr dev => Sys2Proof.Machine.execIcinv h addr dev s
  | .atom h r a b sel f op ord => Sys2Proof.Machine.execAtom h r a b sel f op ord s
  | .acas h r a b c sel f ord => Sys2Proof.Machine.execAcas h r a b c sel f ord s
  | .afadd h r a b sel ord => Sys2Proof.Machine.execAfadd h r a b sel ord s
  | .fence h ord sc sp => Sys2Proof.Machine.execFence h ord sc sp s
  | .bara h d a sc sp => Sys2Proof.Machine.execBara h d a sc sp s
  | .barw h a b sc sp => Sys2Proof.Machine.execBarw h a b sc sp s
  | .bar h a sc sp => Sys2Proof.Machine.execBar h a sc sp s
  | .qpush h d q sel => Sys2Proof.Machine.execQpush h d q sel s
  | .qpop h d q sel => Sys2Proof.Machine.execQpop h d q sel s
  | .qtrypush h d q sel => Sys2Proof.Machine.execQtrypush h d q sel s
  | .qtrypop h d q sel => Sys2Proof.Machine.execQtrypop h d q sel s
  | .sqpush h d q => Sys2Proof.Machine.execSqpush h d q s
  | .sqpop h d q => Sys2Proof.Machine.execSqpop h d q s
  | .qstat h d q => Sys2Proof.Machine.execQstat h d q s
  | .qinit h a b c => Sys2Proof.Machine.execQinit h a b c s
  | .taskwait h q => Sys2Proof.Machine.execTaskwait h q s
  | .taskdone h q => Sys2Proof.Machine.execTaskdone h q s
  | .cpy h a x => Sys2Proof.Machine.execCpy h a x s
  | .bclose h d st => Sys2Proof.Machine.execBclose h d st s
  | .bwait h a st => Sys2Proof.Machine.execBwait h a st s
  | .egath h d a b c sel seg => Sys2Proof.Machine.execEgath h d a b c sel seg s
  | .escat h d a b sel => Sys2Proof.Machine.execEscat h d a b sel s
  | .eswap h a b => Sys2Proof.Machine.execEswap h a b s
  | .mma h d a b ty pair => Sys2Proof.Machine.execMma h d a b ty pair s
  | .mscale h d a b => Sys2Proof.Machine.execMscale h d a b s
  | .mzero h d => Sys2Proof.Machine.execMzero h d s
  | .mlda h ta d a b sel => Sys2Proof.Machine.execMlda h ta d a b sel s
  | .msta h a b c f rnd nt => Sys2Proof.Machine.execMsta h a b c f rnd nt s
  | .msave h a => Sys2Proof.Machine.execMsave h a s
  | .mresume h a => Sys2Proof.Machine.execMresume h a s
  | .txbeg h sel ts => Sys2Proof.Machine.execTxbeg h sel ts s
  | .txend h sel => Sys2Proof.Machine.execTxend h sel s
  | .txabt h sel => Sys2Proof.Machine.execTxabt h sel s
  | .txstat h d sel => Sys2Proof.Machine.execTxstat h d sel s
  | .specbeg h a b sel => Sys2Proof.Machine.execSpecbeg h a b sel s
  | .specend h => Sys2Proof.Machine.execSpecend h s
  | .txRetry gid => Sys2Proof.Machine.execTxRetry gid s
  | .serialTokenGrant part => Sys2Proof.Machine.execSerialTokenGrant part s
  | .specTurn gid => Sys2Proof.Machine.execSpecTurn gid s
  | .orderNumberRetire part k => Sys2Proof.Machine.execOrderNumberRetire part k s
  | .submissionPush part page off data => Sys2Proof.Machine.execSubmissionPush part page off data s
  | .completionPop part page off size => Sys2Proof.Machine.execCompletionPop part page off size s
  | .qsetEnable part pair v => Sys2Proof.Machine.execQsetEnable part pair v s
  | .qsetDisable part pair v => Sys2Proof.Machine.execQsetDisable part pair v s
  | .queuePairRelease part pair => Sys2Proof.Machine.execQueuePairRelease part pair s
  | .launchCheck part => Sys2Proof.Machine.execLaunchCheck part s
  | .refusalPush part pair => Sys2Proof.Machine.execRefusalPush part pair s
  | .launchEnterTable part pair => Sys2Proof.Machine.execLaunchEnterTable part pair s
  | .clusterPlace part => Sys2Proof.Machine.execClusterPlace part s
  | .clusterWaitTimeout part lid => Sys2Proof.Machine.execClusterWaitTimeout part lid s
  | .groupEviction gid => Sys2Proof.Machine.execGroupEviction gid s
  | .tagDrainTimeout gid => Sys2Proof.Machine.execTagDrainTimeout gid s
  | .lateSectorReturn gid k => Sys2Proof.Machine.execLateSectorReturn gid k s
  | .groupReadmit gid => Sys2Proof.Machine.execGroupReadmit gid s
  | .growEvict core sub => Sys2Proof.Machine.execGrowEvict core sub s
  | .growStarvationTimeout core sub => Sys2Proof.Machine.execGrowStarvationTimeout core sub s
  | .yieldExpire gid => Sys2Proof.Machine.execYieldExpire gid s
  | .watchdog gid => Sys2Proof.Machine.execWatchdog gid s
  | .runFetch gid => Sys2Proof.Machine.execRunFetch gid s
  | .icacheFill core line => Sys2Proof.Machine.execIcacheFill core line s
  | .runSelect core sub => Sys2Proof.Machine.execRunSelect core sub s
  | .pageRequestSend part => Sys2Proof.Machine.execPageRequestSend part s
  | .pageResponse part page code => Sys2Proof.Machine.execPageResponse part page code s
  | .priReset part => Sys2Proof.Machine.execPriReset part s
  | .atsInvalidate part page npages => Sys2Proof.Machine.execAtsInvalidate part page npages s
  | .atsInvalidateComplete part => Sys2Proof.Machine.execAtsInvalidateComplete part s
  | .pageWalk sector page => Sys2Proof.Machine.execPageWalk sector page s
  | .sectorReturn gid k => Sys2Proof.Machine.execSectorReturn gid k s
  | .storeApply gid => Sys2Proof.Machine.execStoreApply gid s
  | .lineFill part line => Sys2Proof.Machine.execLineFill part line s
  | .atomicHomeApply gid => Sys2Proof.Machine.execAtomicHomeApply gid s
  | .queueHomeOp gid => Sys2Proof.Machine.execQueueHomeOp gid s
  | .waiterNotify k => Sys2Proof.Machine.execWaiterNotify k s
  | .parkRepoll gid => Sys2Proof.Machine.execParkRepoll gid s
  | .coreWake core => Sys2Proof.Machine.execCoreWake core s
  | .taskDispatch part q => Sys2Proof.Machine.execTaskDispatch part q s
  | .copyComplete core op => Sys2Proof.Machine.execCopyComplete core op s
  | .ringPublish core op => Sys2Proof.Machine.execRingPublish core op s
  | .matrixCommandStart core => Sys2Proof.Machine.execMatrixCommandStart core s
  | .kblockComplete core => Sys2Proof.Machine.execKblockComplete core s
  | .matrixCommandComplete core => Sys2Proof.Machine.execMatrixCommandComplete core s
  | .pairClaim core => Sys2Proof.Machine.execPairClaim core s
  | .gatherComplete core op => Sys2Proof.Machine.execGatherComplete core op s
  | .scatterReadComplete core op => Sys2Proof.Machine.execScatterReadComplete core op s
  | .gatherBatchApply core op => Sys2Proof.Machine.execGatherBatchApply core op s
  | .descriptorRelease part k => Sys2Proof.Machine.execDescriptorRelease part k s
  | .releaseRecordPush part pair => Sys2Proof.Machine.execReleaseRecordPush part pair s
  | .groupEnd gid => Sys2Proof.Machine.execGroupEnd gid s
  | .teamEnd tid => Sys2Proof.Machine.execTeamEnd tid s
  | .launchComplete lid => Sys2Proof.Machine.execLaunchComplete lid s
  | .tokenVisit die => Sys2Proof.Machine.execTokenVisit die s
  | .powerSample die milliwatt => Sys2Proof.Machine.execPowerSample die milliwatt s
  | .powerCapExceeded die => Sys2Proof.Machine.execPowerCapExceeded die s
  | .clockHalve die => Sys2Proof.Machine.execClockHalve die s
  | .clockRestore die => Sys2Proof.Machine.execClockRestore die s
  | .tokenRestore die => Sys2Proof.Machine.execTokenRestore die s
  | .heatMark core centi => Sys2Proof.Machine.execHeatMark core centi s
  | .heatMarkClear core => Sys2Proof.Machine.execHeatMarkClear core s
  | .droopMark core => Sys2Proof.Machine.execDroopMark core s
  | .droopMarkClear core => Sys2Proof.Machine.execDroopMarkClear core s
  | .bootRecordVerify rec sigOk fw => Sys2Proof.Machine.execBootRecordVerify rec sigOk fw s
  | .bootRecordLoad rec sigOk fw => Sys2Proof.Machine.execBootRecordLoad rec sigOk fw s
  | .tierReached => Sys2Proof.Machine.execTierReached s
  | .partitionCreate p sectors groups => Sys2Proof.Machine.execPartitionCreate p sectors groups s
  | .partitionDestroy p => Sys2Proof.Machine.execPartitionDestroy p s
  | .getVersion fn => Sys2Proof.Machine.execGetVersion fn s
  | .getCapabilities fn => Sys2Proof.Machine.execGetCapabilities fn s
  | .negotiateAlgorithms fn => Sys2Proof.Machine.execNegotiateAlgorithms fn s
  | .getDigests fn => Sys2Proof.Machine.execGetDigests fn s
  | .getCertificate fn => Sys2Proof.Machine.execGetCertificate fn s
  | .challenge fn nonce => Sys2Proof.Machine.execChallenge fn nonce s
  | .getMeasurements fn index => Sys2Proof.Machine.execGetMeasurements fn index s
  | .keyExchange fn => Sys2Proof.Machine.execKeyExchange fn s
  | .finish fn => Sys2Proof.Machine.execFinish fn s
  | .endSession fn => Sys2Proof.Machine.execEndSession fn s
  | .keyloadLoad fn secured rec => Sys2Proof.Machine.execKeyloadLoad fn secured rec s
  | .keyloadErase fn secured rec => Sys2Proof.Machine.execKeyloadErase fn secured rec s
  | .keyEraseFinish slot => Sys2Proof.Machine.execKeyEraseFinish slot s
  | .ptrootWrite part v => Sys2Proof.Machine.execPtrootWrite part v s
  | .tlbInvalidateAll part => Sys2Proof.Machine.execTlbInvalidateAll part s
  | .tlbInvalidateRange part npages => Sys2Proof.Machine.execTlbInvalidateRange part npages s
  | .tlbInvalidateDone part => Sys2Proof.Machine.execTlbInvalidateDone part s
  | .flushAll part => Sys2Proof.Machine.execFlushAll part s
  | .flushRange part npages => Sys2Proof.Machine.execFlushRange part npages s
  | .flushDone part => Sys2Proof.Machine.execFlushDone part s
  | .faberrClear part v => Sys2Proof.Machine.execFaberrClear part v s
  | .portAssign port v => Sys2Proof.Machine.execPortAssign port v s
  | .registerWrite sp off v => Sys2Proof.Machine.execRegisterWrite sp off v s
  | .egressEnqueue port p => Sys2Proof.Machine.execEgressEnqueue port p s
  | .egressSend port => Sys2Proof.Machine.execEgressSend port s
  | .transitForward port p => Sys2Proof.Machine.execTransitForward port p s
  | .wr port p => Sys2Proof.Machine.execWr port p s
  | .wrb port p => Sys2Proof.Machine.execWrb port p s
  | .rd port p => Sys2Proof.Machine.execRd port p s
  | .rdrsp port p => Sys2Proof.Machine.execRdrsp port p s
  | .atReq port p => Sys2Proof.Machine.execAtReq port p s
  | .atrsp port p => Sys2Proof.Machine.execAtrsp port p s
  | .err port p => Sys2Proof.Machine.execErr port p s
  | .ack port p => Sys2Proof.Machine.execAck port p s
  | .rreq port p => Sys2Proof.Machine.execRreq port p s
  | .qop port p => Sys2Proof.Machine.execQop port p s
  | .qrsp port p => Sys2Proof.Machine.execQrsp port p s
  | .ctok port p => Sys2Proof.Machine.execCtok port p s
  | .fill port p => Sys2Proof.Machine.execFill port p s
  | .trimmedHeader port p => Sys2Proof.Machine.execTrimmedHeader port p s
  | .packetApply sid seq => Sys2Proof.Machine.execPacketApply sid seq s
  | .rreqSend dev => Sys2Proof.Machine.execRreqSend dev s
  | .ackSend sid => Sys2Proof.Machine.execAckSend sid s
  | .retransmitTimeout sid seq => Sys2Proof.Machine.execRetransmitTimeout sid seq s
  | .registerEccError gid r => Sys2Proof.Machine.execRegisterEccError gid r s
  | .coreFence core => Sys2Proof.Machine.execCoreFence core s
  | .memoryEccError m => Sys2Proof.Machine.execMemoryEccError m s
  | .channelFence die ch untrained => Sys2Proof.Machine.execChannelFence die ch untrained s
  | .partitionFail part slice => Sys2Proof.Machine.execPartitionFail part slice s
  | .correctableError part => Sys2Proof.Machine.execCorrectableError part s

end Sys2Proof.Machine
end

