-- ==== Sys2Proof/Machine/Run.lean ====
section
/-! DEFINITION. What the device does by itself: the passing of time, the steps that may come next, the reorder buffer's deliveries and
early reads, the execution of a group's oldest instruction with the stops that come before it (R65, R139, R149, R154 to R164, R416, R418), and the word that a test places for the next step. -/

namespace Sys2Proof.Machine

open Sys2Proof

-- time (R4, R121)

/-- Half clocks that pass for a group in `n` issue clocks of full rate; none while its core's clocks are stopped (R358). Log 4 (DESIGN CHOICE). -/
def halfClocks (s : State) (n : Nat) (g : Group) : Nat :=
  if clocksStopped s g.core then 0 else if halved s g.core then n else 2 * n

/-- What TOKWAIT counts in `n` issue clocks of full rate: those of every core that waits for tokens (R135). Log 47 (DESIGN CHOICE). -/
def countTokwait (s : State) (n : Nat) (p : Part) : Part :=
  { p with tokwait := p.tokwait + ((s.cores.filter fun c =>
      p.sectors.contains (c.1 / 16) && decide (0 < tokensWanted s c.1) && c.2.claimedBy.isNone && !clocksStopped s c.1).map
        fun c => if halved s c.1 then n else 2 * n).sum }

/-- Time passes: the next entry of `pace`, else one issue clock. Log 4 (DESIGN CHOICE). -/
def tick (s : State) : State :=
  let n := s.pace.headD 1
  { s with
    now := s.now + 20 * n, pace := s.pace.tail
    parts := s.parts.map (countTokwait s n)
    groups := (stampReady s).groups.map fun g => { g with sr := { g.sr with clk2 := g.sr.clk2 + halfClocks s n g } }
    cores := s.cores.map fun x => (x.1, { x.2 with wakeIn := x.2.wakeIn.map fun k => k - if halved s x.1 then n else 2 * n }) }

-- the delivery of an instruction

/-- An attempt without lanes passes over words that are no instruction (R370). Log 31 (DEDUCED). -/
def passWords (g : Group) (ws : List W64) : Group :=
  let w := ws.headD 0
  let pc := g.pc + (if hasLiteral w then 16 else 8)
  if w.getLsbD 55 then newRun (countRetired g) pc
  else dropRun { countRetired g with pc := pc, win := (.none :: g.win).take 8, runPos := g.runPos + 1 } (g.runPos + 1)

/-- A stop that belongs to no decoded instruction, at the words that raise it: in an OPEN attempt the lanes left abort instead, and where
none is left the words have no effect (R370). Log 29 (DEDUCED), 31 (DEDUCED). -/
def bareStop (s : State) (g : Group) (ws : List W64) (st : Stop) : State :=
  if g.region.state ≠ .open then groupStop s g st
  else if g.region.liveLanes = 0 then s.setGroup (passWords g ws)
  else
    let s := handOrders s g g.region.gone
    let (s, g) := endAttempt s (abortLanes g.sr.clk2 .instr g g.region.liveLanes) g.region.rpc
    s.setGroup g

/-- The fetch stop of an instruction with a word that could not be fetched (R139, R149). Log 30 (DEDUCED). -/
def fetchStop (s : State) (g : Group) (ws : List W64) (x : FetchStop) : State :=
  if x.stopover && !(decide (g.region.state = .open)) then
    let (s, g) := enterStopover s g ⟨false, false, true⟩ true [x.addr.toNat / 65536]
    s.setGroup g
  else bareStop s g ws (stopAll g .fetch x.addr)

-- the reorder buffer (R156, R158 to R160, R163)

/-- The window and position as the next instruction to be delivered will find them: kinds of values, not the values. -/
def aheadOf (g : Group) : Group :=
  g.rob.foldl (fun g e =>
    match e.instr with
    | some i =>
      if iE i then { g with win := [], runPos := 0 } else { g with win := (zeroEntry i :: g.win).take 8, runPos := g.runPos + 1 }
    | none => g) g

/-- The physical registers an instruction's results need at delivery: one for each vector register it names as a renamed destination, one
for a mask register or EXM (R159). Log 88 (DEDUCED). -/
def needsV (i : Instr) : Nat := (iRenames i).length
def needsM (i : Instr) : Nat := if iMaskDst i then 1 else 0

/-- The physical mask registers that renamed results of a sub-core hold. -/
def heldMasks (s : State) (g : Group) : Nat := ((onSub s g.core g.sub).map fun x => (x.rob.map (·.mregs)).sum).sum

/-- A pool it needs a register of is empty: it is delivered in place (R160). -/
def poolEmpty (s : State) (g : Group) (i : Instr) : Bool :=
  (decide (0 < needsV i) && freeRegs s g.core g.sub == 0) || (decide (0 < needsM i) && decide (64 ≤ heldMasks s g))

/-- The entry a delivered instruction takes: its stop flag under the checks of R72, and its renamed registers, or its delivery in place
where a pool of the sub-core is empty (R160). Log 88 (DEDUCED). -/
def robEntry (s : State) (g : Group) (ws : List W64) : RobEnt :=
  match decodeWords ws with
  | .error _ => ⟨ws, none, true, 0, 0, false, none, []⟩
  | .ok (i, _) =>
    let ill := (issueStop s (aheadOf g) i).isSome
    let held := poolEmpty s g i
    ⟨ws, none, ill, if ill || held then 0 else needsV i, if ill || held then 0 else needsM i, held && !ill, none, []⟩

/-- Delivery stalls: the next instruction needs more registers than its pool holds, which is not empty (R156). -/
def renameStalls (s : State) (g : Group) : Bool :=
  match decodeWords (g.buf.take 2) with
  | .ok (i, _) =>
    !(issueStop s (aheadOf g) i).isSome && !poolEmpty s g i && decide (freeRegs s g.core g.sub < needsV i)
  | .error _ => false

/-- Room for another entry: 48 for a group, 96 for its sub-core (R156). -/
def robRoom (s : State) (g : Group) : Bool :=
  decide (g.rob.length < 48 ∧ ((onSub s g.core g.sub).map fun x => x.rob.length).sum < 96)

/-- The delivery of the next instruction of a run. The run's delivery ends with its last one, with GROW, whose rest is delivered later,
with one that fails its checks, or at a word that could not be fetched (R139, R156). -/
def deliverNext (s : State) (g : Group) : Group :=
  let stopped := fun (g : Group) (x : FetchStop) =>
    { g with rob := g.rob ++ [⟨g.buf, some x, false, 0, 0, false, none, []⟩], buf := [], bufStop := none, fetched := true, begun := true, delivering := false }
  match g.buf with
  | [] =>
    match g.bufStop with
    | some x => stopped g x
    | none => { g with fetched := false, delivering := false }
  | w :: ws =>
    match hasLiteral w, ws, g.bufStop with
    | true, [], some x => stopped g x
    | _, _, _ =>
      let n := if hasLiteral w then 2 else 1
      let e := robEntry s g ((w :: ws).take n)
      let g := { g with rob := g.rob ++ [e], buf := (w :: ws).drop n, bufRun := g.bufRun + 1, begun := true }
      if e.stop then { g with buf := [], bufStop := none, fetched := true, delivering := false }
      else if w.getLsbD 55 then { g with buf := [], bufStop := none, fetched := false, bufRun := 0, begun := false, delivering := false }
      else if (match e.instr with
          | some (.grow _ _) => true
          | _ => false) then { g with delivering := false }
      else g

/-- What a group has written or will write before entry `k` retires: scalar, common-room and vector registers. -/
def olderWrites (es : List RobEnt) : List (BitVec 6) × List (BitVec 4) × List VReg :=
  let is := es.filterMap RobEnt.instr
  (is.flatMap fun i => match iSd i with
      | some (.s n) => [n]
      | _ => [],
    is.flatMap fun i => match iSd i with
      | some (.c n) => [n]
      | _ => [],
    is.flatMap iVds)

/-- The uniform operands of an instruction. -/
def iUniforms (i : Instr) : List UOp := iUs i ++ (iOs i).filterMap fun x => match x.2 with
  | .u u => some u
  | _ => none

/-- An entry whose results arrive after it has retired. -/
def RobEnt.isAsync (e : RobEnt) : Bool := ((e.instr.map iTag).getD 0) != 0

/-- A group names a common-room register that it has written in this issue clock: its read comes in a later one (R35). -/
def cOwn (s : State) (g : Group) (i : Instr) : Bool :=
  match s.team? g.tid with
  | some t => (iUniforms i).any fun u => match u with
    | .c n => decide ((t.cLast[n.toNat]).1 = coreClock s g.core + 1) && (t.cPrev[n.toNat]).2.2.contains g.gid
    | _ => false
  | none => false

/-- The registers that pending tags are still to fill. -/
def awaited (g : Group) : List (BitVec 6) × List VReg :=
  let ts := g.tags.toList.filterMap id
  (ts.filterMap (·.sreg), ts.flatMap (·.regs))

/-- Whether an instruction behind `older` may read its operands now (R163): the tag it names is free, no destination of a pending tag or of an older
asynchronous producer is among them (an older instruction may wait for the tag), and for the common room nothing older writes it or orders the read. What older instructions write of
the other registers it takes from their results, which nothing changes later. Log 88 (DEDUCED). -/
def earlyOk (g : Group) (older : List RobEnt) (e : RobEnt) : Bool :=
  match e.instr with
  | none => false
  | some i =>
    let pend := olderWrites (older.filter RobEnt.isAsync)
    let due := awaited g
    let tc := iTC i
    e.early.isNone && !e.stop && older.all (fun o => !o.stop && o.fault.isNone && ((o.instr.map fun j => !iOpaque j && (tc == 0 || iTag j != tc))).getD false) &&
    (tc == 0 || ((g.tags[tc.toNat]?).join).isNone) && !iAtHead i &&
    (iVsrcs i).all (fun r => !pend.2.2.contains r && !due.2.contains r) &&
    (iUniforms i).all fun u => match u with
      | .s n => !pend.1.contains n && !due.1.contains n
      | .c n => !(olderWrites older).2.1.contains n && older.all fun o => ((o.instr.map fun j => !iOrders j)).getD false
      | _ => true

/-- The entries of a group that may read their operands ahead of their execution: the oldest once it has been found waiting. -/
def earlyReads (s : State) (g : Group) : List Nat :=
  (List.range g.rob.length).filter fun k =>
    (decide (0 < k) || g.waitFrom.isSome) && ((g.rob[k]?).map fun e => earlyOk g (g.rob.take k) e && !((e.instr.map (cOwn s g)).getD false)).getD false

/-- What it reads: the registers it names that no older instruction writes. -/
def earlyRead (s : State) (g : Group) (older : List RobEnt) (e : RobEnt) (t : Team) : EarlyRead :=
  let us := (e.instr.map iUniforms).getD []
  let w := olderWrites older
  ⟨us.filterMap (fun u => match u with
    | .s n => if w.1.contains n then none else some n
    | _ => none), ((e.instr.map iVsrcs).getD []).filter (fun r => !w.2.2.contains r), g.regs, roomC (coreClock s g.core) g.gid t,
    roomCp (coreClock s g.core) g.gid t⟩

/-- One of them does. -/
def readEarly (s : State) (g : Group) (k : Nat) : Group :=
  match s.team? g.tid with
  | some t =>
    { g with rob := g.rob.modify k fun e =>
        if earlyOk g (g.rob.take k) e then { e with early := some (earlyRead s g (g.rob.take k) e t) } else e }
  | none => g

/-- A load that has read its operands, all of them, may read memory before the older instructions, none of which accesses memory (their
opcodes lie below those of the memory instructions) or writes a mask (R163, R167). Log 88 (DEDUCED). -/
def aheadOk (g : Group) (older : List RobEnt) (e : RobEnt) : Bool :=
  match e.instr with
  | none => false
  | some i =>
    let w := olderWrites older
    e.early.isSome && e.got.isEmpty && !e.inPlace && decide (g.region.state ≠ .open) &&
    older.all (fun o => ((o.words.headD 0).extractLsb' 56 8).toNat < 0x80 && !((o.instr.map fun j => iMaskDst j || iOrders j || iOpaque j).getD true)) &&
    (iVsrcs i).all (fun r => !w.2.2.contains r) &&
    (iUniforms i).all fun u => match u with
      | .s n => !w.1.contains n
      | _ => true

/-- What such a load names, as its early operands give it. -/
def aheadRefs (s : State) (g : Group) (k : Nat) : Option (Bool × List Ref) :=
  match (g.rob[k]?).filter (aheadOk g (g.rob.take k)) with
  | some e => e.instr.bind (plainLoad s g (srcOf s { g with rob := [e] }))
  | none => none

/-- The entries of a group that may do so. -/
def aheadReads (s : State) (g : Group) : List Nat :=
  (List.range g.rob.length).filter fun k => ((aheadRefs s g k).map fun x => mayReadNow s g x.2).getD false

/-- One of them does. -/
def readMemAhead (s : State) (g : Group) (k : Nat) : State :=
  match aheadRefs s g k with
  | some (nt, rs) =>
    if mayReadNow s g rs then
      let (s, got) := readAhead s g nt rs
      s.modGroup g.gid fun g => { g with rob := g.rob.modify k fun e => { e with got := got } }
    else s
  | none => s

-- the execution of the oldest instruction

/-- R416: the group stops before it delivers another instruction; an attempt with no lane to abort is not stopped (R370). Log 29 (DEDUCED), 31 (DEDUCED). -/
def stepDue (g : Group) : Bool :=
  g.trap.stepen && !g.trap.inh && g.trap.armed && g.trap.stepped && !(decide (g.region.state = .open) && g.region.liveLanes == 0)

/-- A group's oldest unretired instruction, once nothing stops it before its execution: executed by the caller, or already dealt with.
Log 29 (DEDUCED). -/
def runHead (s : State) (g : Group) : State × Option Instr :=
  if stepDue g then (bareStop s g [] (stopAll g .step 0), none)
  else
    match g.rob with
    | [] => (s, none)
    | e :: _ =>
      match e.fault, decodeWords e.words with
      | some x, _ => (fetchStop s g e.words x, none)
      | none, .ok (i, _) => ({ s with cur := some g.gid }, some i)
      | none, .error d => (bareStop s g e.words (wordStop s g (e.words.headD 0) d), none)

/-- PREEMPT at readmission (R418); an OPEN attempt aborts first, as for STEP (R370, R416). Log 32 (DEDUCED). -/
def preemptStop (s : State) (g : Group) : State :=
  if g.region.state = .open then bareStop s g [] (stopAll g .preempt 0)
  else groupStop s { g with preempt := false } (stopAll g .preempt 0)

-- what may come next

/-- A step of the device by itself: a row of the operation table, the execution of a group's oldest instruction, the delivery of its next
one, an early read of operands or of memory, the unlocking of a commit's lines, the stop of R418; the fabric's PACKET_APPLY, RREQ_SEND, ACK_SEND and RETRANSMIT_TIMEOUT and CHANNEL_FENCE
stand apart. -/
inductive Act where
  | row (i : Instr)
  | run (gid : Nat)
  | deliver (gid : Nat)
  | early (gid k : Nat)
  | ahead (gid k : Nat)
  | unlock (part : Nat)
  | preempt (gid : Nat)
  | apply (sid : StreamId) (seq : Nat)
  | rreq (dev : Nat)
  | ack (sid : StreamId)
  | timeout (sid : StreamId) (seq : Nat)
  | fence (die ch : Nat)

def when' (b : Bool) (i : Instr) : List Act := if b then [.row i] else []

/-- The command of a group's oldest instruction comes after one that a higher sub-core has pushed in this issue clock: it is pushed in a later one
(R273). -/
def pushLate (s : State) (g : Group) : Bool :=
  let n := (((g.rob.head?.map fun (e : RobEnt) => e.words.headD 0).getD 0).extractLsb' 56 8).toNat
  decide (0xD0 ≤ n ∧ n ≤ 0xD6) && decide ((s.core g.core).pushAt.1 = coreClock s g.core + 1 ∧ g.sub < (s.core g.core).pushAt.2)

/-- No group of the core has waited longer for entries of the command queue that are there now (R273, R356). -/
def engineTurn (s : State) (g : Group) : Bool :=
  s.groups.all fun x => x.core != g.core || decide (x.wait ≠ .engine) || gateParked s x || decide (g.parkedAt ≤ x.parkedAt)

/-- A group's oldest instruction may execute now: it waits for nothing, or what GROW (R170) or a command (R273) waited for is there. -/
def mayRun (s : State) (g : Group) : Bool :=
  !g.rob.isEmpty && !g.exiting && !preemptDue g && (g.evict.isNone || mustFinish s g) && !clocksStopped s g.core && !(s.core g.core).fenced && !pushLate s g &&
  (match g.wait with
    | .none => !((headInstr g).map (cOwn s g)).getD false
    | .grow _ => growTurn s g
    | .engine => !gateParked s g && coreAwake s g.core && engineTurn s g
    | _ => false)

/-- A group's run is being delivered and the next instruction finds an entry (R156); where the fetched words end before the run does, the
rest is fetched once all of them have retired. Delivery stalls where a rename register is wanting. -/
def mayDeliver (s : State) (g : Group) : Bool :=
  g.delivering && (!g.buf.isEmpty || g.bufStop.isSome || g.rob.isEmpty) && !g.exiting && !preemptDue g && g.evict.isNone && !clocksStopped s g.core && !(s.core g.core).fenced && robRoom s g &&
  !renameStalls s g

def isParked (g : Group) : Bool :=
  match g.wait with
  | .parked _ _ _ => true
  | _ => false

/-- Lines that attempts have read and that their slices do not hold. -/
def unheldLines (s : State) (g : Group) : List Nat :=
  match s.part? g.part with
  | none => []
  | some p =>
    ((g.region.rlog.filter fun r => decide (routeTier r.route = some .hbm)).map fun r => r.sector / 4).eraseDups.filter
      fun l => (Tab.get none p.lines l).isNone

/-- Rows that every group may give, wherever it is. -/
def storeActs (g : Group) : List Act :=
  when' (!(openEntries g false).isEmpty) (.storeApply g.gid) ++ when' (!(openEntries g true).isEmpty) (.atomicHomeApply g.gid)

def groupActs (s : State) (g : Group) : List Act :=
  (if mayRun s g then [Act.run g.gid] else []) ++
  (if mayDeliver s g then [Act.deliver g.gid] else []) ++
  ((earlyReads s g).map fun k => Act.early g.gid k) ++
  ((aheadReads s g).map fun k => Act.ahead g.gid k) ++
  (if preemptDue g && !g.exiting then [Act.preempt g.gid] else []) ++
  storeActs g ++
  ((List.range (deliveries g).length).map fun k => Act.row (.sectorReturn g.gid k)) ++
  when' g.exiting (.groupEnd g.gid) ++
  when' (fetchTurn s g) (.runFetch g.gid) ++
  (match missedLine s g with
    | some x => [Act.row (.icacheFill g.core x.2)]
    | none => []) ++
  when' (groupReady s g && (delivers s g.core g.sub).isNone) (.runSelect g.core g.sub) ++
  (match g.wait with
    | .yielded t => when' (decide (t ≤ g.sr.clk2)) (.yieldExpire g.gid)
    | .retry => when' (!g.exiting) (.txRetry g.gid)
    | .grow _ => [.row (.growEvict g.core g.sub), .row (.growStarvationTimeout g.core g.sub)]
    | _ => []) ++
  when' (isParked g && ((headInstr g).map isSpecend).getD false && coreAwake s g.core) (.specTurn g.gid) ++
  when' (firstParked s g) (.queueHomeOp g.gid) ++
  when' (isParked g) (.parkRepoll g.gid) ++
  when' (g.evict.isNone && decide ((g.waitFrom.getD g.sr.clk2) + 2 ^ 31 ≤ g.sr.clk2)) (.watchdog g.gid) ++
  when' g.evict.isSome (.groupEviction g.gid) ++
  when' (g.evict.isSome && decide ((g.drainFrom.getD g.sr.clk2) + 4000 ≤ g.sr.clk2)) (.tagDrainTimeout g.gid) ++
  (unheldLines s g).map fun l => Act.row (.lineFill g.part l)

def savedActs (s : State) (x : Saved) : List Act :=
  storeActs x.g ++
  ((List.range (deliveries x.g).length).map fun k => Act.row (.lateSectorReturn x.g.gid k)) ++
  when' (((nextReturn s x.g.core).map fun y => y.g.gid) == some x.g.gid) (.groupReadmit x.g.gid)

def isMmaRun (c : CoreSt) : Bool :=
  match c.run with
  | some e => e.cmd.isMma
  | none => false

def coreActs (s : State) (x : Nat × CoreSt) : List Act :=
  let n := x.1
  let c := x.2
  when' (c.asleep && coreNotified s n) (.coreWake n) ++
  (c.copies.flatMap fun o =>
    when' (!o.finished) (.copyComplete n o.opId) ++ when' o.finished (.ringPublish n o.opId)) ++
  (c.gathers.map fun o => Act.row (if o.scatter then .scatterReadComplete n o.opId else .gatherComplete n o.opId)) ++
  when' (c.run.isNone && !c.cmds.isEmpty) (.matrixCommandStart n) ++
  when' (match c.cmds with
    | k :: _ => k.isMma && cmdPair k && c.run.isNone
    | [] => false) (.pairClaim n) ++
  when' (isMmaRun c) (.kblockComplete n) ++
  when' c.run.isSome (.matrixCommandComplete n) ++
  when' c.heat (.heatMarkClear n) ++
  when' c.droop (.droopMarkClear n)

/-- Gather batches whose updates may be applied. -/
def batchActs (s : State) (g : Group) : List Act := when' (applicable s g).isSome (.gatherBatchApply g.core g.gid)

def pairActs (s : State) (p : Part) (n : Nat) : List Act :=
  let q := qpair p n
  let turn := headPair s p == some n
  (match q.head with
    | some (.refused _ _) => when' (turn || !q.en || recordRoom s q) (.refusalPush p.id n)
    | some (.ready _) => when' turn (.launchEnterTable p.id n)
    | _ => []) ++
  when' (p.releases.any fun r => r.pair == n) (.releaseRecordPush p.id n) ++
  when' (!q.en && !q.frames.isEmpty) (.queuePairRelease p.id n)

def partActs (s : State) (p : Part) : List Act :=
  when' (headPair s p).isSome (.launchCheck p.id) ++
  (List.range 8).flatMap (pairActs s p) ++
  when' (!(readyLaunches s p).isEmpty) (.clusterPlace p.id) ++
  ((tableLaunches s p).flatMap fun l =>
    when' (l.waitSince.isSome && !l.starved) (.clusterWaitTimeout p.id l.lid) ++
    when' (decide (gridTeams l.grid ≤ l.results.length)) (.launchComplete l.lid)) ++
  when' (p.serialHolder.isNone && !p.serialQueue.isEmpty) (.serialTokenGrant p.id) ++
  ((List.range p.orders.length).map fun k => Act.row (.orderNumberRetire p.id k)) ++
  when' (mayRequest p) (.pageRequestSend p.id) ++
  (if p.txLocks.isEmpty then [] else [Act.unlock p.id]) ++
  when' p.atsBusy (.atsInvalidateComplete p.id) ++
  when' p.tlbiBusy (.tlbInvalidateDone p.id) ++
  when' p.flBusy (.flushDone p.id) ++
  ((List.range p.tasks.length).filter fun q => ((p.tasks[q]?.map (dispatches s p.id)).getD false)).map
    (fun q => Act.row (.taskDispatch p.id q)) ++
  (let t := noteDue s p.id
   let l := ((t.part? p.id).map (·.retired)).getD []
   ((List.range l.length).filter fun k => mayRelease t p.id k l).map fun k => Act.row (.descriptorRelease p.id k))

/-- The message of a die's ring moves on while a core of the die waits for tokens or has some to return. Log 47 (DESIGN CHOICE). -/
def dieActs (s : State) (n : Nat) : List Act :=
  let d := s.die n
  when' (s.cores.any fun x => x.1 / 48 == n && (decide (0 < x.2.giveBack) || x.2.tokWait.isSome)) (.tokenVisit n) ++
  when' (d.overSince.isSome && d.withdraw == 0) (.powerCapExceeded n) ++
  when' (d.minSince.isSome && !d.halved) (.clockHalve n) ++
  when' (d.halved && d.underSince.isSome) (.clockRestore n) ++
  when' (restoreDue s d) (.tokenRestore n) ++
  ((d.chErrs.map (·.1)).eraseDups.filter fun c => decide (16 ≤ recentErrors s d c) && !d.chFenced.contains c).map fun c => Act.fence n c

def fabricActs (s : State) : List Act :=
  let f := s.fabric
  ((List.range 40).filter fun n => (s.port n).queues.toList.any fun q => !q.isEmpty).map (fun n => Act.row (.egressSend n)) ++
  (f.dst.flatMap fun d =>
    ((d.held.filter fun h => mayApply s d h.2.1).map fun h => Act.apply d.sid h.1) ++ if d.oldest.isSome then [Act.ack d.sid] else []) ++
  ((f.rreqs.map (·.sid.peer.dev)).eraseDups.map fun d => Act.rreq d) ++
  f.src.flatMap fun x =>
    ((x.unacked.filter fun u => decide (u.2.2.1 + rtoNs s ≤ s.ns)).map fun u => Act.timeout x.sid u.1) ++
    if x.broken && f.reqs.any (fun r => decide (r.sid = x.sid)) then [Act.timeout x.sid 0] else []

/-- Every step the device may take by itself. Log 1 (DESIGN CHOICE). -/
def acts (s : State) : List Act :=
  s.groups.flatMap (groupActs s) ++ s.saved.flatMap (savedActs s) ++ s.ended.flatMap storeActs ++
  s.allGroups.flatMap (batchActs s) ++ s.cores.flatMap (coreActs s) ++ s.parts.flatMap (partActs s) ++
  ((s.teams.filter fun t => !t.ended && t.live.isEmpty && !teamBusy s t).map fun t => Act.row (.teamEnd t.tid)) ++
  ((List.range s.notes.length).map fun k => Act.row (.waiterNotify k)) ++
  (s.slots.flatMap fun x => when' x.2.closed (.keyEraseFinish x.1)) ++
  (List.range 8).flatMap (dieActs s) ++ fabricActs s

/-- One of them, which is open where there are several. Log 2 (DESIGN CHOICE). -/
def actAlone (s : State) : State × Option Instr :=
  let l := acts s
  let (k, s) := s.choose l.length
  match l[k]? with
  | none => (s, none)
  | some (.row i) => (s, some i)
  | some (.run gid) =>
    (match s.group? gid with
    | some g => runHead s g
    | none => (s, none))
  | some (.deliver gid) => (s.modGroup gid (deliverNext s), none)
  | some (.early gid k) => (s.modGroup gid fun g => readEarly s g k, none)
  | some (.ahead gid k) =>
    (match s.group? gid with
    | some g => (readMemAhead s g k, none)
    | none => (s, none))
  | some (.unlock part) => (unlockLines s part, none)
  | some (.preempt gid) =>
    (match s.group? gid with
    | some g => (preemptStop s g, none)
    | none => (s, none))
  | some (.apply sid seq) => (applyHeld s sid seq, none)
  | some (.rreq dev) => (sendRreq s dev, none)
  | some (.ack sid) => (ackDue s sid, none)
  | some (.timeout sid seq) => (timeoutPkt s sid seq, none)
  | some (.fence die ch) => (fenceChannel die ch false s, none)

/-- A row of the table that is a step of the device or of its surroundings, not an encoded instruction. -/
def Instr.isEvent (i : Instr) : Bool := (iHdr i).isNone

/-- What the next step does: what stands first in the agenda, else what the device does by itself. Log 1 (DESIGN CHOICE), 2 (DESIGN CHOICE). -/
def plan (s : State) : State × Option Instr :=
  let s := tick s
  match s.agenda with
  | some i :: t => if Instr.isEvent i then ({ s with agenda := t }, some i) else actAlone { s with agenda := t }
  | none :: t => actAlone { s with agenda := t }
  | [] => actAlone s

-- a word placed for the next step

/-- A launch whose image stands in the partition's highest HBM frame. Log 5 (DESIGN CHOICE). -/
def wordLaunch (p : Part) : Launch :=
  { blankLaunch p 0 [] [] with
    lid := 1, team := 1, clw := 1, clh := 1, grid := (1, 1, 1), budget := 128, growCeil := 128, scratch := 131072, accum := 4
    entry := codeWindow, imageBase := codeWindow, imageLen := 65536
    frames := [hbmFrame p (hbmFrames p - storeFrames p - 1)], imageKey := List.replicate 64 0
    sections := [⟨0, 65536, true, false, true⟩], nextCluster := 1, tstart := some 0, startTier := 3 }

/-- A device on which one group has been delivered the instruction of the words, with them at the start of its launch's image. Log 5 (DESIGN CHOICE). -/
def placeWords (s : State) (ws : List W64) : State :=
  let p : Part := { Part.create 0 [0] [0] (List.replicate 64 0) with table := [1] }
  let l := wordLaunch p
  let t := startTeam l 1 0 0 0 0 [1]
  let g := startGroup l t 1 0 0 0 0 s.now
  { s with
    dev := writeImage s.dev s.fabric.devid l.imageKey l.frames (Mem.writeList [] 0 (ws.flatMap fun w => natLe 8 w.toNat))
    parts := [p], launches := [l], teams := [t], groups := [{ g with
      rob := [⟨ws, none, false, 0, 0, false, none, []⟩], fetched := true, delivering := true
      bufRun := if (ws.headD 0).getLsbD 55 then 0 else 1, begun := !(ws.headD 0).getLsbD 55 }]
    saved := [], ended := [], savedTeams := [], cores := [], notes := [], agenda := [], cur := none }

/-- The words of an instruction numbered as the operation table numbers them: the first word, and its literal word. Log 5 (DESIGN CHOICE). -/
def tableWords (w : Nat) : List W64 :=
  let a := BitVec.ofNat 64 w
  if hasLiteral a then [a, BitVec.ofNat 64 (w / 2 ^ 64)] else [a]

end Sys2Proof.Machine
end

