-- ==== Sys2Proof/Machine/Step.lean ====
section
/-! DEFINITION. One step of the device. -/

namespace Sys2Proof.Machine

open Sys2Proof

/-- Time passes, and one row of the operation table is carried out, or what comes before the delivery of an instruction. Log 1 (DESIGN CHOICE), 87 (DESIGN CHOICE). -/
def step (s : State) : Host.Outcome State Fault Refusal :=
  match plan s with
  | (s, some i) => exec i s
  | (s, none) => .next s

/-- The state with an instruction placed where the next step takes its instruction from: the reorder buffer of a group, as its oldest entry,
on a device with nothing else to do, and the image at the group's program counter. Log 5 (DESIGN CHOICE). -/
def State.withFetchWord (s : State) (_nbits w : Nat) : State := placeWords s (tableWords w)

end Sys2Proof.Machine
end

