-- ==== Sys2Proof/Safety.lean ====
section
/-! DEFINITION. What claims speak of: the states a run reaches, a run that never stops, and the invariants of the model. -/

namespace Sys2Proof.Machine

open Sys2Proof

/-- States that steps lead to. -/
inductive Reach (s : State) : State → Prop where
  | here : Reach s s
  | on {t u : State} (h : Reach s t) (hs : step t = .next u) : Reach s u

/-- A run from a state never meets a fault or a refusal. -/
def Safe (s : State) : Prop := ∀ t, Reach s t → ∃ u, step t = .next u

/-- What is in force of the boot record (R99, R100): nothing without a record that verified; its fields legal; a tier above 0 only with
firmware whose digest matches; a record that was refused leaves tier 0. -/
def BootOk (b : Boot) : Prop :=
  (b.verified = false → b.tokens = 0 ∧ b.split = 0 ∧ b.fwLoaded = false ∧ b.tier = 0) ∧
  b.tokens ≤ 48 ∧ b.split ≤ 2 ∧ b.tier ≤ 3 ∧
  (b.fwLoaded = true → lowDigest b.fw = b.fwDigest.toNat) ∧
  (0 < b.tier → b.fwLoaded = true) ∧
  (b.bad = true → b.verified = false) ∧ (b.record = none → b.verified = false)

/-- The canonical form of both memories. -/
def MemoriesOk (s : State) : Prop := s.dev.wf = true ∧ s.host.wf = true

/-- The group an instruction acts on: the checks of R72 have passed, no OPEN attempt turns the instruction away (R370), the tags it
waits for (R39) have landed, and so have those that name a destination of an instruction delivered in place (R160). -/
def issuedGroup (i : Instr) (s : State) : Option Group :=
  match s.curGroup with
  | none => none
  | some g0 =>
    if issueStop s g0 i = none ∧ ¬(g0.region.state = .open ∧ iTxBreaks i = true) then (waitTags g0 [(iTC i).toNat, (iTag i).toNat]).filter fun g => !inPlaceHeld g i
    else none

/-- The instruction issues in `s`, and `g` is its group. -/
abbrev Issued (i : Instr) (s : State) (g : Group) : Prop := issuedGroup i s = some g

/-- Every byte of every memory, and every poison mark, reads in `t` as in `s`. -/
def SameMemory (s t : State) : Prop :=
  (∀ r a, homeRead t r a = homeRead s r a) ∧ (∀ r n, homePois t r n = homePois s r n)

/-- An instruction has retired: in `t` its group is `e` with RETIRED counted, at `pc` with the window `win`; every other group, and all
else of the state, is as in `s`. `e` is the group with the instruction's own effects. -/
def Moved (s : State) (e : Group) (pc : W64) (win : List WinEntry) (t : State) : Prop :=
  ∃ g' : Group, t = s.setGroup g' ∧ t.group? e.gid = some g' ∧ (∀ n, n ≠ e.gid → t.group? n = s.group? n) ∧
    g' = { e with
      sr := { e.sr with retired := e.sr.retired + 1 }
      trap := { e.trap with stepped := e.trap.armed || e.trap.stepped }
      pc := pc, win := win, runPos := g'.runPos, rob := g'.rob, buf := g'.buf, bufStop := g'.bufStop, fetched := g'.fetched
      bufRun := g'.bufRun, begun := g'.begun, delivering := g'.delivering, wait := .none, waitFrom := none, served := false
      codeServed := [], spoilt := false, pages := [], markOp := g'.markOp }

/-- An instruction has retired and the next word follows: the window gains its entry, or, after E, is empty (R43, R62, R65). -/
abbrev Retired (i : Instr) (s : State) (e : Group) (w : WinEntry) (t : State) : Prop :=
  Moved s e (e.pc + BitVec.ofNat 64 (8 * iWords i)) (if iE i then [] else (w :: e.win).take 8) t

end Sys2Proof.Machine
end

