-- ==== Sys2Proof/Certificates/Slice0/Obligations.lean ====
section
/-! DEFINITION. The statements about the model, in the order of OBLIGATIONS.json, with the formulas of the spec's rules they speak of. -/

open Sys2Proof Sys2Proof.Machine

-- encoding and the step

/-- Words that the spec writes out stand for the instructions it gives them for (R66, R174, R179, R182, R184, R190, R194, R260, R419). -/
def Obligations.DecodeWords : Prop :=
  decodeWords [0x1000838182000640#64] = .ok (.sadd ⟨false, 0⟩ (some (.s 3)) (.s 1) (.s 2) .n64 true, 1) ∧
  decodeWords [0x2040000089ABCDEF#64] = .ok (.sli ⟨false, 0⟩ none 0x89ABCDEF#32, 1) ∧
  decodeWords [0x210089C001234567#64] = .ok (.slih ⟨false, 0⟩ (some (.s 9)) (.win 0) 0x01234567#32, 1) ∧
  decodeWords [0x2300008000000008#64] = .ok (.wrsr ⟨false, 0⟩ .fpflags (.u (.s 0)), 1) ∧
  decodeWords [0x250000000000000A#64] = .ok (.twait ⟨false, 0⟩ 5#7, 1) ∧
  decodeWords [0x0980009F00000000#64] = .ok (.ret ⟨true, 0⟩ (.s 31), 1) ∧
  decodeWords [0x0480010000000A00#64] = .ok (.brd ⟨true, 0⟩ 1 false 10#32, 1) ∧
  decodeWords [0x9000008800000540#64] = .ok (.icinv ⟨false, 0⟩ (some ⟨.s 8, 0⟩) true, 1) ∧
  decodeWords [0x0C8000000000002A#64] = .ok (.trap ⟨true, 0⟩ 0x2A#16, 1) ∧
  decodeWords [0#64] = .error .ill ∧ decodeWords [0xFFFFFFFFFFFFFFFF#64] = .error .ill

/-- No bit of an encoding is dropped: the words of a well-formed instruction decode to it, whatever words follow. -/
def Obligations.DecodeOfEncode : Prop :=
  ∀ (i : Instr) (ws rest : List W64), i.wf = true → encode i = some ws → decodeWords (ws ++ rest) = .ok (i, ws.length)

/-- Each word has one meaning: what is decoded is well-formed, is no device step, takes one word or two, and encodes to the words it
was decoded from. -/
def Sys2Proof.Machine.Claims.EncodeOfDecode : Prop :=
  ∀ (w lit : W64) (i : Instr) (n : Nat), decodeWords [w, lit] = .ok (i, n) →
    i.wf = true ∧ Instr.isEvent i = false ∧ n = iWords i ∧ encode i = some ([w, lit].take n)

/-- R70: opcode 0 and the reserved opcodes are illegal, whatever the other bits. -/
def Sys2Proof.Machine.Claims.ReservedOpcodesIllegal : Prop :=
  ∀ w lit : W64,
    (let o := w.toNat / 2 ^ 56
     o = 0 ∨ o = 0x0F ∨ o = 0x27 ∨ o = 0x2F ∨ (0x46 ≤ o ∧ o ≤ 0x4F) ∨ (0x5A ≤ o ∧ o ≤ 0x5F) ∨ (0x68 ≤ o ∧ o ≤ 0x6F) ∨
     (0x77 ≤ o ∧ o ≤ 0x7F) ∨ (0x91 ≤ o ∧ o ≤ 0x9F) ∨ (0xA7 ≤ o ∧ o ≤ 0xAF) ∨ (0xBA ≤ o ∧ o ≤ 0xBF) ∨ (0xC6 ≤ o ∧ o ≤ 0xCF) ∨
     (0xD7 ≤ o ∧ o ≤ 0xDF) ∨ 0xE6 ≤ o) →
    decode w lit = .error .ill

/-- Each word has one meaning, and the words of reserved opcodes have none (R50, R66, R70). -/
def Obligations.EncodeOfDecode : Prop :=
  Claims.EncodeOfDecode ∧ Claims.ReservedOpcodesIllegal

/-- The device's next own step is the execution of the oldest instruction of group `g`, the one that entry `e` holds. -/
def Sys2Proof.Machine.RunsNext (s : State) (g : Group) (e : RobEnt) : Prop :=
  (tick s).agenda = [] ∧ (acts (tick s))[((tick s).choose (acts (tick s)).length).1]? = some (.run g.gid) ∧
  (tick s).group? g.gid = some g ∧ stepDue g = false ∧ g.rob.head? = some e ∧ e.fault = none

/-- A step runs the decoded instruction: time has passed, the group is the one that executes, and the step is `exec` of what the words of
the group's oldest delivered instruction stand for. Where several steps could come next, the open choice that took this one is counted. -/
def Sys2Proof.Machine.Claims.StepRunsDecoded : Prop :=
  ∀ (s : State) (g : Group) (e : RobEnt) (i : Instr) (n : Nat), RunsNext s g e → decodeWords e.words = .ok (i, n) →
    step s = exec i { ((tick s).choose (acts (tick s)).length).2 with cur := some g.gid }

/-- R61, R156: delivery takes the next instruction of the group's run into the reorder buffer, behind those delivered before: its word, and
its literal word where it has one; only the group's buffers change. -/
def Sys2Proof.Machine.Claims.StepDelivers : Prop :=
  ∀ (s : State) (g : Group) (w : W64) (ws : List W64), (tick s).agenda = [] →
    (acts (tick s))[((tick s).choose (acts (tick s)).length).1]? = some (.deliver g.gid) → (tick s).group? g.gid = some g →
    g.buf = w :: ws → (hasLiteral w = true → ws ≠ []) →
    ∃ (t : State) (g' : Group) (e : RobEnt), step s = .next t ∧ t.group? g.gid = some g' ∧ g'.rob = g.rob ++ [e] ∧
      e.words = (w :: ws).take (if hasLiteral w then 2 else 1) ∧ e.fault = none ∧
      (g'.buf = (w :: ws).drop (if hasLiteral w then 2 else 1) ∨ g'.buf = []) ∧
      g' = { g with
        rob := g'.rob, buf := g'.buf, bufStop := g'.bufStop, fetched := g'.fetched, bufRun := g'.bufRun, begun := g'.begun
        delivering := g'.delivering } ∧
      (∀ n, n ≠ g.gid → t.group? n = (tick s).group? n) ∧ SameMemory s t

/-- A device step that stands first in the agenda is what the next step carries out. -/
def Sys2Proof.Machine.Claims.StepRunsAgenda : Prop :=
  ∀ (s : State) (i : Instr) (rest : List (Option Instr)), s.agenda = some i :: rest → Instr.isEvent i = true →
    step s = exec i { tick s with agenda := rest }

/-- A step runs the decoded instruction of the oldest entry of a group, delivers the next one, or carries out the device step that stands first in the
agenda. Where the spec leaves it open, the model is as log entries 1, 2, 3 say. -/
def Obligations.StepRunsDecoded : Prop :=
  Claims.StepRunsDecoded ∧ Claims.StepDelivers ∧ Claims.StepRunsAgenda

/-- R63, R64, R72, R100, R409: a word that is no instruction stops its group with ILL (CAUSE bit 0) or ILLOP (bit 1), FAULTMASK being EXM
and XADDR 0; only ILL where its place in the run or the tier is illegal too. -/
def Sys2Proof.Machine.Claims.UndecodableWordStops : Prop :=
  ∀ (s : State) (g : Group) (e : RobEnt) (w : W64) (d : DecErr), RunsNext s g e → e.words.head? = some w →
    decodeWords e.words = .error d → g.region.state ≠ .open →
    let op := w.extractLsb' 56 8
    let t := ((tick s).choose (acts (tick s)).length).2
    step s = .next (groupStop t g
      ⟨(if d = .ill ∨ (op ∈ [0xE0#8, 0xE4#8] ∧ g.runPos ≠ 0) ∨ 23 < g.runPos ∨ (g.runPos = 23 ∧ w.getLsbD 55 = false) ∨
          (op ∈ [0xC0#8, 0xC3#8, 0xC4#8, 0xC5#8, 0xD0#8, 0xD1#8, 0xD2#8, 0xD3#8, 0xD4#8, 0xD5#8, 0xD6#8] ∧ tierOf t g ≤ 1)
        then 1 else 2), g.regs.exm, 0, false, none⟩)

/-- R31, R42, R44, R63, R64, R71, R72, R100: an encoded instruction that breaks a limit that depends on the state stops its group at issue,
before it reads anything: ILL for TXBEG or SPECBEG inside a run, for a run of more than 24 instructions and for an engine instruction at
tier 1, ILLOP for a register at or above the budget, a window reference without a value, and a tile at or above the team's count. -/
def Sys2Proof.Machine.Claims.IssueLimitsStop : Prop :=
  ∀ (i : Instr) (s : State) (g : Group) (l : Launch) (tm : Team), Instr.isEvent i = false → s.curGroup = some g → s.launch? g.lid = some l →
    s.team? g.tid = some tm → g.region.state ≠ .open →
    (i.wf = false ∨ (iBegins i = true ∧ g.runPos ≠ 0) ∨ (g.runPos = 23 ∧ iE i = false) ∨ (iEngine i = true ∧ l.startTier ≤ 1) →
      exec i s = .next (groupStop s g ⟨1, g.regs.exm, 0, false, none⟩)) ∧
    (i.wf = true ∧ ¬(iBegins i = true ∧ g.runPos ≠ 0) ∧ (g.runPos < 23 ∨ (g.runPos = 23 ∧ iE i = true)) ∧
        ¬(iEngine i = true ∧ l.startTier ≤ 1) ∧
        ((∃ r ∈ iVsrcs i ++ iVds i, g.sr.budget ≤ r.toNat) ∨ (∃ r ∈ iWins i, winOk g.win r = false) ∨ (∃ n ∈ iTiles i, tm.ntiles ≤ n)) →
      exec i s = .next (groupStop s g ⟨2, g.regs.exm, 0, false, none⟩))

/-- R39: an instruction whose consumed tag has a request unanswered waits; nothing of the state changes but the time its wait began. -/
def Sys2Proof.Machine.Claims.ConsumedTagWaits : Prop :=
  ∀ (i : Instr) (s : State) (g : Group) (x : TagSt), Instr.isEvent i = false → s.curGroup = some g → issueStop s g i = none →
    g.region.state ≠ .open → iTC i ≠ 0 → g.tags[(iTC i).toNat] = some x → x.await ≠ 0 →
    exec i s = .next (s.setGroup { g with waitFrom := some (g.waitFrom.getD g.sr.clk2) })

/-- R39, R42, R72, R409: what delivery does before an instruction acts: undecodable words and issue limits stop the group, a consumed tag makes it wait. Where the spec leaves it open, the model is as log entry 31 says. -/
def Obligations.DeliveryStops : Prop :=
  Claims.UndecodableWordStops ∧ Claims.IssueLimitsStop ∧ Claims.ConsumedTagWaits

-- stops, handlers, the return (R409 to R420)

/-- R410, R413, R414: a stop of a group with a handler whose handler is not running. CAUSE gains the causes; FAULTMASK, XADDR, XPC, XEXM,
RCNT, WV and the saved window are set; INH becomes 1, EXM all ones, and the handler is next with an empty window. Nothing else changes. -/
def Obligations.StopEntersHandler : Prop :=
  ∀ (s : State) (g : Group) (l : Launch) (h : Nat) (c : BitVec 16) (m : LMask) (a : W64) (lw : Bool),
    s.launch? g.lid = some l → l.handler = some h → g.trap.inh = false →
    groupStop s g ⟨c, m, a, lw, none⟩ = s.setGroup { g with
      sr := { g.sr with cause := g.sr.cause ||| c, faultmask := m }
      trap := { g.trap with
        xpc := g.pc &&& 0x007FFFFFFFFFFFF8, xexm := g.regs.exm, xaddr := a, wv := true, rcnt := g.runPos, saved := g.win
        inh := true, armed := false, stepped := false }
      regs := { g.regs with exm := 0xFFFFFFFFFFFFFFFF }
      pc := BitVec.ofNat 64 h, win := [], runPos := 0
      rob := [], buf := [], bufStop := none, fetched := false, bufRun := 0, begun := false, delivering := false, markOp := none
      wait := .none, waitFrom := none, served := false, codeServed := [], spoilt := false, pages := [], remOp := none }

/-- R413, R415: a stop of a group without a handler, or while its handler runs, kills its team: every group of the team is to end with
nothing left to deliver, groups of other teams keep everything, the team records the CAUSE of the first group killed, no command of the team
stays queued on the group's core, and no byte of memory changes. Where the spec leaves it open, the model is as log entry 37 says. -/
def Obligations.StopKillsTeam : Prop :=
  ∀ (s : State) (g : Group) (st : Stop) (tm : Team),
    s.group? g.gid = some g → s.team? g.tid = some tm → (handlerOf s g = none ∨ g.trap.inh = true) →
    (∀ x ∈ (groupStop s g st).groups, x.tid = g.tid →
      x.killed = true ∧ x.exiting = true ∧ x.rob = [] ∧ x.buf = [] ∧ x.delivering = false ∧ x.wait = .none) ∧
    (∀ x, x.tid ≠ g.tid → (x ∈ (groupStop s g st).groups ↔ x ∈ s.groups ∧ x.gid ≠ g.gid)) ∧
    ((groupStop s g st).team? g.tid).map (·.killCause) = some (some (tm.killCause.getD (g.sr.cause ||| st.causes))) ∧
    (∀ k ∈ ((groupStop s g st).core g.core).cmds, k.tid ≠ g.tid) ∧
    SameMemory s (groupStop s g st)

/-- R419: TRAP stops the group with SWTRAP (CAUSE bit 12) and TCODE = CODE, XPC being the address after it and RCNT 0; a group with a
handler enters it (R414). -/
def Obligations.TrapEntersHandler : Prop :=
  ∀ (h : Hdr) (code : BitVec 16) (s : State) (g : Group) (l : Launch) (a : Nat), Issued (.trap h code) s g →
    g.region.state ≠ .open → s.launch? g.lid = some l → l.handler = some a → g.trap.inh = false →
    ∃ g' : Group, exec (.trap h code) s = .next (s.setGroup g') ∧
      g' = { g with
        sr := { g.sr with cause := g.sr.cause ||| 0x1000, faultmask := g.regs.exm }
        trap := { g.trap with
          xpc := (g.pc + 8) &&& 0x007FFFFFFFFFFFF8, xexm := g.regs.exm, xaddr := 0, wv := true, rcnt := 0, saved := []
          tcode := code, inh := true, armed := false, stepped := false }
        regs := { g.regs with exm := 0xFFFFFFFFFFFFFFFF }
        pc := BitVec.ofNat 64 a, win := [], runPos := 0
        rob := [], buf := [], bufStop := none, fetched := false, bufRun := 0, begun := false, delivering := false, markOp := none
        wait := .none, waitFrom := none, served := false, codeServed := [], spoilt := false, pages := [], remOp := none }

/-- R420: RTE in a handler. EXM = XEXM; the interrupted run goes on at XPC with its window and count while WV is set, else a new run begins
there; WV and INH become 0; single-stepping is armed by STEPEN; CAUSE and FAULTMASK keep their values. -/
def Sys2Proof.Machine.Claims.ReturnFromHandler : Prop :=
  ∀ (h : Hdr) (s : State) (g : Group), Issued (.rte h) s g → g.trap.inh = true →
    exec (.rte h) s = .next (s.setGroup { g with
      sr := { g.sr with retired := g.sr.retired + 1 }
      regs := { g.regs with exm := g.trap.xexm }
      pc := g.trap.xpc
      win := if g.trap.wv then g.trap.saved else []
      runPos := if g.trap.wv then g.trap.rcnt else 0
      trap := { g.trap with wv := false, inh := false, saved := [], rcnt := 0, armed := g.trap.stepen, stepped := false }
      rob := [], buf := [], bufStop := none, fetched := false, bufRun := if g.trap.wv then g.trap.rcnt else 0, begun := false
      delivering := false, markOp := none, wait := .none, waitFrom := none, served := false, codeServed := [], spoilt := false, pages := [] })

/-- R420: RTE outside a handler stops the group with ILL. -/
def Sys2Proof.Machine.Claims.RteOutsideHandlerStops : Prop :=
  ∀ (h : Hdr) (s : State) (g : Group), Issued (.rte h) s g → g.region.state ≠ .open → g.trap.inh = false →
    exec (.rte h) s = .next (groupStop s g ⟨1, g.regs.exm, 0, false, none⟩)

/-- R420: RTE has format R with every field below bit 48 zero, no TA, no K, and E set; every other word of its opcode is illegal. -/
def Sys2Proof.Machine.Claims.RteWords : Prop :=
  ∀ (w : W64) (rest : List W64), w.extractLsb' 56 8 = 0x0D →
    decodeWords (w :: rest) = if w &&& 0x00F8FFFFFFFFFFFF = 0x0080000000000000 then .ok (.rte ⟨true, w.extractLsb' 48 3⟩, 1) else .error .ill

/-- R420: the words of RTE; RTE in a handler returns from it, with the saved run where WV says so, and changes nothing else but the count of retired
instructions; RTE outside one stops. -/
def Obligations.HandlerReturns : Prop :=
  Claims.ReturnFromHandler ∧ Claims.RteOutsideHandlerStops ∧ Claims.RteWords

/-- R370, R379: in an OPEN attempt the instructions that R370 lists abort every lane that has not committed, left or aborted, with INSTR
(TXSTATUS 4), and take no effect. Those lanes join PEND, and the attempt is over: the group waits to try again at the begin instruction. -/
def Sys2Proof.Machine.Claims.AttemptBreakers : Prop :=
  ∀ (i : Instr) (s : State) (g : Group), Instr.isEvent i = false → s.curGroup = some g → issueStop s g i = none →
    g.region.state = .open → iTxBreaks i = true → g.region.liveLanes ≠ 0 →
    ∃ (t : State) (g' : Group), exec i s = .next t ∧ t.group? g.gid = some g' ∧ SameMemory s t ∧
      g'.region.state = .wait ∧ g'.wait = .retry ∧ g'.pc = g.region.rpc ∧ g'.region.pend = g.region.pend ||| g.region.liveLanes ∧
      g'.region.rlog = [] ∧ g'.region.wlog = [] ∧
      (∀ l : Lane, g'.sr.txstatus[l.val] = if g.region.liveLanes.getLsbD l.val then 4 else g.sr.txstatus[l.val]) ∧
      g'.regs.s = g.regs.s ∧ g'.regs.v = g.regs.v ∧ g'.sr.cause = g.sr.cause ∧ g'.sr.retired = g.sr.retired

-- scalar instructions, special registers, masks (R173 to R186)

/-- A number clamped to the signed and to the unsigned 64-bit range. -/
def Sys2Proof.Machine.clampI (x : Int) : W64 := BitVec.ofInt 64 (max (-2 ^ 63) (min (2 ^ 63 - 1) x))
def Sys2Proof.Machine.clampN (x : Int) : W64 := BitVec.ofInt 64 (max 0 (min (2 ^ 64 - 1) x))

/-- The destination and the value that R174 to R177, R179 and R186 give a scalar instruction; `r` gives its 64-bit operands, `m` its mask
operand. -/
def Sys2Proof.Machine.scalarRule (r : UOp → W64) (m : MOp → LMask) : Instr → Option (Option SDst × W64)
  | .sadd _ d a b _ false => some (d, r a + r b)
  | .sadd _ d a b .i64 true => some (d, clampI ((r a).toInt + (r b).toInt))
  | .sadd _ d a b .n64 true => some (d, clampN ((r a).toNat + (r b).toNat))
  | .ssub _ d a b _ false => some (d, r a - r b)
  | .ssub _ d a b .i64 true => some (d, clampI ((r a).toInt - (r b).toInt))
  | .ssub _ d a b .n64 true => some (d, clampN ((r a).toNat - (r b).toNat))
  | .smul _ d a b _ false => some (d, r a * r b)
  | .smul _ d a b .i64 true => some (d, clampI ((r a).toInt * (r b).toInt))
  | .smul _ d a b .n64 true => some (d, clampN ((r a).toNat * (r b).toNat))
  | .smulh _ d a b .i64 => some (d, BitVec.ofInt 64 ((r a).toInt * (r b).toInt / 2 ^ 64))
  | .smulh _ d a b .n64 => some (d, BitVec.ofNat 64 ((r a).toNat * (r b).toNat / 2 ^ 64))
  | .sand _ d a b _ => some (d, r a &&& r b)
  | .sor _ d a b _ => some (d, r a ||| r b)
  | .sxor _ d a b _ => some (d, r a ^^^ r b)
  | .sshl _ d a b _ => some (d, r a <<< (r b).toNat)
  | .sshr _ d a b _ => some (d, r a >>> (r b).toNat)
  | .ssar _ d a b _ => some (d, (r a).sshiftRight (r b).toNat)
  | .smin _ d a b .i64 => some (d, if (r a).toInt ≤ (r b).toInt then r a else r b)
  | .smin _ d a b .n64 => some (d, if (r a).toNat ≤ (r b).toNat then r a else r b)
  | .smax _ d a b .i64 => some (d, if (r b).toInt ≤ (r a).toInt then r a else r b)
  | .smax _ d a b .n64 => some (d, if (r b).toNat ≤ (r a).toNat then r a else r b)
  | .scmp _ d a b t c =>
    let lt := match t with | .i64 => decide ((r a).toInt < (r b).toInt) | .n64 => decide ((r a).toNat < (r b).toNat)
    let eq := decide (r a = r b)
    some (d, if (match c with | .eq => eq | .ne => !eq | .lt => lt | .le => lt || eq | .gt => !lt && !eq | .ge => !lt) then 1 else 0)
  | .ssel _ d a b c _ => some (d, if r a = 0 then r c else r b)
  | .smov _ d a _ => some (d, r a)
  | .sli _ d imm => some (d, imm.signExtend 64)
  | .slih _ d a imm => some (d, (imm.setWidth 64 <<< 32) ||| (r a &&& 0xFFFFFFFF))
  | .mpopc _ d a => some (d, BitVec.ofNat 64 ((List.range 64).filter fun n => (m a).getLsbD n).length)
  | .mfirst _ d a => some (d, BitVec.ofNat 64 (((List.range 64).find? fun n => (m a).getLsbD n).getD 64))
  | .mrd _ d a => some (d, m a)
  | .mtest _ d a b => some (d, if (m a).getLsbD ((r b).toNat % 64) then 1 else 0)
  | _ => none

/-- R174 to R177, R179, R186: each scalar instruction, and each mask instruction with a scalar result, retires with the value its rule
gives, in its destination and in the window; nothing else changes but the count of retired instructions and the place of execution. -/
def Obligations.ScalarResults : Prop :=
  ∀ (i : Instr) (s : State) (g : Group) (d : Option SDst) (v : W64),
    scalarRule (fun u => (rdU (srcOf s g) u).1) (rdM g.regs) i = some (d, v) → Issued i s g → poisonU (srcOf s g) (iUs i) = false →
    ∃ t, exec i s = .next t ∧ Retired i (writeS s g d v).1 (writeS s g d v).2 (.scalar v false) t ∧ SameMemory s t

/-- R178: SBIT counts, reverses and extracts. The count of ones; the zeros above the highest one and below the lowest one (64 for 0); bit i
moved to bit 63 - i; and the field of n' bits from p, extended by its own top bit under .I64. -/
def Sys2Proof.Machine.Claims.ScalarBitOperations : Prop :=
  ∀ (h : Hdr) (d : Option SDst) (a : UOp) (op : BitOp UOp) (ty : STy) (s : State) (g : Group),
    Issued (.sbit h d a op ty) s g → poisonU (srcOf s g) (iUs (.sbit h d a op ty)) = false →
    ∃ (t : State) (v : W64), exec (.sbit h d a op ty) s = .next t ∧
      Retired (.sbit h d a op ty) (writeS s g d v).1 (writeS s g d v).2 (.scalar v false) t ∧ SameMemory s t ∧
      (let x := (rdU (srcOf s g) a).1
       match op with
       | .popc => v.toNat = ((List.range 64).filter fun n => x.getLsbD n).length
       | .clz => v.toNat ≤ 64 ∧ (∀ n, n < 64 → 64 ≤ n + v.toNat → x.getLsbD n = false) ∧ (v.toNat < 64 → x.getLsbD (63 - v.toNat) = true)
       | .ctz => v.toNat ≤ 64 ∧ (∀ n, n < v.toNat → x.getLsbD n = false) ∧ (v.toNat < 64 → x.getLsbD v.toNat = true)
       | .brev => ∀ n, n < 64 → v.getLsbD n = x.getLsbD (63 - n)
       | .bfx p n =>
         let p := (rdU (srcOf s g) p).1.toNat
         let n := min (rdU (srcOf s g) n).1.toNat (64 - p)
         (n = 0 → v = 0) ∧
         (0 < n → ∀ k, k < 64 → v.getLsbD k = if k < n then x.getLsbD (p + k) else (ty == .i64 && x.getLsbD (p + n - 1))))

/-- R178: a nonzero B or C beside .POPC, .CLZ, .CTZ and .BREV, and SUB values 5 to 63, are illegal. -/
def Sys2Proof.Machine.Claims.SbitWords : Prop :=
  ∀ (w : W64) (rest : List W64), w.extractLsb' 56 8 = 0x1F →
    5 ≤ (w.extractLsb' 0 6).toNat ∨ ((w.extractLsb' 0 6).toNat < 4 ∧ w.extractLsb' 16 16 ≠ 0) → decodeWords (w :: rest) = .error .ill

/-- R173: a scalar or mask instruction that consumes a uniform operand marked poisoned stops its group with POISON, FAULTMASK being EXM. -/
def Sys2Proof.Machine.Claims.PoisonedUniformStops : Prop :=
  ∀ (i : Instr) (s : State) (g : Group),
    ((scalarRule (fun u => (rdU (srcOf s g) u).1) (rdM g.regs) i).isSome ∨ (∃ h d a op ty, i = .sbit h d a op ty) ∨
      (∃ h d a, i = .mwr h d a) ∨ (∃ h n a, i = .wrsr h n (.u a) ∧ n ≠ .srseed) ∨ (∃ h c t o, i = .brc h c t o) ∨
      (∃ h a, i = .ret h a) ∨ (∃ h a, i = .jmpr h a)) →
    Issued i s g → g.region.state ≠ .open → poisonU (srcOf s g) (iUs i) = true →
    exec i s = .next (groupStop s g ⟨0x400, g.regs.exm, 0, false, none⟩)

/-- R33 to R35: where a scalar result goes. s0 discards it; another scalar register takes it, unmarked; a common-room register of the
group's team takes it, but for one that a higher-numbered sub-core has written in the same issue clock; no other group reads a write in the issue
clock it retires in; K = 1 writes nothing. Every other scalar and common-room register, every vector and mask register keeps its value. -/
def Sys2Proof.Machine.Claims.ScalarDestinations : Prop :=
  ∀ (s : State) (g : Group) (d : Option SDst) (v : W64),
    let s' := (writeS s g d v).1
    let g' := (writeS s g d v).2
    (∀ n, g'.regs.getS n = if d = some (.s n) ∧ n ≠ 0 then v else g.regs.getS n) ∧
    (∀ n, g'.regs.getSP n = if d = some (.s n) then false else g.regs.getSP n) ∧
    g' = { g with regs := { g.regs with s := g'.regs.s, sp := g'.regs.sp }, tags := g'.tags } ∧
    (∀ n, n ≠ g.tid → s'.team? n = s.team? n) ∧
    (∀ x, s.team? g.tid = some x → ∃ y, s'.team? g.tid = some y ∧ y = { x with c := y.c, cp := y.cp, cLast := y.cLast, cPrev := y.cPrev } ∧
      (∀ k, k ≠ g.gid → d.isSome = true → ∀ n : BitVec 4, (x.cPrev[n.toNat]).2.2.contains k = false ∨ (x.cLast[n.toNat]).1 ≠ coreClock s g.core + 1 →
        (roomC (coreClock s g.core) k y)[n.toNat] = (roomC (coreClock s g.core) k x)[n.toNat]) ∧
      ∀ n : BitVec 4,
        let stands := (x.cLast[n.toNat]).1 = coreClock s g.core + 1 ∧ g.sub < (x.cLast[n.toNat]).2
        y.c[n.toNat] = (if d = some (.c n) ∧ ¬stands then v else x.c[n.toNat]) ∧
        y.cp.getLsbD n.toNat = (if d = some (.c n) ∧ ¬stands then false else x.cp.getLsbD n.toNat) ∧
        y.cLast[n.toNat] = (if d = some (.c n) ∧ ¬stands then (coreClock s g.core + 1, g.sub) else x.cLast[n.toNat])) ∧
    s' = { s with teams := s'.teams }

/-- R186: MMOV, MLOG and MWR write all 64 bits of a mask register or of EXM, whatever EXM holds, and nothing else. -/
def Sys2Proof.Machine.Claims.MaskWrites : Prop :=
  ∀ (h : Hdr) (d a b : MOp) (tt : BitVec 4) (u : UOp) (s : State) (g : Group),
    (Issued (.mmov h d a) s g →
      ∃ t, exec (.mmov h d a) s = .next t ∧ Retired (.mmov h d a) s { g with regs := g.regs.setMOp d (rdM g.regs a) } .none t ∧
        SameMemory s t) ∧
    (Issued (.mlog h d a b tt) s g →
      ∃ t x, exec (.mlog h d a b tt) s = .next t ∧ Retired (.mlog h d a b tt) s { g with regs := g.regs.setMOp d x } .none t ∧
        SameMemory s t ∧
        ∀ n, n < 64 → x.getLsbD n =
          tt.getLsbD (2 * ((rdM g.regs a).getLsbD n).toNat + ((rdM g.regs b).getLsbD n).toNat)) ∧
    (Issued (.mwr h d u) s g → poisonU (srcOf s g) [u] = false →
      ∃ t, exec (.mwr h d u) s = .next t ∧ Retired (.mwr h d u) s { g with regs := g.regs.setMOp d (rdU (srcOf s g) u).1 } .none t ∧
        SameMemory s t)

/-- R45, R181, R411: RDSR reads a group-wide register into its scalar destination, reserved bits reading 0, and a per-lane one into the
lanes of EXM of its vector destination. -/
def Sys2Proof.Machine.Claims.ReadSpecialRegister : Prop :=
  ∀ (h : Hdr) (n : SReg) (s : State) (g : Group),
    (∀ d : Option SDst, n.perLane = false → Issued (.rdsr h (d.map .s) n) s g →
      ∃ t v, exec (.rdsr h (d.map .s) n) s = .next t ∧
        Retired (.rdsr h (d.map .s) n) (writeS s g d v).1 (writeS s g d v).2 (.scalar v false) t ∧ SameMemory s t ∧
        match n with
        | .fpflags => v.toNat = g.sr.fpflags.toNat
        | .amax => v.toNat = g.sr.amax.toNat
        | .budget => v.toNat = g.sr.budget % 256
        | .wmdepth => v.toNat = g.wmDepth % 128
        | .privbase => v = g.sr.privbase
        | .cause => v.toNat = g.sr.cause.toNat
        | .faultmask => v = g.sr.faultmask
        | .xpc => v = g.trap.xpc &&& 0x007FFFFFFFFFFFF8
        | .xexm => v = g.trap.xexm
        | .xaddr => v = g.trap.xaddr
        | .xctx =>
          v.getLsbD 63 = g.trap.stepen ∧ v.getLsbD 62 = g.trap.pn ∧ v.getLsbD 61 = g.trap.inh ∧ v.getLsbD 60 = g.trap.wv ∧
          (v.extractLsb' 55 5).toNat = g.trap.rcnt % 32 ∧ v.extractLsb' 48 7 = 0 ∧ v.extractLsb' 32 16 = g.trap.tcode ∧
          v.extractLsb' 0 32 = 0
        | .cycles => v.toNat = g.sr.clk2 / 2 % 2 ^ 64
        | .retired => v = g.sr.retired
        | .tier => v.toNat = s.boot.tier % 4
        | .partid => v.toNat = g.part % 32
        | .lane | .srseed | .txstatus => True) ∧
    (∀ d : Option VReg, n.perLane = true → Issued (.rdsr h (d.map .v) n) s g →
      let r := writeV32 g d g.regs.exm fun l =>
        match n with
        | .srseed => g.sr.srseed[l.val]
        | .txstatus => g.sr.txstatus[l.val]
        | _ => BitVec.ofNat 32 l.val
      ∃ t, exec (.rdsr h (d.map .v) n) s = .next t ∧ Retired (.rdsr h (d.map .v) n) s r.1 r.2 t ∧ SameMemory s t)

/-- R182, R412: WRSR. FPFLAGS takes 5 bits, AMAX 32; XPC takes bits 54:3 and clears WV; XEXM and XADDR take all; XCTX takes STEPEN and PN,
and WV only to 0; SRSEED takes each lane of EXM. Nothing else changes. -/
def Sys2Proof.Machine.Claims.WriteSpecialRegister : Prop :=
  ∀ (h : Hdr) (a : OOp) (u : UOp) (n : SReg) (s : State) (g : Group),
    (Issued (.wrsr h n (.u u)) s g → n ≠ .srseed → poisonU (srcOf s g) [u] = false →
      let v := (rdU (srcOf s g) u).1
      ∃ t e, exec (.wrsr h n (.u u)) s = .next t ∧ Retired (.wrsr h n (.u u)) s e .none t ∧ SameMemory s t ∧
        match n with
        | .fpflags => e = { g with sr := { g.sr with fpflags := v.setWidth 5 } }
        | .amax => e = { g with sr := { g.sr with amax := v.setWidth 32 } }
        | .xpc => e = { g with trap := { g.trap with xpc := v &&& 0x007FFFFFFFFFFFF8, wv := false } }
        | .xexm => e = { g with trap := { g.trap with xexm := v } }
        | .xaddr => e = { g with trap := { g.trap with xaddr := v } }
        | .xctx => e = { g with trap := { g.trap with
            stepen := v.getLsbD 63, pn := v.getLsbD 62, wv := g.trap.wv && v.getLsbD 60 } }
        | _ => False) ∧
    (Issued (.wrsr h .srseed a) s g → poisonLanes (srcOf s g) [(false, a)] g.regs.exm = 0 →
      ∃ t e, exec (.wrsr h .srseed a) s = .next t ∧ Retired (.wrsr h .srseed a) s e .none t ∧ SameMemory s t ∧
        e = { g with sr := { g.sr with srseed := e.sr.srseed } } ∧
        ∀ l : Lane, e.sr.srseed[l.val] = if g.regs.exm.getLsbD l.val then (rd32 (srcOf s g) a l).1 else g.sr.srseed[l.val])

/-- R45, R180 to R185, R412: RDSR and WRSR of every special register. Where the spec leaves it open, the model is as log entry 4 says. -/
def Obligations.SpecialRegisters : Prop :=
  Claims.ReadSpecialRegister ∧ Claims.WriteSpecialRegister

/-- R183, R184, R191: CLRC clears the causes it names, TWAIT completes with the deliveries of the tags it names landed and those tags
free, NOP does nothing. -/
def Sys2Proof.Machine.Claims.ClrcTwaitNop : Prop :=
  ∀ (h : Hdr) (bits : BitVec 16) (set : BitVec 7) (s : State) (g : Group),
    (Issued (.clrc h bits) s g →
      ∃ t, exec (.clrc h bits) s = .next t ∧
        Retired (.clrc h bits) s { g with sr := { g.sr with cause := g.sr.cause &&& ~~~bits } } .none t ∧ SameMemory s t) ∧
    (Issued (.twait h set) s g → (∀ n x, n < 7 → set.getLsbD n = true → g.tags[n + 1]? = some (some x) → x.await = 0) →
      ∃ t e, exec (.twait h set) s = .next t ∧ Retired (.twait h set) s e .none t ∧ SameMemory s t ∧
        e = { g with regs := e.regs, tags := e.tags } ∧
        ∀ n, n < 8 → e.tags[n]? = if n = 0 ∨ set.getLsbD (n - 1) = false then g.tags[n]? else some none) ∧
    (Issued (.twait h set) s g → (∃ n x, n < 7 ∧ set.getLsbD n = true ∧ g.tags[n + 1]? = some (some x) ∧ x.await ≠ 0) →
      exec (.twait h set) s = .next (s.setGroup { g with waitFrom := some (g.waitFrom.getD g.sr.clk2) })) ∧
    (Issued (.nop h) s g → ∃ t, exec (.nop h) s = .next t ∧ Retired (.nop h) s g .none t ∧ SameMemory s t)

/-- R185: GROW. Above the growth ceiling it stops with GROWDENY (CAUSE bit 11); at the budget in force it does nothing; above it, with
enough physical registers free, the new registers read zero; below it, once no pending tag names a register that goes, the budget falls. -/
def Sys2Proof.Machine.Claims.GrowSetsBudget : Prop :=
  ∀ (h : Hdr) (n : BitVec 8) (s : State) (g : Group) (l : Launch), Issued (.grow h n) s g → s.launch? g.lid = some l →
    (l.growCeil < n.toNat → g.region.state ≠ .open →
      exec (.grow h n) s = .next (groupStop s g ⟨0x800, g.regs.exm, 0, false, none⟩)) ∧
    (n.toNat ≤ l.growCeil → (g.sr.budget < n.toNat → n.toNat - g.sr.budget ≤ freeRegs s g.core g.sub) →
      (n.toNat < g.sr.budget → tagTop g ≤ n.toNat) →
      ∃ t g', exec (.grow h n) s = .next t ∧ t = s.setGroup g' ∧ SameMemory s t ∧ g'.sr = { g.sr with budget := n.toNat, retired := g.sr.retired + 1 } ∧
        g'.pc = g.pc + 8 ∧ g'.regs = { g.regs with v := g'.regs.v, vp := g'.regs.vp } ∧
        (∀ (r : VReg) (k : Lane), g'.regs.getV r k =
          if min n.toNat g.sr.budget ≤ r.toNat ∧ r.toNat < max n.toNat g.sr.budget then 0 else g.regs.getV r k)) ∧
    (n.toNat ≤ l.growCeil → g.sr.budget < n.toNat → freeRegs s g.core g.sub < n.toNat - g.sr.budget →
      exec (.grow h n) s = .next (s.setGroup { g with
        wait := .grow n.toNat
        waitFrom := match g.wait with
          | .grow _ => g.waitFrom
          | _ => some g.sr.clk2 }))

-- control transfer (R187 to R199)

/-- R187 to R190: BR, BRC, CALL, JMPR and RET. The target is PC + 8 × the sign-extended offset; BRC goes there where its test holds on the
signed operand, else to PC + 8; CALL writes PC + 8 to its link; JMPR and RET go to their operand. Neither EXM nor the waymarks change. -/
def Sys2Proof.Machine.Claims.UniformBranches : Prop :=
  ∀ (h : Hdr) (ofs : BitVec 32) (c : UOp) (bt : BrTest) (link : SDst) (s : State) (g : Group),
    let target := g.pc + 8 * ofs.signExtend 64
    (Issued (.br h ofs) s g → ∃ t, exec (.br h ofs) s = .next t ∧ Moved s g target [] t ∧ SameMemory s t) ∧
    (Issued (.brc h c bt ofs) s g → poisonU (srcOf s g) [c] = false →
      let v := (rdU (srcOf s g) c).1.toInt
      let holds := match bt with | .nz => v ≠ 0 | .z => v = 0 | .ltz => v < 0 | .gez => 0 ≤ v | .gtz => 0 < v | .lez => v ≤ 0
      ∃ t, exec (.brc h c bt ofs) s = .next t ∧ (holds → Moved s g target [] t) ∧ (¬holds → Moved s g (g.pc + 8) [] t) ∧ SameMemory s t) ∧
    (Issued (.call h link ofs) s g →
      ∃ t, exec (.call h link ofs) s = .next t ∧
        Moved (writeS s g (some link) (g.pc + 8)).1 (writeS s g (some link) (g.pc + 8)).2 target [] t ∧ SameMemory s t) ∧
    (∀ i, i = .ret h c ∨ i = .jmpr h c → Issued i s g → poisonU (srcOf s g) [c] = false →
      ((rdU (srcOf s g) c).1.toNat % 8 = 0 →
        ∃ t, exec i s = .next t ∧ Moved s g (rdU (srcOf s g) c).1 [] t ∧ SameMemory s t) ∧
      ((rdU (srcOf s g) c).1.toNat % 8 ≠ 0 → g.region.state ≠ .open →
        exec i s = .next (groupStop s g ⟨4, g.regs.exm, (rdU (srcOf s g) c).1, false, none⟩)))

/-- R192: YIELD goes on at PC + 8 and is not ready for 32 issue clocks (64 half clocks). -/
def Sys2Proof.Machine.Claims.YieldWaits : Prop :=
  ∀ (h : Hdr) (s : State) (g : Group), Issued (.yield h) s g →
    ∃ g', exec (.yield h) s = .next (s.setGroup g') ∧ SameMemory s (s.setGroup g') ∧ g'.pc = g.pc + 8 ∧ g'.win = [] ∧
      g'.wait = .yielded (g.sr.clk2 + 64) ∧ g'.sr = { g.sr with retired := g.sr.retired + 1 } ∧ g'.regs = g.regs ∧
      g'.tags = g.tags ∧ g'.wmHw = g.wmHw ∧ g'.wmDepth = g.wmDepth ∧ g'.stbuf = g.stbuf ∧ g'.region = g.region

/-- R169, R185, R188, R189, R191, R192: CLRC, TWAIT, NOP, YIELD, GROW and the branches that all lanes take together. Where the spec leaves it open, the model is as log entry 34 says. -/
def Obligations.ControlBasics : Prop :=
  Claims.ClrcTwaitNop ∧ Claims.GrowSetsBudget ∧ Claims.UniformBranches ∧ Claims.YieldWaits

/-- The store of the oldest waymark that hardware holds, where it holds 16 (R47). -/
def Sys2Proof.Machine.spillOf (s : State) (g : Group) : List BufOp :=
  if 16 ≤ g.wmHw.length then
    match g.wmHw.getLast?, (slotElem s g ⟨false, true, false⟩ (g.wmDepth - 16)).res.place with
    | some old, some (r, a) => [.store (markWrites (0, r, a) old) [] none false]
    | _, _ => []
  else []

/-- The state once the slots that a push touches are translated and the line of a spill has its owner (R145, R237). -/
def Sys2Proof.Machine.pushState (s : State) (g : Group) : State :=
  if 16 ≤ g.wmHw.length then
    match (slotElem s g ⟨false, true, false⟩ (g.wmDepth - 16)).res.place with
    | some (r, a) => recordOwner (touchSlotPages s g [g.wmDepth, g.wmDepth - 16]) g.part g.core r a
    | none => touchSlotPages s g [g.wmDepth]
  else touchSlotPages s g [g.wmDepth]

/-- A push can be made (R47, R193): there is room, the slots it touches pass their checks, and a spill has an entry of the store buffer. -/
def Sys2Proof.Machine.CanPush (s : State) (g : Group) : Prop :=
  g.wmDepth < 127 ∧
  judge s g ((slotElem s g ⟨false, true, false⟩ g.wmDepth) ::
    if 16 ≤ g.wmHw.length then [slotElem s g ⟨false, true, false⟩ (g.wmDepth - 16)] else []) ⟨false, true, false⟩ true = none ∧
  (16 ≤ g.wmHw.length → stbufFull s g = false)

/-- The lanes a divergent branch names. -/
def Sys2Proof.Machine.branchMask (g : Group) (c : BitVec 3) (neg : Bool) : LMask :=
  if neg then ~~~(g.regs.m[c.toNat]) else g.regs.m[c.toNat]

/-- R46, R47, R194, R197: BRD splits EXM and pushes a divergence waymark; LOOP pushes a loop waymark and goes on. The oldest held waymark
goes to its slot where 16 are held. -/
def Sys2Proof.Machine.Claims.WaymarkPushes : Prop :=
  ∀ (h : Hdr) (c : BitVec 3) (neg : Bool) (ofs : BitVec 32) (s : State) (g : Group), CanPush s g →
    let low : W64 := 0x007FFFFFFFFFFFFF
    let pushed := fun (w : Waymark) => { g with
      wmHw := (w :: g.wmHw).take 16, wmDepth := g.wmDepth + 1, stbuf := g.stbuf ++ spillOf s g }
    let go := g.regs.exm &&& branchMask g c neg
    (Issued (.brd h c neg ofs) s g →
      ∃ t, exec (.brd h c neg ofs) s = .next t ∧ SameMemory s t ∧
        Moved (pushState s g) { pushed ⟨false, false, (g.pc + 8) &&& low, g.regs.exm &&& ~~~go, g.regs.exm⟩ with regs := { g.regs with exm := go } }
          (g.pc + 8 * ofs.signExtend 64) [] t) ∧
    (Issued (.loop h ofs) s g →
      ∃ t, exec (.loop h ofs) s = .next t ∧ SameMemory s t ∧
        Retired (.loop h ofs) (pushState s g) (pushed ⟨true, false, (g.pc + 8 * ofs.signExtend 64) &&& low, 0, g.regs.exm⟩) .none t)

/-- R195, R196: JOIN with the top waymark held in hardware, once every older access is performed: it starts the other path, or pops (with another waymark held below, or none left on the
stack) and reconverges; on an empty stack it stops with ILL. -/
def Sys2Proof.Machine.Claims.JoinWaymark : Prop :=
  ∀ (h : Hdr) (s : State) (g : Group) (w : Waymark) (ws : List Waymark), Issued (.join h) s g →
    (g.wmDepth = 0 → g.region.state ≠ .open → exec (.join h) s = .next (groupStop s g ⟨1, g.regs.exm, 0, false, none⟩)) ∧
    (∀ s1 g1, performAll s g false = some (s1, g1) →
      g.wmHw = w :: ws → 0 < g.wmDepth → (g.region.state = .open → g.wmDepth ≠ g.region.rdepth) →
      (w.loop = false → w.phase = false → w.pmask ≠ 0 →
        ∃ t, exec (.join h) s = .next t ∧ SameMemory s1 t ∧
          Moved s1 { g1 with
            wmHw := { w with rpc := (g.pc + 8) &&& 0x007FFFFFFFFFFFFF, phase := true } :: ws
            regs := { g1.regs with exm := w.pmask } } w.rpc [] t) ∧
      ((w.loop = true ∨ w.phase = true ∨ w.pmask = 0) → (ws ≠ [] ∨ g.wmDepth = 1) →
        ∃ t, exec (.join h) s = .next t ∧ SameMemory s1 t ∧
          Moved s1 { g1 with wmHw := ws, wmDepth := g.wmDepth - 1, regs := { g1.regs with exm := w.fmask } }
            (if w.loop = false ∧ w.phase = true then w.rpc else g.pc + 8) [] t))

/-- R198: BRK with the innermost loop waymark held in hardware, `k` waymarks below the top: the lanes leave EXM and every divergence waymark
above the loop, and the loop gathers them; control goes to the loop's JOIN when no lane is left and the loop is on top. -/
def Sys2Proof.Machine.Claims.BreakLoop : Prop :=
  ∀ (h : Hdr) (c : BitVec 3) (neg : Bool) (ofs : BitVec 32) (s : State) (g : Group) (k : Nat) (w : Waymark),
    Issued (.brk h c neg ofs) s g → g.wmHw[k]? = some w → w.loop = true → (∀ j x, j < k → g.wmHw[j]? = some x → x.loop = false) →
    (g.region.state = .open → g.region.rdepth ≤ g.wmDepth - 1 - k) →
    let b := g.regs.exm &&& branchMask g c neg
    ∃ t ms, exec (.brk h c neg ofs) s = .next t ∧ SameMemory s t ∧
      Moved s { g with wmHw := ms, regs := { g.regs with exm := g.regs.exm &&& ~~~b } }
        (if g.regs.exm &&& ~~~b = 0 ∧ k = 0 then g.pc + 8 * ofs.signExtend 64 else g.pc + 8) [] t ∧
      ms.length = g.wmHw.length ∧
      ∀ j x, g.wmHw[j]? = some x → ms[j]? = some (
        if j < k then { x with pmask := x.pmask &&& ~~~b, fmask := x.fmask &&& ~~~b }
        else if j = k then { x with pmask := x.pmask ||| b } else x)

/-- R199: EXIT with nothing spilled ends the lanes of EXM: they leave every waymark; the group ends when the stack is empty or every waymark
is, else it goes on at PC + 8 with no lane. -/
def Sys2Proof.Machine.Claims.ExitLanes : Prop :=
  ∀ (h : Hdr) (s : State) (g : Group), Issued (.exit h) s g → g.wmDepth = g.wmHw.length →
    let ms := g.wmHw.map fun w => { w with pmask := w.pmask &&& ~~~g.regs.exm, fmask := w.fmask &&& ~~~g.regs.exm }
    ((∃ w ∈ ms, w.pmask ≠ 0 ∨ w.fmask ≠ 0) →
      ∃ t, exec (.exit h) s = .next t ∧ SameMemory s t ∧ Moved s { g with wmHw := ms, regs := { g.regs with exm := 0 } } (g.pc + 8) [] t) ∧
    ((∀ w ∈ ms, w.pmask = 0 ∧ w.fmask = 0) →
      ∃ t, exec (.exit h) s = .next t ∧ SameMemory s t ∧
        Moved s { g with wmHw := ms, regs := { g.regs with exm := 0 }, exiting := true } g.pc [] t)

/-- R187, R193 to R199: the instructions that push and pop waymarks and narrow EXM. Where the spec leaves it open, the model is as log entry 33 says. -/
def Obligations.Waymarks : Prop :=
  Claims.WaymarkPushes ∧ Claims.JoinWaymark ∧ Claims.BreakLoop ∧ Claims.ExitLanes

-- vector instructions (R200 to R231)

/-- A function of two or three operands at the width of a type, on their 64-bit carriers. -/
def Sys2Proof.Machine.lift2 (wide : Bool) (f : (w : Nat) → BitVec w → BitVec w → BitVec w) (a b : W64) : W64 :=
  if wide then f 64 a b else (f 32 (a.setWidth 32) (b.setWidth 32)).setWidth 64
def Sys2Proof.Machine.lift3 (wide : Bool) (f : (w : Nat) → BitVec w → BitVec w → BitVec w → BitVec w) (a b c : W64) : W64 :=
  if wide then f 64 a b c else (f 32 (a.setWidth 32) (b.setWidth 32) (c.setWidth 32)).setWidth 64

/-- X of R201: an element read as an integer of its type. -/
def Sys2Proof.Machine.elemInt (t : VTy) {w : Nat} (x : BitVec w) : Int := if t.signed then x.toInt else (x.toNat : Int)

/-- A number clamped to the range of a type at its width. -/
def Sys2Proof.Machine.clampTo (t : VTy) (w : Nat) (x : Int) : BitVec w :=
  BitVec.ofInt w (if t.signed then max (-2 ^ (w - 1)) (min (2 ^ (w - 1) - 1) x) else max 0 (min (2 ^ w - 1) x))

/-- Byte i of a 32-bit element. -/
def Sys2Proof.Machine.byteOf (x : W32) (i : Nat) : Nat := x.toNat / 256 ^ i % 256

/-- The destination, the mask select, the width and the value in each lane that R206, R207, R209 and R212 to R215 give a vector integer
instruction; `r` reads an operand in a lane at width 64 or 32, `act` gives the active lanes of a mask select, `m` the mask registers. -/
def Sys2Proof.Machine.vectorRule (r : Bool → OOp → Lane → W64) (act : BitVec 3 → LMask) (m : BitVec 3 → LMask) :
    Instr → Option (Option VReg × BitVec 3 × Bool × (Lane → W64))
  | .vadd _ d a b sel t sat => some (d, sel, t.wide, fun l =>
      lift2 t.wide (fun w x y => if sat then clampTo t w (elemInt t x + elemInt t y) else x + y) (r t.wide a l) (r t.wide b l))
  | .vsub _ d a b sel t sat => some (d, sel, t.wide, fun l =>
      lift2 t.wide (fun w x y => if sat then clampTo t w (elemInt t x - elemInt t y) else x - y) (r t.wide a l) (r t.wide b l))
  | .vmul _ d a b sel t sat => some (d, sel, t.wide, fun l =>
      lift2 t.wide (fun w x y => if sat then clampTo t w (elemInt t x * elemInt t y) else x * y) (r t.wide a l) (r t.wide b l))
  | .vmad _ d a b c sel t sat => some (d, sel, t.wide, fun l =>
      lift3 t.wide (fun w x y z => if sat then clampTo t w (elemInt t x * elemInt t y + elemInt t z) else x * y + z)
        (r t.wide a l) (r t.wide b l) (r t.wide c l))
  | .vmulh _ d a b sel t => some (d, sel, t.wide, fun l =>
      lift2 t.wide (fun w x y => BitVec.ofInt w (elemInt t x * elemInt t y / 2 ^ w)) (r t.wide a l) (r t.wide b l))
  | .vand _ d a b sel t => some (d, sel, t.wide, fun l => r t.wide a l &&& r t.wide b l)
  | .vor _ d a b sel t => some (d, sel, t.wide, fun l => r t.wide a l ||| r t.wide b l)
  | .vxor _ d a b sel t => some (d, sel, t.wide, fun l => r t.wide a l ^^^ r t.wide b l)
  | .vshl _ d a b sel t => some (d, sel, t.wide, fun l => lift2 t.wide (fun _ x y => x <<< y.toNat) (r t.wide a l) (r t.wide b l))
  | .vshr _ d a b sel t => some (d, sel, t.wide, fun l => lift2 t.wide (fun _ x y => x >>> y.toNat) (r t.wide a l) (r t.wide b l))
  | .vsar _ d a b sel t => some (d, sel, t.wide, fun l => lift2 t.wide (fun _ x y => x.sshiftRight y.toNat) (r t.wide a l) (r t.wide b l))
  | .vmin _ d a b sel t => some (d, sel, t.wide, fun l =>
      lift2 t.wide (fun _ x y => if elemInt t x ≤ elemInt t y then x else y) (r t.wide a l) (r t.wide b l))
  | .vmax _ d a b sel t => some (d, sel, t.wide, fun l =>
      lift2 t.wide (fun _ x y => if elemInt t y ≤ elemInt t x then x else y) (r t.wide a l) (r t.wide b l))
  | .vabsd _ d a b sel t => some (d, sel, t.wide, fun l =>
      lift2 t.wide (fun w x y => BitVec.ofNat w (elemInt t x - elemInt t y).natAbs) (r t.wide a l) (r t.wide b l))
  | .vsel _ d a b sel t k => some (d, sel, t.wide, fun l => if (m k).getLsbD l.val then r t.wide a l else r t.wide b l)
  | .vmov _ d a sel t => some (d, sel, t.wide, fun l => r t.wide a l)
  | .vli _ d imm => some (d, 0, false, fun _ => imm.setWidth 64)
  | .vidx _ d a b sel _ => some (d, sel, false, fun l =>
      lift2 false (fun w x y => x + y * BitVec.ofNat w ((List.range l.val).filter fun n => (act sel).getLsbD n).length)
        (r false a l) (r false b l))
  | .vpermb _ d a b sel => some (d, sel, false, fun l =>
      let x : W32 := (r false a l).setWidth 32
      let y : W32 := (r false b l).setWidth 32
      let c := fun i => if 128 ≤ byteOf y i then 0 else byteOf x (byteOf y i % 4)
      BitVec.ofNat 64 (c 0 + 256 * c 1 + 256 ^ 2 * c 2 + 256 ^ 3 * c 3))
  | _ => none

/-- R206, R207, R209, R212 to R215: each vector integer instruction retires with its rule's value in every active lane. -/
def Obligations.VectorIntegerResults : Prop :=
  ∀ (i : Instr) (s : State) (g : Group) (d : Option VReg) (sel : BitVec 3) (wide : Bool) (f : Lane → W64),
    vectorRule (fun w o l => (rdW w (srcOf s g) o l).1) (active g.regs) (fun k => g.regs.m[k.toNat]) i = some (d, sel, wide, f) →
    Issued i s g → poisonLanes (srcOf s g) (iOs i) (active g.regs sel) = 0 →
    ∃ t, exec i s = .next t ∧ SameMemory s t ∧
      Retired i s (writeVW wide g d (active g.regs sel) f).1 (writeVW wide g d (active g.regs sel) f).2 t

/-- R10, R32, R41, R200: where a vector result goes. The lanes of the mask take it, as a pair at width 64, unmarked; every other lane and
register keeps its value; K = 1 writes no register and leaves zero in the window in the lanes not written. -/
def Sys2Proof.Machine.Claims.VectorDestinations : Prop :=
  ∀ (wide : Bool) (g : Group) (n : VReg) (act : LMask) (f : Lane → W64), (wide = true → n.getLsbD 0 = false) →
    (let g' := (writeVW wide g (some n) act f).1
     (∀ (r : VReg) (l : Lane), g'.regs.getV r l =
        if act.getLsbD l.val = true ∧ r = n then (f l).setWidth 32
        else if act.getLsbD l.val = true ∧ wide = true ∧ r = n + 1 then (f l).extractLsb' 32 32
        else g.regs.getV r l) ∧
     (∀ (r : VReg) (l : Lane), g'.regs.getVP r l =
        if act.getLsbD l.val = true ∧ (r = n ∨ (wide = true ∧ r = n + 1)) then false else g.regs.getVP r l) ∧
     g' = { g with regs := { g.regs with v := g'.regs.v, vp := g'.regs.vp }, tags := g'.tags } ∧
     ∃ v lo hi, (writeVW wide g (some n) act f).2 = .vec v lo hi ∧
       ∀ l : Lane, v[l.val] = if wide then g'.regs.getV (n + 1) l ++ g'.regs.getV n l else (g'.regs.getV n l).setWidth 64) ∧
    (writeVW wide g none act f).1 = g ∧
    (∃ v, (writeVW wide g none act f).2 = .vec v 0 0 ∧
      ∀ l : Lane, v[l.val] = if act.getLsbD l.val then (if wide then f l else ((f l).setWidth 32).setWidth 64) else 0)

/-- R33 to R35, R41, R69, R200: where results go. -/
def Obligations.Destinations : Prop :=
  Claims.ScalarDestinations ∧ Claims.VectorDestinations

/-- R210: VBIT applies the operations of SBIT at the width of its type. -/
def Sys2Proof.Machine.Claims.VectorBitOperations : Prop :=
  ∀ (h : Hdr) (d : Option VReg) (a : OOp) (op : BitOp OOp) (sel : BitVec 3) (ty : VTy) (s : State) (g : Group),
    Issued (.vbit h d a op sel ty) s g → poisonLanes (srcOf s g) (iOs (.vbit h d a op sel ty)) (active g.regs sel) = 0 →
    ∃ (t : State) (f : Lane → W64), exec (.vbit h d a op sel ty) s = .next t ∧ SameMemory s t ∧
      Retired (.vbit h d a op sel ty) s (writeVW ty.wide g d (active g.regs sel) f).1 (writeVW ty.wide g d (active g.regs sel) f).2 t ∧
      ∀ l : Lane,
        let w := if ty.wide then 64 else 32
        let x := (rdW ty.wide (srcOf s g) a l).1
        let v := f l
        match op with
        | .popc => v.toNat = ((List.range w).filter fun n => x.getLsbD n).length
        | .clz => v.toNat ≤ w ∧ (∀ n, n < w → w ≤ n + v.toNat → x.getLsbD n = false) ∧ (v.toNat < w → x.getLsbD (w - 1 - v.toNat) = true)
        | .ctz => v.toNat ≤ w ∧ (∀ n, n < v.toNat → x.getLsbD n = false) ∧ (v.toNat < w → x.getLsbD v.toNat = true)
        | .brev => ∀ n, n < w → v.getLsbD n = x.getLsbD (w - 1 - n)
        | .bfx p n =>
          let p := (rdW ty.wide (srcOf s g) p l).1.toNat
          let n := min (rdW ty.wide (srcOf s g) n l).1.toNat (w - p)
          (n = 0 → v = 0) ∧ (0 < n → ∀ k, k < w → v.getLsbD k = if k < n then x.getLsbD (p + k) else (ty.signed && x.getLsbD (p + n - 1)))

/-- R178, R209: the words and the values of the scalar bit operations, and the values of the vector ones. -/
def Obligations.BitOperations : Prop :=
  Claims.ScalarBitOperations ∧ Claims.SbitWords ∧ Claims.VectorBitOperations

/-- R208, R211, R218: VCMP and VFCMP set the bits of the active lanes of their mask to the truth of their condition; VADDC adds with the carry
of its mask and leaves each active lane's carry there. The other bits of the mask keep their values. -/
def Sys2Proof.Machine.Claims.MaskResults : Prop :=
  ∀ (h : Hdr) (k : BitVec 3) (d : Option VReg) (a b : OOp) (sel : BitVec 3) (ty : VTy) (c : Cond) (fc : FCond) (s : State) (g : Group),
    let x := fun l => (rdW ty.wide (srcOf s g) a l).1
    let y := fun l => (rdW ty.wide (srcOf s g) b l).1
    let act := active g.regs sel
    (Issued (.vcmp h k a b sel ty c) s g → poisonLanes (srcOf s g) [(ty.wide, a), (ty.wide, b)] act = 0 →
      ∃ t e, exec (.vcmp h k a b sel ty c) s = .next t ∧ SameMemory s t ∧ Retired (.vcmp h k a b sel ty c) s e .none t ∧
        e = { g with regs := { g.regs with m := e.regs.m } } ∧ (∀ n : BitVec 3, n ≠ k → e.regs.m[n.toNat] = g.regs.m[n.toNat]) ∧
        ∀ l : Lane, (e.regs.m[k.toNat]).getLsbD l.val =
          if act.getLsbD l.val then
            (let p := if ty.wide then elemInt ty (x l) else elemInt ty ((x l).setWidth 32)
             let q := if ty.wide then elemInt ty (y l) else elemInt ty ((y l).setWidth 32)
             match c with
             | .eq => decide (p = q) | .ne => decide (p ≠ q) | .lt => decide (p < q) | .le => decide (p ≤ q)
             | .gt => decide (p > q) | .ge => decide (p ≥ q))
          else (g.regs.m[k.toNat]).getLsbD l.val) ∧
    (Issued (.vfcmp h k a b sel fc) s g → poisonLanes (srcOf s g) [(false, a), (false, b)] act = 0 →
      ∃ t e, exec (.vfcmp h k a b sel fc) s = .next t ∧ SameMemory s t ∧ Retired (.vfcmp h k a b sel fc) s e .none t ∧
        e = { g with regs := { g.regs with m := e.regs.m } } ∧ (∀ n : BitVec 3, n ≠ k → e.regs.m[n.toNat] = g.regs.m[n.toNat]) ∧
        ∀ l : Lane, (e.regs.m[k.toNat]).getLsbD l.val =
          if act.getLsbD l.val then fCond fc (rd32 (srcOf s g) a l).1 (rd32 (srcOf s g) b l).1
          else (g.regs.m[k.toNat]).getLsbD l.val) ∧
    (Issued (.vaddc h d a b sel ty k) s g → poisonLanes (srcOf s g) [(ty.wide, a), (ty.wide, b)] act = 0 →
      let w := if ty.wide then 64 else 32
      let sum := fun l : Lane => (x l).toNat + (y l).toNat + ((g.regs.m[k.toNat]).getLsbD l.val).toNat
      let r := writeVW ty.wide g d act fun l => BitVec.ofNat 64 (sum l % 2 ^ w)
      ∃ t e, exec (.vaddc h d a b sel ty k) s = .next t ∧ SameMemory s t ∧ Retired (.vaddc h d a b sel ty k) s e r.2 t ∧
        e = { r.1 with regs := { r.1.regs with m := e.regs.m } } ∧ (∀ n : BitVec 3, n ≠ k → e.regs.m[n.toNat] = g.regs.m[n.toNat]) ∧
        ∀ l : Lane, (e.regs.m[k.toNat]).getLsbD l.val =
          if act.getLsbD l.val then decide (2 ^ w ≤ sum l) else (g.regs.m[k.toNat]).getLsbD l.val)

/-- R186, R213 to R215, R218: instructions that write masks. -/
def Obligations.MaskInstructions : Prop :=
  Claims.MaskWrites ∧ Claims.MaskResults

/-- The value and the flags in each lane of a floating-point instruction (R216 to R222), from the operations on FP32 data. -/
def Sys2Proof.Machine.floatRule (r : Bool → OOp → Lane → W64) : Instr → Option (Option VReg × BitVec 3 × Bool × (Lane → W64 × BitVec 5))
  | .vfadd _ d a b sel rm => some (d, sel, false, fun l => one (fAdd (rndOf rm) (v a l) (v b l)))
  | .vfsub _ d a b sel rm => some (d, sel, false, fun l => one (fAdd (rndOf rm) (v a l) (v b l ^^^ 0x80000000)))
  | .vfmul _ d a b sel rm => some (d, sel, false, fun l => one (fMul (rndOf rm) (v a l) (v b l)))
  | .vfma _ d a b c sel rm => some (d, sel, false, fun l => one (fFma (rndOf rm) (v a l) (v b l) (v c l)))
  | .vfmin _ d a b sel => some (d, sel, false, fun l => one (fMinMax false (v a l) (v b l), 0))
  | .vfmax _ d a b sel => some (d, sel, false, fun l => one (fMinMax true (v a l) (v b l), 0))
  | .vfclass _ d a sel => some (d, sel, false, fun l => one (1#32 <<< fClass (v a l), 0))
  | .vfrnd _ d a sel rm => some (d, sel, false, fun l => one (fRound (rndOf rm) (v a l), 0))
  | .vfcvt _ d a sel (.toF t) rm => some (d, sel, false, fun l =>
      let x := r t.wide a l
      one (intToF (rndOf rm) (if t.wide then elemInt t x else elemInt t (x.setWidth 32))))
  | .vfcvt _ d a sel (.fromF t) rm => some (d, sel, t.wide, fun l =>
      let y := fToInt t (rndOf rm) (v a l)
      (if t.wide then BitVec.ofInt 64 y.1 else (BitVec.ofInt 32 y.1).setWidth 64, y.2))
  | .vrcp _ d a sel => some (d, sel, false, fun l => one (special .rcp (v a l)))
  | .vrsq _ d a sel => some (d, sel, false, fun l => one (special .rsq (v a l)))
  | .vsqrt _ d a sel => some (d, sel, false, fun l => one (special .sqrt (v a l)))
  | .vexp2 _ d a sel => some (d, sel, false, fun l => one (special .exp2 (v a l)))
  | .vlog2 _ d a sel => some (d, sel, false, fun l => one (special .log2 (v a l)))
  | .vsinpi _ d a sel => some (d, sel, false, fun l => one (special .sinpi (v a l)))
  | .vcospi _ d a sel => some (d, sel, false, fun l => one (special .cospi (v a l)))
  | .vtanh _ d a sel => some (d, sel, false, fun l => one (special .tanh (v a l)))
  | _ => none
where
  v (o : OOp) (l : Lane) : W32 := (r false o l).setWidth 32
  one (x : W32 × BitVec 5) : W64 × BitVec 5 := (x.1.setWidth 64, x.2)

/-- R204, R216 to R222: each floating-point instruction retires with its operation's value in every active lane, and ORs the flags of those
lanes, and nothing else, into FPFLAGS. -/
def Obligations.FloatResults : Prop :=
  ∀ (i : Instr) (s : State) (g : Group) (d : Option VReg) (sel : BitVec 3) (wide : Bool) (f : Lane → W64 × BitVec 5),
    floatRule (fun w o l => (rdW w (srcOf s g) o l).1) i = some (d, sel, wide, f) →
    Issued i s g → poisonLanes (srcOf s g) (iOs i) (active g.regs sel) = 0 →
    let r := writeVW wide g d (active g.regs sel) fun l => (f l).1
    ∃ t e, exec i s = .next t ∧ SameMemory s t ∧ Retired i s e r.2 t ∧
      e = { r.1 with sr := { r.1.sr with fpflags := e.sr.fpflags } } ∧
      ∀ n, n < 5 → e.sr.fpflags.getLsbD n =
        (g.sr.fpflags.getLsbD n || (List.finRange 64).any fun l => (active g.regs sel).getLsbD l.val && (f l).2.getLsbD n)

/-- The datum `r` is the exact value S × 2^-u rounded under a mode of R88: no finite datum lies on the allowed side nearer to it; under .RN none
is nearer on either side, of two as near the one with an even fraction is taken, and an infinity comes only from values at or beyond half a
step above the largest finite one. -/
def Sys2Proof.Machine.RoundedTo (m : RM) (u : Nat) (S : Int) (r : W32) : Prop :=
  (f32 r).isNan = false ∧
  (let k : Int := 2 ^ (u - 149)
   match m with
   | .rd => (f32 r = .inf true ∨ (f32 r).ord * k ≤ S) ∧ ∀ x neg v, f32 x = .fin neg v → (f32 x).int * k ≤ S → (f32 x).int ≤ (f32 r).ord
   | .ru => (f32 r = .inf false ∨ S ≤ (f32 r).ord * k) ∧ ∀ x neg v, f32 x = .fin neg v → S ≤ (f32 x).int * k → (f32 r).ord ≤ (f32 x).int
   | .rz => ((f32 r).ord * k).natAbs ≤ S.natAbs ∧ 0 ≤ (f32 r).ord * S ∧
      ∀ x neg v, f32 x = .fin neg v → ((f32 x).int * k).natAbs ≤ S.natAbs → (f32 x).int.natAbs ≤ (f32 r).ord.natAbs
   | .rn =>
     (∀ n, f32 r = .inf n → (2 ^ 25 - 1) * 2 ^ 252 * k ≤ (S.natAbs : Int) ∧ n = decide (S < 0)) ∧
     (∀ n v, f32 r = .fin n v → (S.natAbs : Int) < (2 ^ 25 - 1) * 2 ^ 252 * k ∧
       ∀ x neg y, f32 x = .fin neg y →
         ((f32 r).int * k - S).natAbs ≤ ((f32 x).int * k - S).natAbs ∧
         (((f32 r).int * k - S).natAbs = ((f32 x).int * k - S).natAbs → (f32 x).int ≠ (f32 r).int → r.getLsbD 0 = false)))

/-- R78, R88, R205, R216: the sum, the product and the fused multiply-add of finite data are their exact values rounded once. -/
def Obligations.ArithmeticRoundsOnce : Prop :=
  ∀ (m : RM) (a b c : W32) (na nb nc : Bool) (x y z : Nat), f32 a = .fin na x → f32 b = .fin nb y → f32 c = .fin nc z →
    RoundedTo m 149 ((f32 a).int + (f32 b).int) (fAdd (rndOf m) a b).1 ∧
    RoundedTo m 298 ((f32 a).int * (f32 b).int) (fMul (rndOf m) a b).1 ∧
    RoundedTo m 298 ((f32 a).int * (f32 b).int + (f32 c).int * 2 ^ 149) (fFma (rndOf m) a b c).1

/-- `k` is S × 2^-149 rounded to an integer under a mode of R88. -/
def Sys2Proof.Machine.IntegralOf (m : RM) (S k : Int) : Prop :=
  match m with
  | .rd => k * 2 ^ 149 ≤ S ∧ S < (k + 1) * 2 ^ 149
  | .ru => S ≤ k * 2 ^ 149 ∧ (k - 1) * 2 ^ 149 < S
  | .rz => (k * 2 ^ 149 - S).natAbs < 2 ^ 149 ∧ k.natAbs * 2 ^ 149 ≤ S.natAbs ∧ 0 ≤ k * S
  | .rn => 2 * (k * 2 ^ 149 - S).natAbs ≤ 2 ^ 149 ∧ (2 * (k * 2 ^ 149 - S).natAbs = 2 ^ 149 → k % 2 = 0)

/-- R220, R221: VFRND rounds to an integral datum under its mode and keeps the sign; a datum converted to an integer type is rounded under the
mode and clamped to the type, with the flags of R221; an integer converted to FP32 is rounded once under the mode. -/
def Sys2Proof.Machine.Claims.FloatConversions : Prop :=
  ∀ (a : W32) (t : VTy) (m : RM),
    ((f32 a).isNan = true → fRound (rndOf m) a = 0x7FC00000 ∧ fToInt t (rndOf m) a = (0, 1)) ∧
    (∀ n, f32 a = .inf n → fRound (rndOf m) a = a ∧ fToInt t (rndOf m) a = (if n then tyMin t else tyMax t, 1)) ∧
    (∀ n v, f32 a = .fin n v → ∃ k : Int, IntegralOf m (f32 a).int k ∧
      (∃ w, f32 (fRound (rndOf m) a) = .fin n w) ∧ (f32 (fRound (rndOf m) a)).int = k * 2 ^ 149 ∧
      fToInt t (rndOf m) a =
        if k < tyMin t then (tyMin t, 1) else if tyMax t < k then (tyMax t, 1) else (k, if k * 2 ^ 149 = (f32 a).int then 0 else 16)) ∧
    (∀ x : Int, -2 ^ 63 ≤ x → x < 2 ^ 64 →
      let r := intToF (rndOf m) x
      RoundedTo m 149 (x * 2 ^ 149) r.1 ∧ (x = 0 → r = (0, 0)) ∧ r.2 = if (f32 r.1).int = x * 2 ^ 149 then 0 else 16)

/-- R77, R217 to R221: the smaller and the larger of two data, conditions with a NaN, classes, and conversions to an integer type. -/
def Sys2Proof.Machine.Claims.FloatComparisons : Prop :=
  ∀ (a b : W32) (big : Bool) (c : FCond) (t : VTy) (m : RM),
    ((f32 a).isNan = true → (f32 b).isNan = true → fMinMax big a b = 0x7FC00000) ∧
    ((f32 a).isNan = true → (f32 b).isNan = false → fMinMax big a b = b ∧ fMinMax big b a = b) ∧
    ((f32 a).isNan = false → (f32 b).isNan = false →
      (fMinMax big a b = a ∨ fMinMax big a b = b) ∧
      (if big then (f32 a).ord ≤ (f32 (fMinMax big a b)).ord ∧ (f32 b).ord ≤ (f32 (fMinMax big a b)).ord
       else (f32 (fMinMax big a b)).ord ≤ (f32 a).ord ∧ (f32 (fMinMax big a b)).ord ≤ (f32 b).ord)) ∧
    fMinMax big 0x80000000 0 = (if big then 0 else 0x80000000) ∧ fMinMax big 0 0x80000000 = (if big then 0 else 0x80000000) ∧
    ((f32 a).isNan = true ∨ (f32 b).isNan = true → fCond c a b = (c == .ne || c == .un)) ∧
    ((f32 a).isNan = false → (f32 b).isNan = false → fCond c a b =
      (let x := (f32 a).ord; let y := (f32 b).ord
       match c with
       | .eq => decide (x = y) | .ne => decide (x ≠ y) | .lt => decide (x < y) | .le => decide (x ≤ y)
       | .gt => decide (x > y) | .ge => decide (x ≥ y) | .un => false | .or => true)) ∧
    fClass a ≤ 8 ∧ (fClass a = 8 ↔ (f32 a).isNan = true) ∧ (fClass a = 0 ↔ a = 0xFF800000) ∧ (fClass a = 7 ↔ a = 0x7F800000) ∧
    (fClass a = 3 ↔ a = 0x80000000) ∧ (fClass a = 4 ↔ a = 0) ∧
    (fClass a = 1 ↔ ∃ v, f32 a = .fin true v ∧ 2 ^ 23 ≤ v) ∧ (fClass a = 6 ↔ ∃ v, f32 a = .fin false v ∧ 2 ^ 23 ≤ v) ∧
    (fClass a = 2 ↔ ∃ v, f32 a = .fin true v ∧ 0 < v ∧ v < 2 ^ 23) ∧ (fClass a = 5 ↔ ∃ v, f32 a = .fin false v ∧ 0 < v ∧ v < 2 ^ 23) ∧
    (let r := fToInt t (rndOf m) a
     tyMin t ≤ r.1 ∧ r.1 ≤ tyMax t ∧ ((f32 a).isNan = true → r = (0, 1)) ∧
     (f32 a = .inf false → r = (tyMax t, 1)) ∧ (f32 a = .inf true → r = (tyMin t, 1)) ∧
     (r.2 = 0 → r.1 * 2 ^ 149 = (f32 a).int) ∧
     (r.2 = 16 → (r.1 * 2 ^ 149 - (f32 a).int).natAbs < 2 ^ 149 ∧
       (m = .rd → r.1 * 2 ^ 149 < (f32 a).int) ∧ (m = .ru → (f32 a).int < r.1 * 2 ^ 149) ∧
       (m = .rn → 2 * (r.1 * 2 ^ 149 - (f32 a).int).natAbs ≤ 2 ^ 149)))

/-- R222 to R224, R440: the results of the special functions that the spec fixes: special inputs with their flags, the exact results, the
saturations, the square root rounded to nearest, sin(πx) odd and cos(πx) even for every finite x. -/
def Sys2Proof.Machine.Claims.SpecialFunctionsFixed : Prop :=
  ∀ x : W32,
    ((f32 x).isNan = true → ∀ f, special f x = (0x7FC00000, 0)) ∧
    (special .rcp 0x7F800000 = (0, 0) ∧ special .rcp 0xFF800000 = (0x80000000, 0) ∧
      special .rcp 0 = (0x7F800000, 2) ∧ special .rcp 0x80000000 = (0xFF800000, 2)) ∧
    (special .rsq 0x7F800000 = (0, 0) ∧ special .rsq 0 = (0x7F800000, 2) ∧ special .rsq 0x80000000 = (0xFF800000, 2)) ∧
    (special .sqrt 0x7F800000 = (0x7F800000, 0) ∧ special .sqrt 0 = (0, 0) ∧ special .sqrt 0x80000000 = (0x80000000, 0)) ∧
    (special .exp2 0x7F800000 = (0x7F800000, 0) ∧ special .exp2 0xFF800000 = (0, 0) ∧ special .exp2 0 = (0x3F800000, 0) ∧
      special .exp2 0x80000000 = (0x3F800000, 0)) ∧
    (special .log2 0x7F800000 = (0x7F800000, 0) ∧ special .log2 0 = (0xFF800000, 2) ∧ special .log2 0x80000000 = (0xFF800000, 2)) ∧
    (special .sinpi 0 = (0, 0) ∧ special .sinpi 0x80000000 = (0x80000000, 0) ∧ special .cospi 0 = (0x3F800000, 0) ∧
      special .cospi 0x80000000 = (0x3F800000, 0) ∧ special .tanh 0 = (0, 0) ∧ special .tanh 0x80000000 = (0x80000000, 0)) ∧
    ((f32 x).isNeg = true → x ≠ 0x80000000 →
      special .rsq x = (0x7FC00000, 1) ∧ special .sqrt x = (0x7FC00000, 1) ∧ special .log2 x = (0x7FC00000, 1)) ∧
    (∀ n, f32 x = .inf n → special .sinpi x = (0x7FC00000, 1) ∧ special .cospi x = (0x7FC00000, 1) ∧
      special .tanh x = (if n then 0xBF800000 else 0x3F800000, 0)) ∧
    (∀ n m, f32 x = .fin n m →
      (0 < m → m ≤ 2 ^ 21 → special .rcp x = (if n then 0xFF800000 else 0x7F800000, 4)) ∧
      (2 ^ 21 < m → ∃ w, f32 (special .rcp x).1 = .fin n w) ∧
      (∀ j, 23 ≤ j → j ≤ 276 → m = 2 ^ j → f32 (special .rcp x).1 = .fin n (2 ^ (298 - j))) ∧
      (∀ j, n = false → m = 2 ^ (2 * j + 1) → f32 (special .rsq x).1 = .fin false (2 ^ (223 - j))) ∧
      (n = false → 0 < m → ∃ v, f32 (special .sqrt x).1 = .fin false v ∧
        (special .sqrt x).2 = (if v * v = m * 2 ^ 149 then 0 else 16) ∧
        ∀ y w, f32 y = .fin false w → w ≠ v →
          (v < w → 4 * m * 2 ^ 149 ≤ (v + w) * (v + w)) ∧ (w < v → (v + w) * (v + w) ≤ 4 * m * 2 ^ 149) ∧
          ((v + w) * (v + w) = 4 * m * 2 ^ 149 → (special .sqrt x).1.getLsbD 0 = false)) ∧
      (n = false → 128 * 2 ^ 149 ≤ m → special .exp2 x = (0x7F800000, 4)) ∧
      (n = true ∨ m < 128 * 2 ^ 149 → ∃ w, f32 (special .exp2 x).1 = .fin false w) ∧
      (∀ k : Int, -149 ≤ k → k ≤ 127 → (f32 x).int = k * 2 ^ 149 → f32 (special .exp2 x).1 = .fin false (2 ^ (k + 149).toNat)) ∧
      (∀ j : Nat, n = false → m = 2 ^ j → (f32 (special .log2 x).1).int = ((j : Int) - 149) * 2 ^ 149 ∧
        (j = 149 → (special .log2 x).1 = 0)) ∧
      (m % 2 ^ 149 = 0 → (special .sinpi x).1 = (if n then 0x80000000 else 0) ∧
        (special .cospi x).1 = if m / 2 ^ 149 % 2 = 0 then 0x3F800000 else 0xBF800000) ∧
      (m % 2 ^ 149 = 2 ^ 148 → (special .sinpi x).1 = (if n = decide (m / 2 ^ 149 % 2 = 1) then 0x3F800000 else 0xBF800000) ∧
        (special .cospi x).1 = 0) ∧
      (n = true → 151 * 2 ^ 149 ≤ m → special .exp2 x = (0, 0)) ∧
      (10 * 2 ^ 149 ≤ m → special .tanh x = (if n then 0xBF800000 else 0x3F800000, 0)) ∧
      (special .sinpi (x ^^^ 0x80000000)).1 = (special .sinpi x).1 ^^^ 0x80000000 ∧
      (special .cospi (x ^^^ 0x80000000)).1 = (special .cospi x).1)

/-- R217 to R224: float comparisons and classes, conversions to and from integers, and the results of special functions that are fixed. Where the spec leaves it open, the model is as log entry 26 says. -/
def Obligations.FloatFixed : Prop :=
  Claims.FloatConversions ∧ Claims.FloatComparisons ∧ Claims.SpecialFunctionsFixed

/-- The lanes whose results a cross-lane instruction writes, and for each the value and whether an element it consumes is marked
(R225 to R227, R231). -/
def Sys2Proof.Machine.crossRule (x : Src) (act : BitVec 3 → LMask) :
    Instr → Option (Option VReg × Bool × (Lane → Bool) × (Lane → W64) × (Lane → Bool))
  | .vshfl _ d a b sel ty f =>
    let src := fun l : Lane =>
      let k := (rd32 x b l).1.toNat
      laneOf (match f with | .idx => k | .xor => l.val ^^^ (k % 64) | .up => l.val + 64 - k % 64 | .down => l.val + k % 64)
    some (d, ty.wide, fun l => (act sel).getLsbD l.val, fun l => (rdW ty.wide x a (src l)).1,
      fun l => (rd32 x b l).2 || (rdW ty.wide x a (src l)).2)
  | .vbcast _ d a b sel ty =>
    let src := laneOf ((rdU x b).1.toNat % 64)
    some (d, ty.wide, fun l => (act sel).getLsbD l.val, fun _ => (rdW ty.wide x a src).1, fun _ => (rdU x b).2 || (rdW ty.wide x a src).2)
  | .vcomp _ d a sel ty =>
    let ls := (List.finRange 64).filter fun l => (act sel).getLsbD l.val
    let src := fun l : Lane => ls[l.val]?.getD (laneOf 0)
    some (d, ty.wide, fun l => decide (l.val < ls.length), fun l => (rdW ty.wide x a (src l)).1, fun l => (rdW ty.wide x a (src l)).2)
  | .vexpd _ d a sel ty =>
    let src := fun l : Lane => laneOf ((List.range l.val).filter fun n => (act sel).getLsbD n).length
    some (d, ty.wide, fun l => (act sel).getLsbD l.val, fun l => (rdW ty.wide x a (src l)).1, fun l => (rdW ty.wide x a (src l)).2)
  | _ => none

/-- R225 to R227, R231: VSHFL, VBCAST, VCOMP and VEXPD write, in the lanes their rule names, the elements of the lanes it names as sources, all read
before any is written. -/
def Obligations.CrossLaneMoves : Prop :=
  ∀ (i : Instr) (s : State) (g : Group) (d : Option VReg) (wide : Bool) (wr : Lane → Bool) (f : Lane → W64) (bad : Lane → Bool),
    crossRule (srcOf s g) (active g.regs) i = some (d, wide, wr, f, bad) → Issued i s g → (∀ l, wr l = true → bad l = false) →
    ∃ t, exec i s = .next t ∧ SameMemory s t ∧
      Retired i s (writeVW wide g d (maskOf wr) f).1 (writeVW wide g d (maskOf wr) f).2 t

/-- The tree of R98: the value at place `i` of a level, with the flags of the additions below it. -/
def Sys2Proof.Machine.treeAt (x : Nat → W32) : Nat → Nat → W32 × BitVec 5
  | 0, i => (x i, 0)
  | l + 1, i =>
    let a := treeAt x l (2 * i)
    let b := treeAt x l (2 * i + 1)
    let r := fAdd .rn a.1 b.1
    (r.1, r.2 ||| a.2 ||| b.2)

/-- R98, R230: the sum of VREDF.ADD is the fixed tree over 64 lane positions; VSCAN's operations and identities. -/
def Sys2Proof.Machine.Claims.SumsAndScans : Prop :=
  ∀ (xs : List W32) (a x : W32),
    (xs.length = 64 → treeSum xs = treeAt (fun i => xs.getD i 0) 6 0) ∧
    (scanStep .f32 .add a x).1 = (fAdd .rn a x).1 ∧ (scanStep .f32 .min a x).1 = fMinMax false a x ∧
    (scanStep .f32 .max a x).1 = fMinMax true a x ∧
    (∀ t : ScanTy, t ≠ .f32 → (scanStep t .add a x).1 = a + x) ∧
    (scanStep .i32 .min a x).1.toInt = min a.toInt x.toInt ∧ (scanStep .i32 .max a x).1.toInt = max a.toInt x.toInt ∧
    (scanStep .n32 .min a x).1.toNat = min a.toNat x.toNat ∧ (scanStep .n32 .max a x).1.toNat = max a.toNat x.toNat ∧
    scanIdent .f32 .add = 0x80000000 ∧ scanIdent .f32 .min = 0x7F800000 ∧ scanIdent .f32 .max = 0xFF800000 ∧
    scanIdent .i32 .add = 0 ∧ scanIdent .n32 .add = 0 ∧ (scanIdent .i32 .min).toInt = 2 ^ 31 - 1 ∧ (scanIdent .i32 .max).toInt = -2 ^ 31 ∧
    (scanIdent .n32 .min).toNat = 2 ^ 32 - 1 ∧ scanIdent .n32 .max = 0

/-- R228 to R230: VRED, VREDF and VSCAN over the active lanes, in ascending order. -/
def Sys2Proof.Machine.Claims.ReductionResults : Prop :=
  ∀ (h : Hdr) (sd : Option SDst) (vd : Option VReg) (a : OOp) (sel : BitVec 3) (ty : VTy) (op : RedOp) (st : ScanTy) (fop : FRedOp)
    (excl : Bool) (s : State) (g : Group),
    let act := lanesOf (active g.regs sel)
    (Issued (.vred h sd a sel ty op) s g → poisonLanes (srcOf s g) [(ty.wide, a)] (active g.regs sel) = 0 →
      let x := fun l => let e := (rdW ty.wide (srcOf s g) a l).1; if ty.wide then elemInt ty e else elemInt ty (e.setWidth 32)
      let ext := fun k : Int => BitVec.ofInt 64 k
      let ones : Int := if ty.signed then -1 else if ty.wide then 2 ^ 64 - 1 else 2 ^ 32 - 1
      let v : W64 := match op with
        | .add => ext (act.map x).sum
        | .min => ext ((act.map x).foldl min (tyMax ty))
        | .max => ext ((act.map x).foldl max (tyMin ty))
        | .and => (act.map fun l => ext (x l)).foldl (· &&& ·) (ext ones)
        | .or => (act.map fun l => ext (x l)).foldl (· ||| ·) 0
        | .xor => (act.map fun l => ext (x l)).foldl (· ^^^ ·) 0
      ∃ t, exec (.vred h sd a sel ty op) s = .next t ∧ SameMemory s t ∧
        Retired (.vred h sd a sel ty op) (writeS s g sd v).1 (writeS s g sd v).2 (.scalar v false) t) ∧
    (Issued (.vredf h sd a sel fop) s g → poisonLanes (srcOf s g) [(false, a)] (active g.regs sel) = 0 →
      let x := fun l => (rd32 (srcOf s g) a l).1
      ∃ t v fl, exec (.vredf h sd a sel fop) s = .next t ∧ SameMemory s t ∧
        (let w := writeS s g sd (v.setWidth 64)
         Retired (.vredf h sd a sel fop) w.1 { w.2 with sr := { w.2.sr with fpflags := w.2.sr.fpflags ||| fl } } (.scalar (v.setWidth 64) false) t) ∧
        (match fop with
         | .add =>
           let r := treeSum ((List.finRange 64).map fun l => if (active g.regs sel).getLsbD l.val then x l else 0x80000000)
           v = r.1 ∧ fl = r.2 &&& 21
         | _ =>
           fl = 0 ∧ (act = [] → v = if fop = .max then 0xFF800000 else 0x7F800000) ∧
           (act ≠ [] → (∀ l ∈ act, (f32 (x l)).isNan = true) → v = 0x7FC00000) ∧
           ((∃ l ∈ act, (f32 (x l)).isNan = false) → (f32 v).isNan = false ∧ (∃ l ∈ act, x l = v) ∧
             ∀ l ∈ act, (f32 (x l)).isNan = false → if fop = .max then f32Key (x l) ≤ f32Key v else f32Key v ≤ f32Key (x l)))) ∧
    (Issued (.vscan h vd a sel st fop excl) s g → poisonLanes (srcOf s g) [(false, a)] (active g.regs sel) = 0 →
      let x := fun l => (rd32 (srcOf s g) a l).1
      let before := fun l : Lane => act.filter fun k => decide (k < l) || (!excl && k == l)
      let r := writeVW false g vd (active g.regs sel) fun l =>
        (((before l).foldl (fun acc k => (scanStep st fop acc (x k)).1) (scanIdent st fop)).setWidth 64)
      ∃ t e, exec (.vscan h vd a sel st fop excl) s = .next t ∧ SameMemory s t ∧ Retired (.vscan h vd a sel st fop excl) s e r.2 t ∧
        e = { r.1 with sr := { r.1.sr with fpflags := e.sr.fpflags } } ∧
        (¬(st = .f32 ∧ fop = .add) → e.sr.fpflags = g.sr.fpflags))

/-- R98, R228 to R230: VRED, VREDF and VSCAN, and the sums they take. -/
def Obligations.Reductions : Prop :=
  Claims.SumsAndScans ∧ Claims.ReductionResults

/-- R203: a vector instruction that consumes an element marked poisoned in a lane it writes stops its group with POISON, FAULTMASK being the lanes
that did. -/
def Sys2Proof.Machine.Claims.PoisonedElementStops : Prop :=
  ∀ (i : Instr) (s : State) (g : Group) (sel : BitVec 3),
    ((vectorRule (fun w o l => (rdW w (srcOf s g) o l).1) (active g.regs) (fun k => g.regs.m[k.toNat]) i).map (·.2.1) = some sel ∨
      (floatRule (fun w o l => (rdW w (srcOf s g) o l).1) i).map (·.2.1) = some sel) →
    Issued i s g → g.region.state ≠ .open →
    let bad := poisonLanes (srcOf s g) (iOs i) (active g.regs sel)
    bad ≠ 0 → exec i s = .next (groupStop s g ⟨0x400, bad, 0, true, none⟩)

/-- R173, R203, R370: poisoned operands stop an instruction, and an instruction that an OPEN attempt cannot hold aborts the attempt. -/
def Obligations.InstructionStops : Prop :=
  Claims.PoisonedUniformStops ∧ Claims.PoisonedElementStops ∧ Claims.AttemptBreakers

-- memory instructions (R242 to R260)

/-- R58, R76, R79, R80, R83: what a load makes of an element. Integers are extended with zeros or with their sign; BF16 gains sixteen zero bits; FP16,
F8E4, F8E5 and F4 widen exactly, with the infinities and the canonical NaN of FP16; E8 code e is 2^(e - 127), and 0xFF is +infinity. -/
def Sys2Proof.Machine.Claims.WideningRule : Prop :=
  (∀ f x, (f, x) ∈ [(MFmt.n8, 8), (.n16, 16), (.n32, 32), (.n64, 64)] → ∀ v, v < 2 ^ x → widen f v = BitVec.ofNat 64 v) ∧
  (∀ v, v < 256 → widen .i8 v = BitVec.ofNat 64 (if v < 128 then v else 2 ^ 32 - 256 + v)) ∧
  (∀ v, v < 65536 → widen .bf16 v = BitVec.ofNat 64 (v * 65536)) ∧
  (∀ v, v < 256 → (widen .e8 v).toNat < 2 ^ 32 ∧
    f32 ((widen .e8 v).setWidth 32) = if v = 255 then .inf false else .fin false (2 ^ (v + 22))) ∧
  ∀ f m e u, (f, m, e, u) ∈ [(MFmt.f16, 10, 5, 125), (.f8e4, 3, 4, 140), (.f8e5, 2, 5, 133), (.f4, 1, 2, 148)] → ∀ v, v < 2 ^ (1 + m + e) →
    let frac := v % 2 ^ m
    let exp := v / 2 ^ m % 2 ^ e
    let neg := decide (v / 2 ^ (m + e) = 1)
    (widen f v).toNat < 2 ^ 32 ∧
    (f = .f16 → exp = 31 → widen f v = if frac = 0 then (if neg then 0xFF800000 else 0x7F800000) else 0x7FC00000) ∧
    (f ≠ .f16 ∨ exp < 31 →
      f32 ((widen f v).setWidth 32) = .fin neg (if exp = 0 then frac * 2 ^ u else (2 ^ m + frac) * 2 ^ (exp - 1 + u)))

/-- R84 to R89: what a store makes of an element. A finite FP32 value narrowed to FP16, BF16, F8E4, F8E5 or F4 becomes the neighbour toward zero or the one away
from zero that its rounding takes, where that does not exceed the largest finite value of the format; beyond it FP16 and BF16 give an infinity or that
value, by the mode, and the others that value with poison. E8 takes the power of two of the magnitude, and a negative value
poisons. I8 saturates, and the other integers keep their low bits. SRSEED steps as R89 gives, and its 24 upper bits decide under .SR. -/
def Sys2Proof.Machine.Claims.NarrowingRule : Prop :=
  (∀ (x : W64) (r : Rnd),
    narrow .n8 r x = (x.toNat % 2 ^ 8, false) ∧ narrow .n16 r x = (x.toNat % 2 ^ 16, false) ∧ narrow .n32 r x = (x.toNat % 2 ^ 32, false) ∧
    narrow .n64 r x = (x.toNat, false) ∧
    (let v := max (-128) (min 127 (x.setWidth 32).toInt)
     narrow .i8 r x = ((if v < 0 then v + 256 else v).toNat, false))) ∧
  (∀ x : W32,
    let a := if x = 0 then 1 else x.toNat
    let b := (a ^^^ a * 2 ^ 13) % 2 ^ 32
    let c := b ^^^ b / 2 ^ 17
    let d := (c ^^^ c * 2 ^ 5) % 2 ^ 32
    srStep x = (BitVec.ofNat 32 d, d / 2 ^ 8)) ∧
  (∀ (x : W64) (r : Rnd),
    let away := fun (n : Bool) (odd : Bool) (rem step : Nat) => match r with
      | .rn => decide (step < 2 * rem) || (decide (2 * rem = step) && odd)
      | .rz => false
      | .ru => !n && decide (0 < rem)
      | .rd => n && decide (0 < rem)
      | .sr g => decide (2 ^ 24 ≤ rem * 2 ^ 24 / step + g)
    (∀ f m q top nan, (f, m, q, top, nan) ∈ [(MFmt.f16, 10, 24, 2047 * 2 ^ 154, some 0x7E00), (.bf16, 7, 133, 255 * 2 ^ 269, some 0x7FC0),
        (.f8e4, 3, 9, 480 * 2 ^ 149, none), (.f8e5, 2, 16, 114688 * 2 ^ 149, none), (.f4, 1, 1, 6 * 2 ^ 149, none)] →
      let res := narrow f r x
      let is := fun y => f32 ((widen f res.1).setWidth 32) = y
      let src := f32 (x.setWidth 32)
      (src = .nan → res = (nan.getD 0, nan.isNone)) ∧
      (∀ n, src = .inf n → is (if nan.isSome then .inf n else .fin n top) ∧ res.2 = nan.isNone) ∧
      (∀ n v, src = .fin n v →
        let step := 2 ^ max (Nat.log2 v - m) (149 - q)
        let lo := v / step * step
        let up := away n (decide (v / step % 2 = 1)) (v % step) step
        let y := if up then lo + step else lo
        let inf := nan.isSome && match r with
          | .rn => true
          | .rz => false
          | .ru => !n
          | .rd => n
          | .sr _ => up
        (y ≤ top → is (.fin n y) ∧ res.2 = false) ∧
        (top < y → is (if inf then .inf n else .fin n top) ∧ res.2 = nan.isNone))) ∧
    (let src := f32 (x.setWidth 32)
     let res := narrow .e8 r x
     (src = .nan → res = (0, true)) ∧ (∀ n, src = .inf n → res = (0xFF, true)) ∧
     ∀ n v, src = .fin n v →
       let k := Nat.log2 v
       (v < 2 ^ 22 → res = (0, n && decide (0 < v))) ∧
       (2 ^ 22 ≤ v → res = ((k - 22) + (if away false (decide ((k - 22) % 2 = 1)) (v - 2 ^ k) (2 ^ k) then 1 else 0), n))))

/-- What an access of a lane's element comes to: how many bytes, its part (1 and 2 the words of a private 64-bit element), its address and
what its checks answer. -/
abbrev Sys2Proof.Machine.Place := Nat × Nat × W64 × XRes

/-- Which check of R244 an outcome comes from: alignment, translation, ownership, range locks, or none that fails. -/
def Sys2Proof.Machine.failedCheck : XRes → Nat
  | .fault .align => 2
  | .fault .coherence => 4
  | .fault .range => 5
  | .ok _ _ => 6
  | _ => 3

/-- The words of one element whose checks decide (R244): both where both pass or both wait for the host, else the one that fails first. -/
def Sys2Proof.Machine.deciding (x y : Place) : List Place :=
  let a := failedCheck x.2.2.2
  let b := failedCheck y.2.2.2
  if (a = 6 ∧ b = 6) ∨ (x.2.2.2 = .over ∧ y.2.2.2 = .over) then [x, y] else if a ≤ b then [x] else [y]

/-- The places of a private element (R48, R235, R254): `o` is its offset. -/
def Sys2Proof.Machine.privPlaces (s : State) (g : Group) (n : Nat) (need : Need) (l : Lane) (o : Nat) : List Place :=
  let a : W64 := BitVec.ofNat 64 (g.sr.privbase.toNat + o / 4 * 256 + 4 * l.val + o % 4)
  if ((s.launch? g.lid).map (·.priv)).getD 0 < o + n then [(n, 0, a, .fault .perm)]
  else if o % n ≠ 0 then [(n, 0, a, .fault .align)]
  else if n = 8 then deciding (4, 1, a, checkLane s g l.val a.toNat 4 need) (4, 2, a + 256, checkLane s g l.val (a + 256).toNat 4 need)
  else [(n, 0, a, checkLane s g l.val a.toNat n need)]

/-- The mask select, the format, whether the addresses are global and, lane by lane, the places that a vector load or store accesses (R56,
R243, R249 to R254). -/
def Sys2Proof.Machine.accessRule (x : Src) (s : State) (g : Group) : Instr → Option (BitVec 3 × MFmt × Bool × (Lane → List Place))
  | .vld _ _ _ a off sel f _ _ => some (sel, f, true, fun l => glob f ⟨true, false, false⟩ l ((rd64 x a l).1 + off.signExtend 64))
  | .vldIndexed _ _ _ a b c sel f _ _ => some (sel, f, true, fun l =>
      glob f ⟨true, false, false⟩ l ((rd64 x a l).1 + (rd32 x b l).1.signExtend 64 + c.signExtend 64))
  | .vldb _ _ _ a off sel f _ _ => some (sel, f, true, fun l =>
      glob f ⟨true, false, false⟩ l ((rdU x a).1 + off.signExtend 64 +
        BitVec.ofNat 64 (if f = .f4 then l.val / 2 else l.val * fmtBytes f)))
  | .vst _ _ a off sel f _ _ _ => some (sel, f, true, fun l => glob f ⟨false, true, false⟩ l ((rd64 x a l).1 + off.signExtend 64))
  | .vstAmax _ _ a off sel f _ _ _ => some (sel, f, true, fun l => glob f ⟨false, true, false⟩ l ((rd64 x a l).1 + off.signExtend 64))
  | .vstIndexed _ _ a b c sel f _ _ _ => some (sel, f, true, fun l =>
      glob f ⟨false, true, false⟩ l ((rd64 x a l).1 + (rd32 x b l).1.signExtend 64 + c.signExtend 64))
  | .vstAmaxIndexed _ _ a b c sel f _ _ _ => some (sel, f, true, fun l =>
      glob f ⟨false, true, false⟩ l ((rd64 x a l).1 + (rd32 x b l).1.signExtend 64 + c.signExtend 64))
  | .vlds _ _ _ a off sel f _ => some (sel, f, false, fun l => scr f ((rd32 x a l).1 + off.signExtend 32))
  | .vsts _ _ a off sel f _ _ => some (sel, f, false, fun l => scr f ((rd32 x a l).1 + off.signExtend 32))
  | .vldp _ _ _ a off sel f _ => some (sel, f, true, fun l =>
      privPlaces s g (fmtBytes f) ⟨true, false, false⟩ l ((rd32 x a l).1 + off.signExtend 32).toNat)
  | .vstp _ _ a off sel f _ _ => some (sel, f, true, fun l =>
      privPlaces s g (fmtBytes f) ⟨false, true, false⟩ l ((rd32 x a l).1 + off.signExtend 32).toNat)
  | _ => none
where
  glob (f : MFmt) (need : Need) (l : Lane) (ea : W64) : List Place :=
    [(fmtBytes f, 0, ea, checkLane s g l.val ea.toNat (fmtBytes f) need)]
  scr (f : MFmt) (ea : W32) : List Place := [(fmtBytes f, 0, ea.setWidth 64, checkScratch s g ea.toNat (fmtBytes f))]

/-- The state once an access of the active lanes has been translated (R145): its core's TLBs hold the pages of its global addresses. -/
def Sys2Proof.Machine.translated (s : State) (g : Group) (global : Bool) (act : LMask) (refs : Lane → List Place) : State :=
  if global then touchPages s g.part g.core ((lanesOf act).flatMap fun l => (refs l).map fun y => y.2.2.1.toNat) else s

/-- No copy of a line in the core's L1 or in the partition's slices holds bytes that its home does not. -/
def Sys2Proof.Machine.CleanCopies (s : State) (g : Group) : Prop :=
  (∀ x ∈ (s.core g.core).l1, x.dirty = 0) ∧ ∀ p, s.part? g.part = some p → ∀ x ∈ p.hostCopies, x.dirty = 0

/-- The tag and the destination of a vector load. -/
def Sys2Proof.Machine.loadHead : Instr → Option (BitVec 3 × VReg)
  | .vld _ ta d _ _ _ _ _ _ | .vldb _ ta d _ _ _ _ _ _ | .vldIndexed _ ta d _ _ _ _ _ _ _ => some (ta, d)
  | .vlds _ ta d _ _ _ _ _ | .vldp _ ta d _ _ _ _ _ => some (ta, d)
  | _ => none

/-- The register elements of a loaded element (R83, R93, R249): `raw` its bits, `pz` whether its sector is poisoned. A floating-point format
turns poison into the canonical NaN; any other marks the element. -/
def Sys2Proof.Machine.loadedElems (f : MFmt) (d : VReg) (l : Lane) (part raw : Nat) (pz : Bool) : List VElem :=
  let v : W64 := if pz = true ∧ fmtFloat f = true then 0x7FC00000 else widen f raw
  let m := pz && !fmtFloat f
  if f ≠ .n64 then [⟨d, l, v.setWidth 32, m⟩]
  else if part = 0 then [⟨d, l, v.setWidth 32, m⟩, ⟨d + 1, l, (v >>> 32).setWidth 32, m⟩]
  else [⟨if part = 1 then d else d + 1, l, v.setWidth 32, m⟩]

/-- The places that pass, with their bytes. -/
def Sys2Proof.Machine.placesOf (act : LMask) (refs : Lane → List Place) : List (Route × Nat × Nat) :=
  (lanesOf act).flatMap fun l => (refs l).filterMap fun y => y.2.2.2.place.map fun p => (p.1, p.2, y.1)

/-- The remote sectors among places, once each. -/
def Sys2Proof.Machine.farSectors (ps : List (Route × Nat × Nat)) : List (Route × Nat) :=
  ((ps.map fun p => (p.1, p.2.1 / 32)).eraseDups).filter fun x => isRemote x.1

/-- Nothing of the group is under way: no store or atomic is buffered, no remote write unacknowledged, no remote read or atomic unanswered. -/
def Sys2Proof.Machine.Quiet (s : State) (g : Group) : Prop := g.stbuf = [] ∧ g.remWr = [] ∧ ∀ q ∈ s.fabric.reqs, q.gid ≠ g.gid

/-- R38, R39, R93, R243 to R245, R249, R250, R253, R254: a vector load outside an attempt whose elements pass their checks, once the older
accesses that must come first are applied (`s1`, `g1`), no scratchpad it names is evicted and every stream to another device takes its request. It
retires, having allocated its tag with one delivery for each sector of this device and one request for each remote one. Where every sector
lies on this device behind no write-back mapping, no cached line is dirty and none has been read ahead (R163), those deliveries bring exactly its lanes' elements
as memory holds them, and no byte of memory changes. -/
def Sys2Proof.Machine.Claims.VectorLoads : Prop :=
  ∀ (i : Instr) (s s1 : State) (g g1 : Group) (ta : BitVec 3) (d : VReg) (sel : BitVec 3) (f : MFmt) (global : Bool) (refs : Lane → List Place),
    loadHead i = some (ta, d) → accessRule (srcOf s g) s g i = some (sel, f, global, refs) → Issued i s g → g.region.state ≠ .open →
    poisonLanes (srcOf s g) (iOs i) (active g.regs sel) = 0 → poisonU (srcOf s g) (iUs i) = false →
    (∀ p ∈ g.pages, p.2 = some .success) →
    (∀ l ∈ lanesOf (active g.regs sel), ∀ y ∈ refs l, ∃ r a, y.2.2.2 = .ok r a ∧ scratchAway s1 r = false) →
    let ps := placesOf (active g.regs sel) refs
    orderBefore (translated s g global (active g.regs sel) refs) g ps = some (s1, g1) → canRequest s1 g1 3 (farSectors ps) = true →
    ∃ t s2 ls, exec i s = .next t ∧
      Retired i s2 { g1 with
        tags := if ls = [] ∧ farSectors ps = [] then g1.tags
          else g1.tags.setIfInBounds ta.toNat
            (some ⟨if f = .n64 then [d, d + 1] else [d], none, active g.regs sel, (farSectors ps).length, ls, [], false, false⟩) } .async t ∧
      (CleanCopies s1 g1 → gotOf g = [] → (∀ p ∈ ps, isRemote p.1 = false ∧ writesBack p.1 = false) →
        s2 = { s1 with cores := s2.cores, parts := s2.parts, free := s2.free } ∧ SameMemory s1 t ∧
        (∀ x ∈ ls, ∃ es r sec, x = .vec es ∧ ∀ e ∈ es, ∃ y ∈ refs e.lane, ∃ a, y.2.2.2 = .ok r a ∧ a / 32 = sec) ∧
        (∀ e, (∃ es, Landing.vec es ∈ ls ∧ e ∈ es) ↔
          ∃ l ∈ lanesOf (active g.regs sel), ∃ y ∈ refs l, ∃ r a, y.2.2.2 = .ok r a ∧
            let b := leNat ((List.range y.1).map fun k => homeRead s1 r (a + k))
            e ∈ loadedElems f d l y.2.1 (if f = .f4 then b / 16 ^ (l.val % 2) % 16 else b) (homePois s1 r (a / 32))))

/-- R38, R249, R250, R253, R254: with nothing of the group under way, a vector load outside an attempt retires where its operands are unmarked and every
element of its active lanes passes its checks and lies on this device, in no evicted scratchpad. -/
def Sys2Proof.Machine.Claims.LoadsRetire : Prop :=
  ∀ (i : Instr) (s : State) (g : Group) (ta : BitVec 3) (d : VReg) (sel : BitVec 3) (f : MFmt) (global : Bool) (refs : Lane → List Place),
    loadHead i = some (ta, d) → accessRule (srcOf s g) s g i = some (sel, f, global, refs) → Issued i s g → g.region.state ≠ .open →
    poisonLanes (srcOf s g) (iOs i) (active g.regs sel) = 0 → poisonU (srcOf s g) (iUs i) = false → (∀ p ∈ g.pages, p.2 = some .success) →
    (∀ l ∈ lanesOf (active g.regs sel), ∀ y ∈ refs l, ∃ r a, y.2.2.2 = .ok r a ∧ isRemote r = false ∧ scratchAway s r = false) →
    Quiet s g → ∃ t s2 tags, exec i s = .next t ∧ Retired i s2 { g with tags := tags } .async t

/-- R38, R39, R58, R79 to R83, R93, R243 to R245, R249, R250, R253, R254: the vector loads retire, and what their tags bring. Where the spec leaves it open, the model is as log entries 12, 13, 15, 17, 88 say. -/
def Obligations.VectorLoads : Prop :=
  Claims.WideningRule ∧ Claims.VectorLoads ∧ Claims.LoadsRetire

/-- R255: SLD outside an attempt acts once for the group: its element, extended, is the one delivery of its tag; one behind a remote page is
requested. -/
def Sys2Proof.Machine.Claims.ScalarLoad : Prop :=
  ∀ (h : Hdr) (ta : BitVec 3) (d : BitVec 6) (a : UOp) (off : BitVec 16) (f : MFmt) (acq : Option Scope) (nt : Bool)
    (s s1 : State) (g g1 : Group) (r : Route) (pa : Nat),
    let i := Instr.sld h ta d a off f acq nt
    let n := if f = .n64 then 8 else if f = .n32 then 4 else if f = .n16 then 2 else 1
    let ea := ((rdU (srcOf s g) a).1 + off.signExtend 64).toNat
    Issued i s g → g.region.state ≠ .open → poisonU (srcOf s g) [a] = false → (∀ p ∈ g.pages, p.2 = some .success) →
    checkGlobal s g ea n ⟨true, false, false⟩ = .ok r pa → orderBefore (touchPage s g.part g.core ea) g [(r, pa, n)] = some (s1, g1) →
    (isRemote r = false → ∃ t s2 v p, exec i s = .next t ∧
      Retired i s2 { g1 with tags := g1.tags.setIfInBounds ta.toNat (some ⟨[], some d, 0, 0, [.scal d v p], [], false, false⟩) } .async t ∧
      (CleanCopies s1 g1 → gotOf g = [] → writesBack r = false →
        let b := leNat ((List.range n).map fun k => homeRead s1 r (pa + k))
        SameMemory s1 t ∧ p = homePois s1 r (pa / 32) ∧ v = if f = .i8 then (BitVec.ofNat 8 b).signExtend 64 else BitVec.ofNat 64 b)) ∧
    (isRemote r = true → canRequest s1 g1 3 [(r, pa / 32)] = true → ∃ t s2, exec i s = .next t ∧
      Retired i s2 { g1 with tags := g1.tags.setIfInBounds ta.toNat (some ⟨[], some d, 0, 1, [], [], false, false⟩) } .async t)

/-- The data, the rounding and the release of a vector store, and whether it updates AMAX. -/
def Sys2Proof.Machine.storeHead : Instr → Option (OOp × SRnd × Option Scope × Bool × Bool)
  | .vst _ d _ _ _ _ r rel nt | .vstIndexed _ d _ _ _ _ _ r rel nt => some (d, r, rel, nt, false)
  | .vstAmax _ d _ _ _ _ r rel nt | .vstAmaxIndexed _ d _ _ _ _ _ r rel nt => some (d, r, rel, nt, true)
  | .vsts _ d _ _ _ _ r rel => some (d, r, rel, false, false)
  | .vstp _ d _ _ _ _ r nt => some (d, r, none, nt, false)
  | _ => none

/-- A lane's generator after one step and its rounding (R57, R89). -/
def Sys2Proof.Machine.laneRound (r : SRnd) (seed : W32) : Rnd × W32 :=
  match r with
  | .det m => (rndOf m, seed)
  | .sr => (.sr (srStep seed).2, (srStep seed).1)

/-- The bytes an element's bits `y` are stored as at a place (R7, R81, R235): a nibble under .F4, else little-endian bytes. -/
def Sys2Proof.Machine.storedBytes (f : MFmt) (l : Lane) (n part : Nat) (r : Route) (a y : Nat) : List ByteWr :=
  if f = .f4 then [⟨r, a, if l.val % 2 = 0 then 0x0F else 0xF0, BitVec.ofNat 8 (y % 16 * 17)⟩]
  else (List.range n).map fun k => ⟨r, a + k, 0xFF, BitVec.ofNat 8 ((if part = 2 then y / 2 ^ 32 else y) / 256 ^ k)⟩

/-- R57, R89, R90, R243, R244, R246, R251 to R254: a vector store outside an attempt whose elements pass, with a lane active. It retires with its
bytes at the end of the group's store buffer, lane by lane in ascending order, and the sectors its conversions poison; .SR steps the generators
of its lanes; .AMAX raises AMAX to the largest magnitude among them and never lowers it. No byte of memory changes before the buffer is applied. -/
def Sys2Proof.Machine.Claims.VectorStores : Prop :=
  ∀ (i : Instr) (s s1 : State) (g g1 : Group) (d : OOp) (rnd : SRnd) (rel : Option Scope) (nt amax : Bool) (sel : BitVec 3) (f : MFmt)
    (global : Bool) (refs : Lane → List Place),
    storeHead i = some (d, rnd, rel, nt, amax) → accessRule (srcOf s g) s g i = some (sel, f, global, refs) → Issued i s g →
    g.region.state ≠ .open → poisonLanes (srcOf s g) (iOs i) (active g.regs sel) = 0 → (∀ p ∈ g.pages, p.2 = some .success) →
    active g.regs sel ≠ 0 → (∀ l ∈ lanesOf (active g.regs sel), ∀ y ∈ refs l, ∃ r a, y.2.2.2 = .ok r a) →
    orderBefore (translated s g global (active g.regs sel) refs) g [] = some (s1, g1) → stbufFull s1 g1 = false →
    let data := fun l : Lane => (rdW (f == .n64) (srcOf s g) d l).1
    let conv := fun l : Lane => narrow f (laneRound rnd (g.sr.srseed[l.val])).1 (data l)
    ∃ t s2 e pz, exec i s = .next t ∧ SameMemory s1 t ∧ Retired i s2 e .none t ∧ s2 = { s1 with parts := s2.parts } ∧
      e = { g1 with
        stbuf := g1.stbuf ++ [.store ((lanesOf (active g.regs sel)).flatMap fun l => (refs l).flatMap fun y =>
          match y.2.2.2 with
          | .ok r a => storedBytes f l y.1 y.2.1 r a (conv l).1
          | _ => []) pz rel nt]
        sr := { g1.sr with srseed := e.sr.srseed, amax := e.sr.amax } } ∧
      (∀ l : Lane, e.sr.srseed[l.val] =
        if (active g.regs sel).getLsbD l.val then (laneRound rnd (g1.sr.srseed[l.val])).2 else g1.sr.srseed[l.val]) ∧
      (∀ r n, (r, n) ∈ pz ↔ ∃ l ∈ lanesOf (active g.regs sel), ∃ y ∈ refs l, ∃ a, y.2.2.2 = .ok r a ∧ a / 32 = n ∧ (conv l).2 = true) ∧
      (let mag := fun l : Lane => ((data l).setWidth 32 : W32) &&& 0x7FFFFFFF
       let nums := (lanesOf (active g.regs sel)).filter fun l => decide ((mag l).toNat ≤ 0x7F800000)
       (amax = false ∨ nums = [] → e.sr.amax = g1.sr.amax) ∧
       (amax = true → nums ≠ [] → (∀ l ∈ nums, (mag l).toNat ≤ (e.sr.amax &&& 0x7FFFFFFF).toNat) ∧
         (f32 e.sr.amax).isNan = false ∧ (e.sr.amax = g1.sr.amax ∨ ∃ l ∈ nums, e.sr.amax = mag l) ∧
         ((f32 g1.sr.amax).isNan = false → (g1.sr.amax &&& 0x7FFFFFFF).toNat ≤ (e.sr.amax &&& 0x7FFFFFFF).toNat)))

/-- R256: SST outside an attempt: the low bytes of its operand, saturated to a signed byte under .I8, join the store buffer. -/
def Sys2Proof.Machine.Claims.ScalarStore : Prop :=
  ∀ (h : Hdr) (d a : UOp) (off : BitVec 16) (f : MFmt) (rel : Option Scope) (nt : Bool) (s s1 : State) (g g1 : Group) (r : Route) (pa : Nat),
    let i := Instr.sst h d a off f rel nt
    let n := if f = .n64 then 8 else if f = .n32 then 4 else if f = .n16 then 2 else 1
    Issued i s g → g.region.state ≠ .open → poisonU (srcOf s g) [d, a] = false → (∀ p ∈ g.pages, p.2 = some .success) →
    let ea := ((rdU (srcOf s g) a).1 + off.signExtend 64).toNat
    checkGlobal s g ea n ⟨false, true, false⟩ = .ok r pa →
    orderBefore (touchPage s g.part g.core ea) g [] = some (s1, g1) → stbufFull s1 g1 = false →
    let v := (rdU (srcOf s g) d).1
    let y := if f = .i8 then (BitVec.ofInt 8 (max (-128) (min 127 v.toInt))).toNat else v.toNat
    ∃ t s2, exec i s = .next t ∧ SameMemory s1 t ∧ s2 = { s1 with parts := s2.parts } ∧
      Retired i s2 { g1 with
        stbuf := g1.stbuf ++ [.store ((List.range n).map fun k => ⟨r, pa + k, 0xFF, BitVec.ofNat 8 (y / 256 ^ k)⟩) [] rel nt] } .none t

/-- R10, R149, R150, R244: a vector access outside an attempt with a lane whose check fails with a cause that is not replayable stops its group, which
changes nothing else: CAUSE gains every such cause, FAULTMASK is exactly the lanes that fail so. -/
def Obligations.FailedAccessStops : Prop :=
  ∀ (i : Instr) (s : State) (g : Group) (sel : BitVec 3) (f : MFmt) (global : Bool) (refs : Lane → List Place),
    ((loadHead i).isSome ∨ (storeHead i).isSome) → accessRule (srcOf s g) s g i = some (sel, f, global, refs) → Issued i s g →
    g.region.state ≠ .open → poisonLanes (srcOf s g) (iOs i) (active g.regs sel) = 0 → poisonU (srcOf s g) (iUs i) = false →
    g.pages = [] → g.served = false → (∃ l ∈ lanesOf (active g.regs sel), ∃ y ∈ refs l, ∃ c, y.2.2.2 = .fault c) →
    ∃ st : Stop, exec i s = .next (groupStop s g st) ∧ st.code = none ∧
      (∀ l : Lane, st.mask.getLsbD l.val = true ↔ l ∈ lanesOf (active g.regs sel) ∧ ∃ y ∈ refs l, ∃ c, y.2.2.2 = .fault c) ∧
      (∀ c : Cause, st.causes &&& c.bit ≠ 0 ↔ ∃ l ∈ lanesOf (active g.regs sel), ∃ y ∈ refs l, y.2.2.2 = .fault c)

/-- R7, R105, R315: the sectors of a store of memory. A byte written under a key reads back under it, every other byte reads as before under that
key, and the canonical form is kept. Where the spec leaves it open, the model is as log entries 10, 11, 12 say. -/
def Obligations.StoreReadsBack : Prop :=
  ∀ (m : Store) (k : KeyTag) (a b : Nat) (v mask : Byte), m.wf = true →
    (m.writeAs k a mask v).wf = true ∧
    (m.writeAs k a mask v).readAs k b = (if b = a then (m.readAs k a &&& ~~~mask) ||| (v &&& mask) else m.readAs k b) ∧
    (∀ n, (m.writeAs k a mask v).poisoned n = m.poisoned n) ∧
    (∀ n x c, (m.setPois n x).wf = true ∧ (m.setPois n x).readAs k c = m.readAs k c ∧
      ∀ j, (m.setPois n x).poisoned j = if j = n then x else m.poisoned j)

/-- The memory a route reaches is there and in canonical form. -/
def Sys2Proof.Machine.RouteOk (s : State) : Route → Prop
  | .glob .host _ _ _ _ => s.host.wf = true
  | .glob _ _ _ _ _ => s.dev.wf = true
  | .scratch n => ∃ t, s.team? n = some t ∧ t.scratch.wf = true

/-- R92, R236, R246: applying the oldest buffered store of a group, whose bytes lie behind one route that is not written back, at their home on
this device or in a scratchpad. Each byte it writes takes the written bits, later writes of the store over earlier ones; every other byte behind the
route reads as before; a sector it covers whole, nibble by nibble or byte by byte, takes the poison its conversions created, one it touches in part
gains it. The entry leaves the buffer. Where the spec leaves it open, the model is as log entries 11, 13, 24 say. -/
def Obligations.StoreApplied : Prop :=
  ∀ (s : State) (g : Group) (ws : List ByteWr) (pz : List (Route × Nat)) (nt : Bool) (r : Route),
    s.group? g.gid = some g → g.stbuf = [.store ws pz none nt] → (∀ w ∈ ws, w.route = r) → (∀ x ∈ pz, x.1 = r) →
    writesBack r = false → isRemote r = false → routeTier r ≠ some .host → scratchAway s r = false → RouteOk s r → CleanCopies s g →
    let bits := fun a => (ws.filter fun w => w.addr == a).foldl (fun (m : Byte) w => m ||| w.mask) 0
    ∃ t, exec (.storeApply g.gid) s = .next t ∧ t.group? g.gid = some { g with stbuf := [] } ∧
      (∀ n, n ≠ g.gid → t.group? n = s.group? n) ∧
      (∀ a, homeRead t r a = (ws.filter fun w => w.addr == a).foldl (fun b w => (b &&& ~~~w.mask) ||| (w.val &&& w.mask)) (homeRead s r a)) ∧
      (∀ n, homePois t r n =
        if (List.range 32).all (fun k => bits (32 * n + k) == 0xFF) then pz.contains (r, n)
        else homePois s r n || (pz.contains (r, n) && ws.any fun w => w.addr / 32 == n))

/-- R57, R236, R257, R445: PREF retires once older acquires are performed, whatever its addresses are; a lane whose address is marked, fails its checks
or may not be cached does nothing. The one active lane of a mask has its line in L1, or under .NT in its home slice. No byte of memory changes where no
cached line is dirty, and nothing of the group. -/
def Sys2Proof.Machine.Claims.PrefetchLines : Prop :=
  ∀ (h : Hdr) (a : OOp) (off : BitVec 16) (sel : BitVec 3) (nt : Bool) (s s1 : State) (g g1 : Group),
    Issued (.pref h a off sel nt) s g → orderBefore s g [] = some (s1, g1) →
    ∃ t s2, exec (.pref h a off sel nt) s = .next t ∧ Retired (.pref h a off sel nt) s2 g1 .none t ∧ (CleanCopies s1 g1 → SameMemory s1 t) ∧
      s2 = { s1 with
        cores := s2.cores, parts := s2.parts, xlats := s2.xlats, dev := s2.dev, host := s2.host, dies := s2.dies, free := s2.free
        notices := s2.notices } ∧
      (∀ (l : Lane) r pa, active g.regs sel = laneBit l.val → (rd64 (srcOf s g) a l).2 = false → inL1 r = true →
        checkLane s1 g1 l.val ((rd64 (srcOf s g) a l).1 + off.signExtend 64).toNat 4 ⟨true, false, false⟩ = .ok r pa →
        (nt = false → (t.core g.core).l1.any (fun x => decide (some x.tier = routeTier r) && x.line == pa / 128) = true) ∧
        (∀ p, nt = true → routeTier r = some .hbm → isHw r = true → t.part? g.part = some p → p.sectors ≠ [] →
          (Tab.get none p.lines (pa / 128)).isSome = true))

/-- What a write-back of line `x` between `s` and `t` leaves (R238, R258, R259): at the line's home the bytes that were dirty are the line's and the
others are as before; those of an SW-coherent host line are, dirty, in the copy of the line that its home slice holds, or, always at system
scope, in host memory. -/
def Sys2Proof.Machine.CarriedHome (s t : State) (sys : Bool) (x : L1Line) : Prop :=
  ∀ i b, i < 128 → x.data[i]? = some b →
    (x.tier ≠ .host ∨ (x.coh ≠ .sw ∧ ∀ p ∈ s.parts, ∀ y ∈ p.hostCopies, y.line ≠ x.line) →
      let r := Route.glob x.tier x.coh x.key 0 0
      homeRead t r (128 * x.line + i) = if x.dirty.getLsbD i then b else homeRead s r (128 * x.line + i)) ∧
    (x.tier = .host → x.coh = .sw → x.dirty.getLsbD i = true → ∀ p, s.part? x.part = some p →
      (∀ y ∈ p.hostCopies, y.line = x.line → y.tier = .host ∧ y.key = x.key) →
      t.host.readAs x.key (128 * x.line + i) = b ∨
        (sys = false ∧ ∃ q, t.part? x.part = some q ∧ ∃ y ∈ q.hostCopies, y.line = x.line ∧ y.data[i]? = some b ∧ y.dirty.getLsbD i = true))

/-- R258 to R260: CWB, CINV and ICINV, of one line or of every line (.ALL). Older stores are applied and older acquires performed first. At scopes 3 and
wider CWB leaves every line it names in the core's L1 clean and in place and CINV leaves none, but for HW-coherent ones, and their dirty bytes
are at their homes, but for lines of a fenced channel (R431); at scopes 1 and 2 neither changes a line. ICINV empties what it names of the
instruction caches and their translations on every core of the partition within its scope. -/
def Sys2Proof.Machine.Claims.CacheInvalidation : Prop :=
  ∀ (h : Hdr) (addr : Option UAddr) (sc : Scope) (dev : Bool) (s s1 : State) (g g1 : Group),
    let wide := sc ≠ .gp ∧ sc ≠ .tm
    let ea := fun (u : UAddr) => ((rdU (srcOf s g) u.a).1 + u.off.signExtend 64).toNat
    let before := match addr with
      | none => s
      | some u => touchPage s g.part g.core (ea u)
    let passes := fun (r : Option (Route × Nat)) => match addr with
      | none => r = none
      | some u => poisonU (srcOf s g) [u.a] = false ∧ (∀ p ∈ g.pages, p.2 = some .success) ∧
          ∃ y, r = some y ∧ xlat s g (ea u) ⟨true, false, false⟩ = .ok y.1 y.2
    let named : Option (Route × Nat) → L1Line → Bool := fun r x => match r with
      | none => decide (x.coh ≠ .hw)
      | some y => x.line == y.2 / 128 && decide (some x.tier = routeTier y.1) && decide (x.coh ≠ .hw)
    let apart := ∀ x ∈ (s1.core g.core).l1, ∀ y ∈ (s1.core g.core).l1, x.line = y.line → x = y
    let carried := fun (t : State) (r : Option (Route × Nat)) => ∀ x ∈ (s1.core g.core).l1, named r x = true → x.part = g.part →
      chanFenced s1 x.tier (128 * x.line) = false → CarriedHome s1 t (sc == .sys) x
    (∀ r, Issued (.cwb h addr sc) s g → passes r → drainAll before g = some (s1, g1) → acqPending s1 g1 = false →
      ∃ t s2, exec (.cwb h addr sc) s = .next t ∧ Retired (.cwb h addr sc) s2 g1 .none t ∧ (¬wide → s2 = s1) ∧
        ((∀ y, r = some y → (routeTier y.1).isSome = true) → wide → apart → s1.dev.wf = true → s1.host.wf = true →
          carried t r ∧ (t.core g.core).l1 = (s1.core g.core).l1.map fun x => if named r x then { x with dirty := 0 } else x)) ∧
    (∀ r, Issued (.cinv h addr sc) s g → passes r → drainAll before g = some (s1, g1) → acqPending s1 g1 = false →
      ∃ t s2, exec (.cinv h addr sc) s = .next t ∧ Retired (.cinv h addr sc) s2 g1 .none t ∧ (¬wide → s2 = s1) ∧
        ((∀ y, r = some y → (routeTier y.1).isSome = true) → wide → apart → s1.dev.wf = true → s1.host.wf = true →
          carried t r ∧ (t.core g.core).l1 = (s1.core g.core).l1.filter fun x => !named r x)) ∧
    (∀ p, Issued (.icinv h addr dev) s g → s1.part? g.part = some p → orderBefore s g [] = some (s1, g1) →
      (∀ u, addr = some u → poisonU (srcOf s g) [u.a] = false ∧ (∀ p ∈ g.pages, p.2 = some .success) ∧ ∃ r pa, xlatCode s g (ea u) = .ok r pa) →
      ∃ t s2, exec (.icinv h addr dev) s = .next t ∧ Retired (.icinv h addr dev) s2 g1 .none t ∧ SameMemory s1 t ∧
        ∀ n, p.sectors.contains (n / 16) = true → (dev = true ∨ n / 48 = g.core / 48) →
          (addr = none → (t.core n).icache = [] ∧ (t.core n).codeReqs = [] ∧ ∀ l ∈ (t.core n).itlbs, l = []) ∧
          (∀ u r pa, addr = some u → xlatCode s g (ea u) = .ok r pa → ∀ x ∈ (t.core n).icache, ¬(samePlace r x.route = true ∧ x.line = pa / 128)))

/-- R257 to R260: with nothing of the group under way PREF, CWB, CINV and ICINV retire: PREF always, the others for every line, or for a line whose
address is unmarked and translates. -/
def Sys2Proof.Machine.Claims.CacheInstructionsRetire : Prop :=
  ∀ (i : Instr) (addr : Option UAddr) (s : State) (g : Group), Issued i s g → Quiet s g →
    ((∃ h a off sel nt, i = .pref h a off sel nt) ∨
      ((∀ u, addr = some u → poisonU (srcOf s g) [u.a] = false ∧ ∀ p ∈ g.pages, p.2 = some .success) ∧
        let ea := fun (u : UAddr) => ((rdU (srcOf s g) u.a).1 + u.off.signExtend 64).toNat
        ((∃ h sc, i = .cwb h addr sc ∨ i = .cinv h addr sc) ∧ ∀ u, addr = some u → ∃ r pa, xlat s g (ea u) ⟨true, false, false⟩ = .ok r pa) ∨
        ((∃ h dev, i = .icinv h addr dev) ∧ ∀ u, addr = some u → ∃ r pa, xlatCode s g (ea u) = .ok r pa))) →
    ∃ t s2, exec i s = .next t ∧ Retired i s2 g .none t

/-- R236, R257 to R260: PREF, CWB, CINV and ICINV retire, and what they do to the caches. Where the spec leaves it open, the model is as log entries 19, 20, 21, 83 say. -/
def Obligations.CacheInstructions : Prop :=
  Claims.PrefetchLines ∧ Claims.CacheInvalidation ∧ Claims.CacheInstructionsRetire

-- atomics, fences, barriers (R319, R320, R332 to R345)

/-- The function, the width, the order, the mask select, the address, the operands B and C and the returning form of an atomic (R333 to R336). -/
def Sys2Proof.Machine.atomHead : Instr → Option (AFun × Bool × AOrd × BitVec 3 × OOp × OOp × Option OOp × Option ARet)
  | .atom _ r a b sel f op ord => some (.op op (decide (f = .i32 ∨ f = .i64)), decide (f = .n64 ∨ f = .i64), ord, sel, a, b, none, r)
  | .acas _ r a b c sel f ord => some (.cas, decide (f = .n64 ∨ f = .i64), ord, sel, a, b, some c, r)
  | .afadd _ r a b sel ord => some (.fadd, false, ord, sel, a, b, none, r)
  | _ => none

/-- Where an atomic's lane acts (R332, R339): the addresses 0x007FFEFF00000000 and up name scratchpads. -/
def Sys2Proof.Machine.atomPlace (s : State) (g : Group) (wide : Bool) (l : Lane) (ea : W64) : XRes :=
  let n := if wide then 8 else 4
  if ea.toNat / 2 ^ 32 = 0x007FFEFF then checkScratch s g (ea.toNat % 2 ^ 32) n else checkLane s g l.val ea.toNat n ⟨true, true, false⟩

/-- R38, R332, R333, R337, R338: ATOM, ACAS and AFADD whose lanes pass their checks retire with their lanes, ascending, as one entry of the store
buffer; the returning form allocates its tag, which waits for one answer per sector. No byte of memory changes before the entry is applied. -/
def Sys2Proof.Machine.Claims.AtomicsJoinBuffer : Prop :=
  ∀ (i : Instr) (s s1 : State) (g g1 : Group) (f : AFun) (wide : Bool) (ord : AOrd) (sel : BitVec 3) (a b : OOp) (c : Option OOp)
    (ret : Option ARet),
    atomHead i = some (f, wide, ord, sel, a, b, c, ret) → Issued i s g → g.region.state ≠ .open →
    poisonLanes (srcOf s g) (iOs i) (active g.regs sel) = 0 → (∀ p ∈ g.pages, p.2 = some .success) → active g.regs sel ≠ 0 →
    (∀ l ∈ lanesOf (active g.regs sel), ∃ r pa, atomPlace s g wide l (rd64 (srcOf s g) a l).1 = .ok r pa ∧
      (routeTier r = some .host → f = .cas ∨ ∃ x, f = .op .add x ∨ f = .op .xchg x)) →
    let vas := (lanesOf (active g.regs sel)).filterMap fun l =>
      let ea := (rd64 (srcOf s g) a l).1.toNat
      if ea / 2 ^ 32 = 0x007FFEFF then none else some ea
    orderBefore (touchPages s g.part g.core vas) g [] = some (s1, g1) → stbufFull s1 g1 = false →
    let val := fun (o : OOp) (l : Lane) => (rdW wide (srcOf s g) o l).1
    let ls : List AtomLane := (lanesOf (active g.regs sel)).filterMap fun l =>
      match atomPlace s g wide l (rd64 (srcOf s g) a l).1 with
      | .ok r pa => some ⟨l, r, pa, val b l, (c.map fun o => val o l).getD 0⟩
      | _ => none
    ∃ t s2, exec i s = .next t ∧ SameMemory s1 t ∧ s2 = { s1 with parts := s2.parts } ∧
      Retired i s2 { g1 with
        stbuf := g1.stbuf ++ [.atomic ls f wide ret ord]
        tags := match ret with
          | none => g1.tags
          | some r => g1.tags.setIfInBounds r.ta.toNat
              (some ⟨if wide then [r.d, r.d + 1] else [r.d], none, active g.regs sel,
                ((ls.map fun x => (x.route, x.addr / 32)).eraseDups).length, [], [], false, false⟩) }
        (if ret.isSome then .async else .none) t

/-- The value an atomic writes (R334 to R336), as integers of its width. -/
def Sys2Proof.Machine.atomRule (f : AFun) (wide : Bool) (old b c : W64) : W64 :=
  let m : Int := if wide then 2 ^ 64 else 2 ^ 32
  let u := fun x : W64 => (x.toNat : Int)
  let i := fun x : W64 => if wide then x.toInt else (x.setWidth 32 : W32).toInt
  let lo := fun x : Int => BitVec.ofInt 64 (x % m)
  match f with
  | .cas => if old = b then c else old
  | .fadd => (fAdd .rn (old.setWidth 32) (b.setWidth 32)).1.setWidth 64
  | .op .add _ => lo (u old + u b)
  | .op .sub _ => lo (u old - u b)
  | .op .and _ => old &&& b
  | .op .or _ => old ||| b
  | .op .xor _ => old ^^^ b
  | .op .min sg => lo (if sg then min (i old) (i b) else min (u old) (u b))
  | .op .max sg => lo (if sg then max (i old) (i b) else max (u old) (u b))
  | .op .xchg _ => b
  | .op .inc _ => if u old < u b then lo (u old + 1) else 0

/-- What lanes make, in order, of the bytes behind one route, with the old value of each. -/
def Sys2Proof.Machine.atomRun (f : AFun) (wide : Bool) : (Nat → Byte) → List AtomLane → (Nat → Byte) × List W64
  | m, [] => (m, [])
  | m, x :: t =>
    let n := if wide then 8 else 4
    let old : W64 := BitVec.ofNat 64 (leNat ((List.range n).map fun k => m (x.addr + k)))
    let new := atomRule f wide old x.b x.c
    let r := atomRun f wide (fun a => if x.addr ≤ a ∧ a < x.addr + n then BitVec.ofNat 8 (new.toNat / 256 ^ (a - x.addr)) else m a) t
    (r.1, old :: r.2)

/-- R328, R334 to R337: applying the atomic at the head of a store buffer, its lanes behind one route that is not the host's, no cached line being
dirty: they act in ascending order on the bytes at the
home, each on what the last one left; the returning form is answered, once per sector, with the old values and their sectors' poison. Where the spec leaves it open, the model is as log entries 13, 66 say. -/
def Obligations.AtomicApplied : Prop :=
  ∀ (s : State) (g : Group) (ls : List AtomLane) (f : AFun) (wide : Bool) (ret : Option ARet) (ord : AOrd) (r : Route) (x : TagSt),
    s.group? g.gid = some g → g.stbuf = [.atomic ls f wide ret ord] → (∀ y ∈ ls, y.route = r) →
    (wide = false → ∀ y ∈ ls, y.b.toNat < 2 ^ 32 ∧ y.c.toNat < 2 ^ 32) →
    (∀ a, ret = some a → g.tags[a.ta.toNat] = some x) → isRemote r = false → scratchAway s r = false → RouteOk s r →
    routeTier r ≠ some .host → CleanCopies s g →
    (inL1 r = true → ∀ y ∈ ls, (s.core g.core).l1.find? (sameLine ((routeTier r).getD .hbm) (y.addr / 128)) = none) →
    (scopeOf ord = some .sys → g.remWr = [] ∧ ∀ q ∈ s.fabric.reqs, q.gid ≠ g.gid) →
    let run := atomRun f wide (homeRead s r) ls
    ∃ t ds, exec (.atomicHomeApply g.gid) s = .next t ∧ (∀ a, homeRead t r a = run.1 a) ∧ (∀ n, homePois t r n = homePois s r n) ∧
      (∀ n, n ≠ g.gid → t.group? n = s.group? n) ∧
      t.group? g.gid = some { g with
        stbuf := []
        tags := match ret with
          | none => g.tags
          | some a => g.tags.setIfInBounds a.ta.toNat (some { x with await := x.await - ds.length, sects := x.sects ++ ds }) } ∧
      (ret = none → ds = []) ∧
      (∀ a, ret = some a → ds.length = ((ls.map fun y => y.addr / 32).eraseDups).length ∧
        (∀ e, (∃ es, Landing.vec es ∈ ds ∧ e ∈ es) ↔ ∃ y old, (y, old) ∈ ls.zip run.2 ∧
          e ∈ (⟨a.d, y.lane, old.setWidth 32, homePois s r (y.addr / 32)⟩ : VElem) ::
            (if wide then [⟨a.d + 1, y.lane, (old >>> 32).setWidth 32, homePois s r (y.addr / 32)⟩] else [])))

/-- R320, R340: FENCE retires once what it waits for is performed: under .ACQ every older atomic, under .REL and .AR every older store and atomic of
the group; with no scratchpad form every remote read and atomic is answered, and at scope .SYS, unless .ACQ, every remote write acknowledged or
discarded (R405). A releasing
scratchpad fence empties the operand cache (R277). Until then it waits. -/
def Sys2Proof.Machine.Claims.FenceCompletes : Prop :=
  ∀ (h : Hdr) (ord : FOrd) (sc : Scope) (sp : Bool) (s : State) (g : Group), Issued (.fence h ord sc sp) s g →
    (∀ s1 g1, fenceDone s g ord sc sp = some (s1, g1) →
      (∃ t s2, exec (.fence h ord sc sp) s = .next t ∧ SameMemory s1 t ∧ Retired (.fence h ord sc sp) s2 g1 .none t ∧
        (¬(sp = true ∧ ord ≠ .acq) → s2 = s1) ∧ (sp = true → ord ≠ .acq → (t.core g.core).ocache = [])) ∧
      (ord ≠ .acq → g1.stbuf = []) ∧
      (ord = .acq → ∀ b ∈ g1.stbuf, ∃ ws pz rel nt, b = .store ws pz rel nt) ∧
      (sp = false → ∀ q ∈ s1.fabric.reqs, q.gid = g.gid → q.eng.isSome = true) ∧
      (sp = false → ord ≠ .acq → sc = .sys → ∀ w ∈ g1.remWr, w.lost = true)) ∧
    (fenceDone s g ord sc sp = none →
      exec (.fence h ord sc sp) s = .next (s.setGroup { g with waitFrom := some (g.waitFrom.getD g.sr.clk2) }))

/-- The checked place of a barrier object (R342). -/
def Sys2Proof.Machine.barAt (s : State) (g : Group) (ea : W64) (sp : Bool) : XRes :=
  if sp then checkScratch s g (ea.toNat % 2 ^ 32) 8
  else
    match checkGlobal s g ea.toNat 8 ⟨true, true, false⟩ with
    | .ok r pa => if routeTier r = some .host then .fault .perm else if isHw r then .ok r pa else .fault .coherence
    | x => x

/-- A barrier object's doubleword after an arrival (R341, R343): COUNT grows; at EXPECT it becomes 0 and PHASE changes. -/
def Sys2Proof.Machine.arrived (v : Nat) : Nat :=
  if v % 2 ^ 24 + 1 = v / 2 ^ 32 % 2 ^ 24 then (if v.testBit 63 then v - v % 2 ^ 24 - 2 ^ 63 else v - v % 2 ^ 24 + 2 ^ 63) else v + 1

/-- R320, R340: with nothing of the group under way FENCE retires at once. -/
def Sys2Proof.Machine.Claims.FenceRetires : Prop :=
  ∀ (h : Hdr) (ord : FOrd) (sc : Scope) (sp : Bool) (s : State) (g : Group), Issued (.fence h ord sc sp) s g → Quiet s g →
    ∃ t s2, exec (.fence h ord sc sp) s = .next t ∧ SameMemory s t ∧ Retired (.fence h ord sc sp) s2 g .none t

/-- R320, R340: FENCE retires, at once or once what it waits for is performed. Where the spec leaves it open, the model is as log entries 13, 66 say. -/
def Obligations.FenceCompletes : Prop :=
  Claims.FenceCompletes ∧ Claims.FenceRetires

/-- The state once a barrier's address is translated (R145). -/
def Sys2Proof.Machine.barSeen (s : State) (g : Group) (ea : W64) (sp : Bool) : State :=
  if sp then s else touchPage s g.part g.core ea.toNat

/-- R341 to R345, R356: barriers on this device whose object is not corrupt (EXPECT is not 0, COUNT is below it, the reserved bits are 0); at system
scope no earlier remote write has been discarded. BARA
arrives: the object changes, the token is the old phase, and when the phase changes every core with a waiter is notified and the waiters leave the set.
BARW completes when the phase differs from its token and else parks. BAR that completes a phase, or whose phase is over, retires; otherwise it parks
with its token. -/
def Sys2Proof.Machine.Claims.BarrierOperations : Prop :=
  ∀ (h : Hdr) (d : Option SDst) (a b : UOp) (sc : Scope) (sp : Bool) (s s1 : State) (g g1 : Group) (r : Route) (pa : Nat),
    let ea := (rdU (srcOf s g) a).1
    (∀ p ∈ g.pages, p.2 = some .success) → barAt s g ea sp = .ok r pa → isRemote r = false → RouteOk s1 r →
    scratchAway s1 r = false → acqPending s1 g1 = false → (sc = .sys → writesLost g1 = false) →
    let num := fun u : State => leNat ((List.range 8).map fun k => homeRead u r (pa + k))
    let sound := fun v : Nat => v / 2 ^ 56 % 2 ^ 7 = 0 ∧ v / 2 ^ 24 % 2 ^ 8 = 0 ∧ v % 2 ^ 24 < v / 2 ^ 32 % 2 ^ 24
    let performed := performAll (barSeen s g ea sp) g (decide (sc = .sys)) = some (s1, g1)
    let ordered := orderBefore (barSeen s g ea sp) g [(r, pa, 8)] = some (s1, g1)
    (Issued (.bara h d a sc sp) s g → poisonU (srcOf s g) [a] = false → performed → sound (num s1) →
      ∃ t s2, exec (.bara h d a sc sp) s = .next t ∧ num t = arrived (num s1) ∧
        (∀ x, x < pa ∨ pa + 8 ≤ x → homeRead t r x = homeRead s1 r x) ∧
        Retired (.bara h d a sc sp) (writeS s2 g1 d (b2w ((num s1).testBit 63))).1 (writeS s2 g1 d (b2w ((num s1).testBit 63))).2
          (.scalar (b2w ((num s1).testBit 63)) false) t ∧
        ∀ p, s1.part? g.part = some p → t.notes = s1.notes ++
          if (num s1).testBit 63 = (num t).testBit 63 then []
          else (((p.waiters.filter fun w => samePlace w.1 r && w.2.1 == pa).filterMap fun w => (s1.group? w.2.2).map (·.core)).eraseDups).map
            fun c => (g.part, c, r, pa)) ∧
    (Issued (.barw h a b sc sp) s g → poisonU (srcOf s g) [a, b] = false → ordered → sound (num s1) →
      let seen := srcOf (barSeen s g ea sp) g
      if (num s1).testBit 63 ≠ (rdU seen b).1.getLsbD 0 then
        ∃ t, exec (.barw h a b sc sp) s = .next t ∧ SameMemory s1 t ∧ Retired (.barw h a b sc sp) s1 g1 .none t
      else
        ∃ t, exec (.barw h a b sc sp) s = .next t ∧ SameMemory s1 t ∧ (t.group? g.gid).map (·.wait) = some (.parked r pa false) ∧
          ∀ p, s1.part? g.part = some p → (t.part? g.part).map (·.waiters) =
            some ((p.waiters.filter fun w => w.2.2 != g.gid) ++ [(r, pa, g.gid)])) ∧
    (Issued (.bar h a sc sp) s g → poisonU (srcOf s g) [a] = false → g.barTok = none → performed → sound (num s1) →
      ∃ t, exec (.bar h a sc sp) s = .next t ∧ num t = arrived (num s1) ∧
        (∀ x, x < pa ∨ pa + 8 ≤ x → homeRead t r x = homeRead s1 r x) ∧
        if (num t).testBit 63 ≠ (num s1).testBit 63 then
          ∃ s2, Retired (.bar h a sc sp) s2 { g1 with barTok := none } .none t
        else (t.group? g.gid).map (fun x => (x.wait, x.barTok)) = some (.parked r pa false, some ((num s1).testBit 63))) ∧
    (∀ tok, Issued (.bar h a sc sp) s g → poisonU (srcOf s g) [a] = false → g.barTok = some tok → ordered → sound (num s1) →
      (num s1).testBit 63 ≠ tok →
      ∃ t, exec (.bar h a sc sp) s = .next t ∧ SameMemory s1 t ∧ Retired (.bar h a sc sp) s1 { g1 with barTok := none } .none t)

/-- R342 to R345: with nothing of the group under way, a barrier instruction on a sound object of this device that is not evicted retires: BARA always,
BARW and a BAR that has arrived when the phase differs from the token, any other BAR when it is the last to arrive. -/
def Sys2Proof.Machine.Claims.BarriersRetire : Prop :=
  ∀ (h : Hdr) (d : Option SDst) (a b : UOp) (sc : Scope) (sp : Bool) (s : State) (g : Group) (r : Route) (pa : Nat),
    (∀ p ∈ g.pages, p.2 = some .success) → barAt s g (rdU (srcOf s g) a).1 sp = .ok r pa → isRemote r = false → RouteOk s r →
    scratchAway s r = false → Quiet s g →
    let v := leNat ((List.range 8).map fun k => homeRead s r (pa + k))
    v / 2 ^ 56 % 2 ^ 7 = 0 → v / 2 ^ 24 % 2 ^ 8 = 0 → v % 2 ^ 24 < v / 2 ^ 32 % 2 ^ 24 →
    (Issued (.bara h d a sc sp) s g → poisonU (srcOf s g) [a] = false →
      ∃ t s2 e w, exec (.bara h d a sc sp) s = .next t ∧ Retired (.bara h d a sc sp) s2 e w t) ∧
    (Issued (.barw h a b sc sp) s g → poisonU (srcOf s g) [a, b] = false → v.testBit 63 ≠ (rdU (srcOf s g) b).1.getLsbD 0 →
      ∃ t s2, exec (.barw h a b sc sp) s = .next t ∧ Retired (.barw h a b sc sp) s2 g .none t) ∧
    (Issued (.bar h a sc sp) s g → poisonU (srcOf s g) [a] = false →
      (g.barTok = none ∧ v % 2 ^ 24 + 1 = v / 2 ^ 32 % 2 ^ 24) ∨ g.barTok = some (!v.testBit 63) →
      ∃ t s2, exec (.bar h a sc sp) s = .next t ∧ Retired (.bar h a sc sp) s2 { g with barTok := none } .none t)

/-- R341 to R345, R356: what BARA, BARW and BAR do to a barrier and its waiters, and when they retire. Where the spec leaves it open, the model is as log entries 34, 66 say. -/
def Obligations.BarrierOperations : Prop :=
  Claims.BarrierOperations ∧ Claims.BarriersRetire

-- queue objects (R346 to R364)

/-- Whether a push or a pop is of scalars, whether it may come back short, its first register, its slot and its mask select. -/
def Sys2Proof.Machine.pushForm : Instr → Option (Bool × Bool × Nat × BitVec 6 × BitVec 3)
  | .qpush _ d q sel => some (false, false, d.toNat, q, sel)
  | .qtrypush _ d q sel => some (false, true, d.toNat, q, sel)
  | .sqpush _ d q => some (true, false, d.toNat, q, 0)
  | _ => none
def Sys2Proof.Machine.popForm : Instr → Option (Bool × Bool × Nat × BitVec 6 × BitVec 3)
  | .qpop _ d q sel => some (false, false, d.toNat, q, sel)
  | .qtrypop _ d q sel => some (false, true, d.toNat, q, sel)
  | .sqpop _ d q => some (true, false, d.toNat, q, 0)
  | _ => none

/-- The lanes that push or pop, in order: the active ones, or one for the group's scalars. -/
def Sys2Proof.Machine.qLanes (g : Group) (scal : Bool) (sel : BitVec 3) : List Lane := if scal then [0] else lanesOf (active g.regs sel)

/-- The places lie behind the block's route, apart from the block and from one another. -/
def Sys2Proof.Machine.Apart (q : QAt) (n : Nat) (places : List (Route × Nat)) : Prop :=
  (∀ x ∈ places, x.1 = q.route ∧ (x.2 + n ≤ q.pa ∨ q.pa + 64 ≤ x.2)) ∧
  places.Pairwise fun x y => x.2 + n ≤ y.2 ∨ y.2 + n ≤ x.2

/-- R346 to R351, R353, R444: QPUSH, QTRYPUSH and SQPUSH through a capability that passes, on a block that is not corrupt, with room, no write that
its release waits for having been discarded (R405). The elements of
the lanes that push stand in the slots from TAIL, TAIL and RESV have moved past them, FREE is down by as many, the block is still not corrupt; QTRYPUSH
pushes what fits and says in m0 which lanes those were. A push that lacks room parks. Where the spec leaves it open, the model is as log entries 34, 49, 66 say. -/
def Obligations.QueuePushes : Prop :=
  ∀ (i : Instr) (s s0 s1 : State) (g g1 : Group) (scal try' : Bool) (d : Nat) (q : BitVec 6) (sel : BitVec 3) (b : QBlk) (q' : QAt),
    pushForm i = some (scal, try', d, q, sel) → Issued i s g →
    let ls := qLanes g scal sel
    (ls = [] → ∃ t, exec i s = .next t ∧ SameMemory s t ∧ Retired i s (if try' then { g with regs := g.regs.setM 0 0 } else g) .none t) ∧
    (ls ≠ [] → (∀ k, withQueue q (fun push _ => push) (if scal || try' then 0 else ls.length) s g k = k s0 q') →
      sendReady s0 g q'.sp = some (s1, g1) → (q'.sp = false → writesLost g1 = false) → g1.spoilt = false → qBad s1 q'.route q'.pa = false →
      b = qBlkOf (qRead s1 q'.route q'.pa) → b.owner = g.part % 32 → elemStops g1 b scal d (if try' then 0 else ls.length) = none →
      let k := if try' then (if b.resv = b.tail then min ls.length (min q'.allow b.space) else 0) else ls.length
      (∀ places : List (Route × Nat), try' = true ∨ (ls.length ≤ b.space ∧ b.resv = b.tail) → pushHasPois g1 scal d b.esz (listMask (ls.take k)) = false →
        slotsFrom s1 g1 q' b needW b.tail k = .ok places → RouteOk s1 q'.route →
        ∃ t s2, exec i s = .next t ∧
          Retired i s2 (if try' then { g1 with regs := g1.regs.setM 0 (listMask (ls.take k)) } else g1) .none t ∧
          qBlkOf (qRead t q'.route q'.pa) =
            { b with tail := (b.tail + k) % 2 ^ 32, resv := (b.resv + k) % 2 ^ 32, free := b.free - k } ∧
          qBad t q'.route q'.pa = false ∧
          (Apart q' b.esz places →
            (∀ (j : Nat) (l : Lane) (x : Route × Nat), (ls.take k)[j]? = some l → places[j]? = some x → (List.range b.esz).map (fun o => homeRead t x.1 (x.2 + o)) =
              if scal then (List.range (b.esz / 8)).flatMap fun n => natLe 8 (g1.regs.getS (BitVec.ofNat 6 (d + n))).toNat
              else (List.range (b.esz / 4)).flatMap fun n => natLe 4 (g1.regs.getV (BitVec.ofNat 7 (d + n)) l).toNat) ∧
            (∀ a, (a < q'.pa ∨ q'.pa + 64 ≤ a) → (∀ x ∈ places, a < x.2 ∨ x.2 + b.esz ≤ a) →
              homeRead t q'.route a = homeRead s1 q'.route a))) ∧
      (try' = false → b.space < ls.length ∨ b.resv ≠ b.tail →
        ∃ t, exec i s = .next t ∧ SameMemory s1 t ∧ (t.group? g.gid).map (·.wait) = some (.parked q'.route q'.pa false)))

/-- R346 to R349, R352, R353, R444: QPOP, QTRYPOP and SQPOP on such a queue with elements enough, the group having no store of its own to their slots
under way (R316) and no delivery pending for their registers (R160). The lanes that pop take the elements from HEAD in
order, with the poison of their slots; HEAD moves past them and FREE is up by as many; nothing else of the registers changes but m0, which says for
QTRYPOP which lanes popped. A pop that finds too few parks. Where the spec leaves it open, the model is as log entry 34 says. -/
def Obligations.QueuePops : Prop :=
  ∀ (i : Instr) (s s0 s1 : State) (g g1 : Group) (scal try' : Bool) (d : Nat) (q : BitVec 6) (sel : BitVec 3) (b : QBlk) (q' : QAt),
    popForm i = some (scal, try', d, q, sel) → Issued i s g →
    let ls := qLanes g scal sel
    (ls = [] → ∃ t, exec i s = .next t ∧ SameMemory s t ∧ Retired i s (if try' then { g with regs := g.regs.setM 0 0 } else g) .none t) ∧
    (ls ≠ [] → (∀ k, withQueue q (fun _ pop => pop) 0 s g k = k s0 q') → orderBefore s0 g [] = some (s1, g1) → g1.spoilt = false →
      qBad s1 q'.route q'.pa = false → b = qBlkOf (qRead s1 q'.route q'.pa) → b.owner = g.part % 32 → b.task = false →
      elemStops g1 b scal d (if try' then 0 else ls.length) = none →
      let k := if try' then min ls.length b.count else ls.length
      (∀ places : List (Route × Nat), k ≤ b.count → g.sr.budget ≤ 128 → slotsFrom s1 g1 q' b needR b.head k = .ok places → RouteOk s1 q'.route →
        orderBefore s1 g1 (places.map fun x => (x.1, x.2, b.esz)) = some (s1, g1) →
        (scal = true ∨ inPlaceBusy g1 ((List.range (b.esz / 4)).map fun n => BitVec.ofNat 7 (d + n)) = false) →
        let m := listMask (ls.take k)
        let at' := fun l : Lane => ((ls.take k).idxOf? l).bind fun j => places[j]?
        let word := fun (x : Route × Nat) (n w : Nat) => leNat ((List.range w).map fun o => homeRead s1 x.1 (x.2 + n * w + o))
        let poisoned := fun x : Route × Nat => (List.range ((x.2 % 32 + b.esz + 31) / 32)).any fun j => homePois s1 x.1 (x.2 / 32 + j)
        ∃ t s2 e, exec i s = .next t ∧ Retired i s2 e .none t ∧
          e = { g1 with regs := { g1.regs with v := e.regs.v, vp := e.regs.vp, s := e.regs.s, sp := e.regs.sp, m := e.regs.m }, tags := e.tags } ∧
          e.regs.m = (if try' then (g1.regs.setM 0 m).m else g1.regs.m) ∧
          (∀ (n : VReg) (l : Lane), (e.regs.getV n l, (e.regs.vp[n.toNat]).getLsbD l.val) =
            match (if scal = false ∧ d ≤ n.toNat ∧ n.toNat < d + b.esz / 4 then at' l else none : Option (Route × Nat)) with
            | some x => (BitVec.ofNat 32 (word x (n.toNat - d) 4), poisoned x)
            | none => (g1.regs.getV n l, (g1.regs.vp[n.toNat]).getLsbD l.val)) ∧
          (∀ n : BitVec 6, n ≠ 0 → (e.regs.getS n, e.regs.getSP n) =
            match (if scal = true ∧ d ≤ n.toNat ∧ n.toNat < d + b.esz / 8 then at' 0 else none : Option (Route × Nat)) with
            | some x => (BitVec.ofNat 64 (word x (n.toNat - d) 8), poisoned x)
            | none => (g1.regs.getS n, g1.regs.getSP n)) ∧
          qBlkOf (qRead t q'.route q'.pa) = { b with head := (b.head + k) % 2 ^ 32, free := b.free + k } ∧ qBad t q'.route q'.pa = false ∧
          (∀ a, (a < q'.pa ∨ q'.pa + 64 ≤ a) → homeRead t q'.route a = homeRead s1 q'.route a)) ∧
      (try' = false → b.count < ls.length →
        ∃ t, exec i s = .next t ∧ SameMemory s1 t ∧ (t.group? g.gid).map (·.wait) = some (.parked q'.route q'.pa false)))

/-- R349, R354, R355, R362, R363: QSTAT of a block that is not corrupt writes its TASK, FREE and COUNT; QINIT writes a fresh block with the fields of B
and C, unpoisoned, and wakes what was parked on the object; TASKWAIT that has been given a task entry takes its four doublewords into s1 to s4 and
holds it; TASKWAIT with none waits at a queue with BLOCK; TASKDONE gives up the entry held. -/
def Sys2Proof.Machine.Claims.QueueObjects : Prop :=
  ∀ (h : Hdr) (d : Option SDst) (a b c : UOp) (q : BitVec 6) (s s0 s1 : State) (g g1 : Group) (q' : QAt) (r : Route) (pa : Nat) (e : TaskEnt),
    (Issued (.qstat h d q) s g → (∀ k, withQueue q (fun push pop => push || pop) 0 s g k = k s0 q') → orderBefore s0 g [] = some (s1, g1) →
      qBad s1 q'.route q'.pa = false →
      let x := qBlkOf (qRead s1 q'.route q'.pa)
      x.owner = g.part % 32 →
      let v : W64 := BitVec.ofNat 64 ((if x.task then 2 ^ 62 else 0) + x.free * 2 ^ 32 + (x.tail + 2 ^ 32 - x.head) % 2 ^ 32)
      ∃ t, exec (.qstat h d q) s = .next t ∧ SameMemory s1 t ∧
        Retired (.qstat h d q) (writeS s1 g1 d v).1 (writeS s1 g1 d v).2 (.scalar v false) t) ∧
    (let va := (rdU (srcOf s g) a).1
     let vb := (rdU (srcOf s g) b).1
     let vc := (rdU (srcOf s g) c).1
     Issued (.qinit h a b c) s g → poisonU (srcOf s g) [a, b, c] = false → qinitIll s g va vb vc = false → va.toNat % 64 = 0 →
      (∀ p ∈ g.pages, p.2 = some .success) →
      (if isAlias va then checkScratch s g (aliasAddr va) 64 else xlat s g va.toNat ⟨false, true, false⟩) = .ok r pa →
      (isAlias va = false → (routeTier r = some .hbm ∨ routeTier r = some .vault) ∧ isHw r = true) →
      orderBefore s g [(r, pa, 64)] = some (s1, g1) → RouteOk s1 r →
      ∃ t s2, exec (.qinit h a b c) s = .next t ∧ Retired (.qinit h a b c) s2 g1 .none t ∧
        (let n := vb.toNat
         qBlkOf (qRead t r pa) =
          { eszlog := n / 2 ^ 35 % 32, caplog := n / 2 ^ 30 % 32, scope := n / 2 ^ 27 % 8, block := n.testBit 26, multi := n.testBit 25
            pois := false, task := n.testBit 23, owner := g.part % 32, tail := 0, head := 0, resv := 0, free := 2 ^ (n / 2 ^ 30 % 32)
            slots := vc.toNat % 2 ^ 55 }) ∧
        homePois t r (pa / 32) = false ∧ homePois t r (pa / 32 + 1) = false ∧
        (∀ x, x < pa ∨ pa + 64 ≤ x → homeRead t r x = homeRead s1 r x) ∧
        (∀ x, s1.group? x.gid = some x → x.part = g.part → x.wait = .parked r pa false → (g.part, x.core, r, pa) ∈ t.notes)) ∧
    (Issued (.taskwait h q) s g → g.task = none → g.wait = .parked r pa true →
      ((s.part? g.part).bind fun p => (p.tasks.find? fun y => samePlace y.route r && y.addr == pa).bind fun y =>
        y.ents.find? fun z => z.given == some g.gid) = some e →
      ∃ t x, exec (.taskwait h q) s = .next t ∧ SameMemory s t ∧ Retired (.taskwait h q) s x .none t ∧
        x = { g with regs := { g.regs with s := x.regs.s, sp := x.regs.sp }, tags := x.tags, task := some (r, pa, e.num) } ∧
        ∀ n : BitVec 6, (x.regs.getS n, x.regs.getSP n) =
          if 1 ≤ n.toNat ∧ n.toNat ≤ 4 then (e.dws[n.toNat - 1]?.getD 0, e.pois) else (g.regs.getS n, g.regs.getSP n)) ∧
    (Issued (.taskwait h q) s g → g.task = none → g.wait = .none → (∀ k, withQueue q (fun _ pop => pop) 0 s g k = k s0 q') →
      orderBefore s0 g [] = some (s1, g1) → g1.spoilt = false → qBad s1 q'.route q'.pa = false →
      (qBlkOf (qRead s1 q'.route q'.pa)).owner = g.part % 32 → (qBlkOf (qRead s1 q'.route q'.pa)).task = true →
      (qBlkOf (qRead s1 q'.route q'.pa)).block = true →
      ((qBlkOf (qRead s1 q'.route q'.pa)).count = 0 ∨
        ∃ l, slotsFrom s1 g1 q' (qBlkOf (qRead s1 q'.route q'.pa)) needR (qBlkOf (qRead s1 q'.route q'.pa)).head 1 = .ok l) →
      ∃ t, exec (.taskwait h q) s = .next t ∧ SameMemory s1 t ∧ (t.group? g.gid).map (·.wait) = some (.parked q'.route q'.pa false)) ∧
    (∀ n, Issued (.taskdone h q) s g → g.task = some (q'.route, q'.pa, n) → (∀ k, withQueue q (fun _ pop => pop) 0 s g k = k s0 q') →
      sendReady s0 g q'.sp = some (s1, g1) → (q'.sp = false → writesLost g1 = false) → g1.spoilt = false →
      qBad s1 q'.route q'.pa = false → (qBlkOf (qRead s1 q'.route q'.pa)).owner = g.part % 32 →
      (qBlkOf (qRead s1 q'.route q'.pa)).task = true →
      ∃ t s2, exec (.taskdone h q) s = .next t ∧ SameMemory s1 t ∧ Retired (.taskdone h q) s2 { g1 with task := none } .none t ∧
        ∀ p y, t.part? g.part = some p → y ∈ p.tasks → samePlace y.route q'.route = true → y.addr = q'.pa → ∀ z ∈ y.ents, z.num ≠ n)

-- engines (R261 to R307)

/-- R261 to R263, R265, R266, R268, R271: BCLOSE closes the open set and gives its number; BWAIT whose batches are complete and have no unreported
failure retires and changes nothing; BWAIT that covers failures traps with all their causes and the address of the first, which are then reported; CPY whose
checks pass takes its locks and joins the copy stream, and into a ring with room reserves its slot first. -/
def Sys2Proof.Machine.Claims.BatchesAndCopies : Prop :=
  ∀ (h : Hdr) (d : Option SDst) (st : Strm) (o : UOp) (sn : BitVec 6) (x : Xform) (s s1 : State) (g g1 : Group),
    let ofStream := fun y : Group => match st with
      | .copy => y.copyS
      | .matrix => y.matrixS
      | .gather => y.gatherS
    (Issued (.bclose h d st) s g →
      let n := ((ofStream g).closed + 1) % 2 ^ 64
      let g' := match st with
        | .copy => { g with copyS := { g.copyS with closed := n } }
        | .matrix => { g with matrixS := { g.matrixS with closed := n } }
        | .gather => { g with gatherS := { g.gatherS with closed := n } }
      ∃ t, exec (.bclose h d st) s = .next t ∧ SameMemory s t ∧
        Retired (.bclose h d st) (writeS s g' d (BitVec.ofNat 64 n)).1 (writeS s g' d (BitVec.ofNat 64 n)).2 (.scalar (BitVec.ofNat 64 n) false) t) ∧
    (Issued (.bwait h o st) s g → poisonU (srcOf s g) [o] = false →
      let n := min (rdU (srcOf s g) o).1.toNat (ofStream g).closed
      (∀ y ∈ (ofStream g).ops, n < y.2) → (st = .gather → ∀ m ∈ g.merge, n < m.batch) →
      ((∀ f ∈ (ofStream g).fails, n < f.batch) →
        ∃ t, exec (.bwait h o st) s = .next t ∧ SameMemory s t ∧ Retired (.bwait h o st) s g .none t) ∧
      (∀ f fs, (ofStream g).fails.filter (fun y => decide (y.batch ≤ n)) = f :: fs → handlerOf s g ≠ none → g.trap.inh = false →
        ∃ t e, exec (.bwait h o st) s = .next t ∧ SameMemory s t ∧ t.group? g.gid = some e ∧
          e.sr.cause = g.sr.cause ||| (f :: fs).foldl (fun c y => c ||| y.causes) 0 ∧ e.trap.xaddr = f.addr ∧ e.trap.inh = true ∧
          ofStream e = { ofStream g with fails := (ofStream g).fails.filter fun y => decide (n < y.batch) })) ∧
    (let i := Instr.cpy h sn x
     let ns := (List.range 6).map fun k => sn + BitVec.ofNat 6 k
     let desc := ns.map g.regs.getS
     let c := copyD desc
     Issued i s g → (∀ n ∈ ns, g.regs.getSP n = false) → performAll s g true = some (s1, g1) → copyIll x c desc = false → copyAlign x c = none →
      ∀ ss ts, copySpan s1 g1 c.ssp c.src (srcRows x c) (srcRowBytes x c) c.sstride = some ss →
        (if xTable x then (copySpan s1 g1 true (BitVec.ofNat 64 c.dlen) 1 (4 * c.rows) 0).map (fun y => [y]) else some []) = some ts →
        let joins := fun (t s2 : State) (locks : List (Option Nat × Nat × Nat)) (ring : Option (Nat × Nat)) (base : Option Nat) =>
          Retired i s2 { g1 with copyS := { g1.copyS with ops := g1.copyS.ops ++ [(s1.nextId, g1.copyS.closed + 1)] } } .none t ∧
          t.nextId = s1.nextId + 1 ∧
          t.core g.core = { s1.core g.core with
            locks := (s1.core g.core).locks ++ locks.map fun y => ⟨y.1, y.2.1, y.2.2, s1.nextId⟩
            copies := (s1.core g.core).copies ++ [⟨s1.nextId, g.gid, g.tid, x, desc, ring, base, g1.copyS.closed + 1, none, false, none⟩] }
        (∀ ds, c.dring = false → copySpan s1 g1 c.dsp c.dst (dstShape x c).1 (dstShape x c).2 c.dstride = some ds →
          (s1.core g.core).locks.length + ts.length + 2 ≤ 32 →
          ∃ t s2, exec i s = .next t ∧ SameMemory s1 t ∧ joins t s2 ([ss] ++ ts ++ [ds]) none none) ∧
        (∀ off b, c.dring = true → g1.spoilt = false → ringOf s1 g.part g.tid (c.dst.toNat % 65536) = .ok off b → 0 ≤ c.dstride →
          ringExtent x c ≤ b.esz → b.space ≠ 0 → (s1.core g.core).locks.length + ts.length + 2 ≤ 32 → RouteOk s1 (.scratch g.tid) →
          let base := b.slots % 2 ^ 21 + b.resv % b.cap * b.esz
          ∃ t s2, exec i s = .next t ∧ joins t s2 ([ss] ++ ts ++ [(some g.tid, base, base + b.esz - 1)]) (some (off, b.resv)) (some base) ∧
            qBlkOf (qRead t (.scratch g.tid) off) = { b with resv := (b.resv + 1) % 2 ^ 32 } ∧
            ∀ a, a < off ∨ off + 64 ≤ a → homeRead t (.scratch g.tid) a = homeRead s1 (.scratch g.tid) a))

/-- What a matrix instruction pushes: whether its older accesses must be performed at system scope, its checks, the span it locks, and the opcode, tile,
F field and values of the command (R273, R280 to R292, R446). -/
def Sys2Proof.Machine.cmdRule (x : Src) (s : State) (t : Team) :
    Instr → Option (Bool × MChk × Option (Nat × Nat) × BitVec 8 × BitVec 5 × BitVec 13 × W64 × W64 × W64)
  | .mma _ d a b ty pair =>
    let av := (rdU x a).1
    let bv := (rdU x b).1
    some (true, mmaChk s t d.toNat ty pair av bv, none, 0xD0, d, ty.code ++ 0#8 ++ BitVec.ofBool pair, av, bv, 0)
  | .mzero _ d => some (false, .ok, none, 0xD2, d, 0, 0, 0, 0)
  | .mlda _ _ _ a b _ =>
    let v := (rdU x b).1
    some (false, if 2 ^ 17 ≤ v.toNat ∨ v.getLsbD 7 = true then .bad .ill 0 else .ok, none, 0xD3, a, 0, 0, v, 0)
  | .msta _ a b c f r nt =>
    let bv := (rdU x b).1
    let cv := (rdU x c).1
    let rows := bits cv.toNat 56 48
    let cols := bits cv.toNat 40 32
    some (true, mstaChk f bv cv, some (bv.toNat, bv.toNat + (rows - 1) * (cv.toNat % 2 ^ 32) + (cols * fmtBits f + 7) / 8 - 1), 0xD4, a,
      f.code ++ 0#5 ++ BitVec.ofBool nt ++ r.code, 0, bv, cv)
  | .msave _ a =>
    let v := (rdU x a).1
    some (true, if v.toNat % 65536 ≠ 0 then .bad .align v else .ok, some (v.toNat, v.toNat + 0x40000 + t.ntiles * 0x20000 - 1), 0xD6, 0, 0, v, 0, 0)
  | .mresume _ a =>
    let v := (rdU x a).1
    some (true, if v.toNat % 65536 ≠ 0 then .bad .align v else .ok, some (v.toNat, v.toNat + 0x40000 + t.ntiles * 0x20000 - 1), 0xD5, 0, 0, v, 0, 0)
  | _ => none

/-- R264, R266, R273, R280, R282, R285 to R292, R446: MMA, MZERO, MLDA, MSTA, MSAVE and MRESUME whose checks pass, with room in the command queue and for
their lock, retire with their command at the end of the queue of the core; MLDA allocates its tag, the others join the matrix stream; MMA.F4 leaves the record
that its MSCALE must match, and MSTA.SR steps the generators of the lanes whose columns it converts. MSCALE that matches completes the entry its MMA.F4 holds. Where the spec leaves it open, the model is as log entries 14, 34 say. -/
def Obligations.MatrixCommands : Prop :=
  ∀ (s s1 : State) (g g1 : Group) (tm : Team), s1.team? g.tid = some tm →
    (∀ (i : Instr) (sys : Bool) (span : Option (Nat × Nat)) (op : BitVec 8) (tile : BitVec 5) (f : BitVec 13) (a b c : W64),
      cmdRule (srcOf s1 g1) s1 tm i = some (sys, .ok, span, op, tile, f, a, b, c) → Issued i s g → poisonU (srcOf s g) (iUs i) = false →
      g.f4 = none → (if sys then performAll s g true else drainAll s g) = some (s1, g1) →
      ((s1.core g.core).cmds.map cmdEntries).sum + (if op = 0xD0 ∧ f.extractLsb' 9 4 = MmaTy.f4.code then 2 else 1) ≤ 64 →
      (span.isSome → (s1.core g.core).locks.length < 32) →
      ∃ t s2 e k w, exec i s = .next t ∧ SameMemory s1 t ∧ Retired i s2 e w t ∧ t.nextId = s1.nextId + 1 ∧
        t.core g.core = { s1.core g.core with
          cmds := (s1.core g.core).cmds ++ [k]
          pushAt := (coreClock s1 g.core + 1, g.sub)
          locks := (s1.core g.core).locks ++ span.toList.map fun y => ⟨none, y.1, y.2, s1.nextId⟩ } ∧
        (k.op, k.tile, k.f, k.aval, k.bval, k.cval) = (op, tile, f, a, b, c) ∧
        (k.grp, k.gid, k.tid, k.opId, k.scale, k.start) = (g.idx, g.gid, g.tid, s1.nextId, none, none) ∧
        (match i with
          | .mlda _ ta d _ _ sel => w = .async ∧ (k.tag, k.dreg, k.lanes) = (ta, d, active g1.regs sel) ∧
              e = { g1 with
                tags := g1.tags.setIfInBounds ta.toNat (some ⟨[d], none, active g1.regs sel, 1, [], [], false, g1.region.state == .open⟩) }
          | .msta _ _ _ _ _ r _ => w = .none ∧ k.seed = g1.sr.srseed.toList ∧
              e = { g1 with
                matrixS := { g1.matrixS with ops := g1.matrixS.ops ++ [(s1.nextId, g1.matrixS.closed + 1)] }
                sr := { g1.sr with srseed := e.sr.srseed } } ∧
              ∀ l : Lane, e.sr.srseed[l.val] = if r = .sr then
                  Nat.repeat (fun y => (srStep y).1)
                    (bits c.toNat 56 48 * (((List.range (bits c.toNat 40 32)).filter fun y => y % 64 == l.val).length)) (g1.sr.srseed[l.val])
                else g1.sr.srseed[l.val]
          | .mma _ d _ _ ty pair => w = .none ∧
              e = { g1 with
                matrixS := { g1.matrixS with ops := g1.matrixS.ops ++ [(s1.nextId, g1.matrixS.closed + 1)] }
                f4 := if ty = .f4 then some (d, a, pair) else none }
          | _ => w = .none ∧
              e = { g1 with matrixS := { g1.matrixS with ops := g1.matrixS.ops ++ [(s1.nextId, g1.matrixS.closed + 1)] } })) ∧
    (∀ (h : Hdr) (d : BitVec 5) (a b : UOp) (pair : Bool) (before after : List Cmd) (k : Cmd),
      let i := Instr.mscale h d a b
      let av := (rdU (srcOf s g) a).1
      let bv := (rdU (srcOf s g) b).1
      Issued i s g → poisonU (srcOf s g) [a, b] = false → g.f4 = some (d, av, pair) → performAll s g true = some (s1, g1) →
      mscaleChk s1 tm d.toNat av bv = .ok → (s1.core g.core).cmds = before ++ k :: after →
      k.gid = g.gid ∧ k.isF4 = true ∧ k.scale = none → (∀ y ∈ before, ¬(y.gid = g.gid ∧ y.isF4 = true ∧ y.scale = none)) →
      ∃ t s2, exec i s = .next t ∧ SameMemory s1 t ∧
        Retired i s2 { g1 with
          matrixS := { g1.matrixS with ops := g1.matrixS.ops ++ [(s1.nextId, g1.matrixS.closed + 1)] }
          f4 := none } .none t ∧
        (t.core g.core).cmds = before ++ { k with scale := some bv, scaleOp := s1.nextId } :: after)

/-- R264, R266, R297, R299, R302, R305: EGATH and ESCAT with lanes, whose handle and descriptor pass, lock their scratchpad range, pin the descriptor (REFCNT
grows by one) and join the gather stream with each lane's index, weight and bag boundary; with no lane they do nothing. ESWAP sets CUR of its handle to the
new descriptor, counts SWAPS and sets RETIRED of the old one, leaving the handle's upper bits. Where a record lies on another device (log 58,
DEDUCED), REFCNT grows first, asked for there or here, the operation joins once the handle still names the descriptor, and an ESWAP retires when
the home has answered. Where the spec leaves it open, the model is as log entry 58 says. -/
def Obligations.GatherCommands : Prop :=
  ∀ (h : Hdr) (d a : UOp) (b c : OOp) (sel seg : BitVec 3) (s s1 : State) (g g1 : Group),
    (∀ (i : Instr) (scatter : Bool), (i = .egath h d a b c sel seg ∧ scatter = false) ∨ (i = .escat h d a b sel ∧ scatter = true) →
      Issued i s g → poisonU (srcOf s g) [d, a] = false → poisonLanes (srcOf s g) (iOs i) (active g.regs sel) = 0 →
      (active g.regs sel = 0 → ∃ t, exec i s = .next t ∧ SameMemory s t ∧ Retired i s g .none t) ∧
      (∀ hd cur dp bs tid lo hi, active g.regs sel ≠ 0 → performAll s g true = some (s1, g1) →
        (s1.core g.core).locks.length < 32 →
        let hva := (rdU (srcOf s g) a).1
        let lanes := lanesOf (active g.regs sel)
        let first := fun l : Lane => decide (lanes.head? = some l) || (!scatter && (g.regs.m[seg.toNat]).getLsbD l.val)
        let bags := if scatter then lanes.length else (lanes.filter first).length
        let out : W64 := ((rdU (srcOf s g) d).1.setWidth 32).setWidth 64
        scratchSpan s1 g1 out (bits out.toNat 20 0) (bits out.toNat 20 0 + ((bags * 4 * (tdescOf bs).rowlen : Nat) : Int) - 1) = some (tid, lo, hi) →
        lo % 32 = 0 →
        let joined := fun (e : Group) (t : State) => ∃ s2 w,
          Retired i s2 { e with gatherS := { e.gatherS with ops := e.gatherS.ops ++ [(s1.nextId, e.gatherS.closed + 1)] } } .none t ∧
          t.core g.core = { s1.core g.core with
            locks := (s1.core g.core).locks ++ [⟨some tid, lo, hi, s1.nextId⟩]
            gathers := (s1.core g.core).gathers ++ [w] } ∧
          (w.opId, w.gid, w.tid, w.scatter, w.batch, w.descVa, w.out) = (s1.nextId, g.gid, tid, scatter, g1.gatherS.closed + 1, cur, lo) ∧
          (w.descRoute, w.descPa) = dp ∧
          w.lanes = lanes.map (fun l => (l.val, (rd32 (srcOf s g) b l).1, if scatter then 0 else (rd32 (srcOf s g) c l).1, first l))
        (g1.recStep = none → (∀ k, withDesc hva s1 g1 k = k hd cur dp bs) →
          (isRemote hd.1 = false → isRemote dp.1 = false → RouteOk s1 dp.1 →
            ∃ t, exec i s = .next t ∧ joined g1 t ∧
              homeNat t dp.1 (dp.2 + 48) 4 = (homeNat s1 dp.1 (dp.2 + 48) 4 + 1) % 2 ^ 32 ∧
              ∀ x, x < dp.2 + 48 ∨ dp.2 + 52 ≤ x → homeRead t dp.1 x = homeRead s1 dp.1 x) ∧
          (isRemote hd.1 = true → isRemote dp.1 = false → RouteOk s1 dp.1 →
            ∃ t e, exec i s = .next t ∧ t.group? g.gid = some e ∧ e.pc = g.pc ∧ e.recStep = some ⟨hva, hd, cur, dp, .pinned⟩ ∧
              homeNat t dp.1 (dp.2 + 48) 4 = (homeNat s1 dp.1 (dp.2 + 48) 4 + 1) % 2 ^ 32) ∧
          (let sid := streamTo s1 g1.part (dieOf g1.core) (routeDev dp.1) dp.2 5
           isRemote dp.1 = true → g1.remOp = none → canSend s1 sid 1 = true → otherStream s1 g1 sid (dp.2 / 32) = false →
            ∃ t e n, exec i s = .next t ∧ SameMemory s1 t ∧ t.group? g.gid = some e ∧ e.pc = g.pc ∧ e.recStep = some ⟨hva, hd, cur, dp, .pinning⟩ ∧
              e.remOp = some (sid, s1.fabric.nextTag, n))) ∧
        (∀ pz, g1.recStep = some ⟨hva, hd, cur, dp, .pinned⟩ → isRemote hd.1 = false → handleCur s1 hd = cur → recRead s1 g1 dp = .data bs pz →
          descBad bs = false → ∃ t, exec i s = .next t ∧ SameMemory s1 t ∧ joined { g1 with recStep := none, remOp := none, markOp := none } t))) ∧
    (∀ (hp dp op : Route × Nat) (u : UOp), let i := Instr.eswap h a u
      let hva := (rdU (srcOf s g) a).1
      let dva := (rdU (srcOf s g) u).1
      Issued i s g → poisonU (srcOf s g) [a, u] = false → performAll s g true = some (s1, g1) → (∀ p ∈ g.pages, p.2 = some .success) →
      (∀ (r : RecStep) (n : StreamId × Nat × Nat), g1.recStep = some r → r.handle = hva → r.stage = .swapped → isRemote r.desc.1 = true → g1.remOp = some (n.1, n.2.1, some n.2.2) →
        ∃ t s2, exec i s = .next t ∧ SameMemory s1 t ∧ Retired i s2 { g1 with recStep := none, remOp := none, markOp := none } .none t) ∧
      (g1.recStep = none → hva.toNat % 64 = 0 → dva.toNat % 64 = 0 → (recPlace s1 g1 hva).res = .ok hp.1 hp.2 → (recPlace s1 g1 dva).res = .ok dp.1 dp.2 →
      descBad (homeBytes s1 dp.1 dp.2 64) = false → RouteOk s1 hp.1 →
      let old := homeNat s1 hp.1 hp.2 8
      old % 64 = 0 → (recPlace s1 g1 (BitVec.ofNat 64 (old % 2 ^ 55))).res = .ok op.1 op.2 → op.1 = hp.1 → (op.2 + 64 ≤ hp.2 ∨ hp.2 + 64 ≤ op.2) →
      isRemote dp.1 = false → isRemote hp.1 = false →
      ∃ t s2, exec i s = .next t ∧ Retired i s2 g1 .none t ∧
        homeNat t hp.1 hp.2 8 = old / 2 ^ 55 * 2 ^ 55 + dva.toNat % 2 ^ 55 ∧
        homeNat t hp.1 (hp.2 + 8) 8 = (homeNat s1 hp.1 (hp.2 + 8) 8 + 1) % 2 ^ 64 ∧
        homeNat t op.1 (op.2 + 48) 8 = homeNat s1 op.1 (op.2 + 48) 8 % 2 ^ 32 + 2 ^ 32 + homeNat s1 op.1 (op.2 + 48) 8 / 2 ^ 33 * 2 ^ 33))

-- transactions and ordered speculation (R365 to R388)

/-- R366, R372, R376, R381 to R384, R386: TXBEG and SPECBEG outside a region open it with their lanes; in the wait of R379 they start the next attempt, irrevocable
where a lane was chosen alone; TXABT makes its lanes leave; TXSTAT writes the status word of R384. -/
def Sys2Proof.Machine.Claims.RegionsBegin : Prop :=
  ∀ (h : Hdr) (sel : BitVec 3) (ts : Bool) (dst : Option VReg) (a : UOp) (b : OOp) (s s1 : State) (g g1 : Group),
    let opened := fun (spec ts : Bool) (lanes : LMask) => { g1 with
      region := { Region.reset with
        state := .open, spec := spec, ts := ts, rpc := g.pc, rdepth := g1.wmDepth, rfmask := g.regs.exm, rlanes := lanes, alive := lanes
        start := Vector.ofFn fun l => if lanes.getLsbD l.val then s1.now / 34 * 8 + 7 else 0 }
      regs := { g1.regs with exm := lanes } }
    (Issued (.txbeg h sel ts) s g → performAll s g false = some (s1, g1) → g.region.state = .none →
      ∃ t, exec (.txbeg h sel ts) s = .next t ∧ SameMemory s1 t ∧ Retired (.txbeg h sel ts) s1 (opened false ts (active g.regs sel)) .none t) ∧
    (∀ i : Instr, (i = .txbeg h sel ts ∨ i = .specbeg h a b sel) → Issued i s g → performAll s g false = some (s1, g1) →
      g.region.state = .wait → g.pc = g.region.rpc →
      ∃ t e, exec i s = .next t ∧ SameMemory s1 t ∧ Retired i s1 e .none t ∧
        e = { g1 with region := { g1.region with
          state := if g.region.alone.isSome then .irrev else .open
          rlog := [], wlog := [], alive := g1.regs.exm, gone := 0, start := e.region.start
          turns := if g.region.alone.isSome then none else g1.region.turns } } ∧
        ∀ l : Lane, e.region.start[l.val] =
          if g.region.alone = none ∧ g1.regs.exm.getLsbD l.val = true then s1.now / 34 * 8 + 7 else g1.region.start[l.val]) ∧
    (∀ r pa, Issued (.specbeg h a b sel) s g → performAll s g false = some (s1, g1) → g.region.state = .none →
      poisonU (srcOf s1 g1) [a] = false → poisonLanes (srcOf s1 g1) [(false, b)] (active g.regs sel) = 0 → (∀ p ∈ g.pages, p.2 = some .success) →
      (domElem s1 g1 (rdU (srcOf s1 g1) a).1).res = .ok r pa → domBad (homeBytes s1 r pa 64) = false →
      (∀ l : Lane, (active g.regs sel).getLsbD l.val = true →
        ((rd32 (srcOf s1 g1) b l).1.toNat + 2 ^ 32 - homeNat s1 r (pa + 8) 4) % 2 ^ 32 < 2 ^ 31) →
      ∃ t e, exec (.specbeg h a b sel) s = .next t ∧ SameMemory s1 t ∧ Retired (.specbeg h a b sel) s1 e .none t ∧
        e = { opened true false (active g.regs sel) with region := { (opened true false (active g.regs sel)).region with
          domain := (rdU (srcOf s1 g1) a).1, domRoute := some (r, pa), order := e.region.order } } ∧
        ∀ l : Lane, e.region.order[l.val] = if (active g.regs sel).getLsbD l.val then (rd32 (srcOf s1 g1) b l).1 else 0) ∧
    (Issued (.txabt h sel) s g → g.region.state = .open →
      let m := active g.regs sel
      ∃ t e, exec (.txabt h sel) s = .next t ∧ SameMemory s t ∧ Moved s e (g.pc + 8) [] t ∧
        e = { g with
          regs := { g.regs with exm := g.regs.exm &&& ~~~m }
          wmHw := e.wmHw
          sr := { g.sr with txstatus := e.sr.txstatus }
          region := { g.region with
            left := g.region.left ||| m, gone := if g.region.spec then g.region.gone ||| m else g.region.gone
            rlog := g.region.rlog.filter (fun x => !m.getLsbD x.lane), wlog := g.region.wlog.filter (fun x => !m.getLsbD x.lane)
            aborts := e.region.aborts, due := e.region.due } } ∧
        ∀ l : Lane, (e.sr.txstatus[l.val], e.region.aborts[l.val]) =
          if m.getLsbD l.val then (7, 0) else (g.sr.txstatus[l.val], g.region.aborts[l.val])) ∧
    (Issued (.txstat h dst sel) s g →
      let r := g.region
      let live : LMask := match r.state with
        | .open => r.alive &&& ~~~(r.done ||| r.left ||| r.pend)
        | .irrev => (r.alone.map laneBit).getD 0
        | _ => 0
      let bit := fun (m : LMask) (l : Lane) (k : Nat) => if m.getLsbD l.val then 2 ^ k else 0
      let word := fun l : Lane => BitVec.ofNat 32 ((g.sr.txstatus[l.val]).toNat % 256 +
        if r.state = .none then 0
        else 256 * r.aborts[l.val] + bit r.done l 13 + bit live l 14 + bit r.pend l 15 +
          bit (r.irr ||| (if r.state = .irrev then live else 0)) l 16 + (if r.spec then bit r.rlanes l 17 else 0))
      ∃ t, exec (.txstat h dst sel) s = .next t ∧ SameMemory s t ∧
        Retired (.txstat h dst sel) s (writeV32 g dst (active g.regs sel) word).1 (writeV32 g dst (active g.regs sel) word).2 t)

/-- R366, R373, R374, R379, R380, R382, R386: TXEND in an open attempt that no lane waits beside, whose live lanes all commit, have no conflict among them and
validate: their logged bytes are at the home, the region ends with EXM as at its begin and m0 the lanes that have committed, and the next word follows. SPECEND does so
for its one live lane at its turn, which advances NEXT. In an irrevocable attempt both return the serial token and end the region as its lane's. Where the spec leaves it open, the model is as log entries 61, 62, 63, 101 say. -/
def Obligations.RegionsEnd : Prop :=
  ∀ (h : Hdr) (sel : BitVec 3) (s s1 : State) (g g1 : Group) (r : Route),
    let ends := fun (t : State) (x : Group) (done : LMask) => ∃ e, t.group? g.gid = some e ∧ e.pc = g.pc + 8 ∧ e.win = [] ∧
      e.region.state = .none ∧ e.regs.exm = g.region.rfmask ∧ e.regs = { x.regs with exm := e.regs.exm, m := x.regs.m.setIfInBounds 0 done } ∧
      e.sr.retired = g.sr.retired + 1 ∧ ∀ l : Lane, e.sr.txstatus[l.val] = if done.getLsbD l.val then 0 else g.sr.txstatus[l.val]
    let live := g.region.alive &&& ~~~(g.region.done ||| g.region.left ||| g.region.pend)
    (Issued (.txend h sel) s g → g.region.state = .open → g.region.spec = false → g.wmDepth = g.region.rdepth → g.region.pend = 0 →
      (waitTags g (attTags g)).bind (fun y => performAll s y false) = some (s1, g1) → live &&& ~~~active g1.regs sel = 0 →
      (∀ p, s1.part? g.part = some p → p.txLocks = []) →
      (∀ l m, l < m → m < 64 → live.getLsbD l = true → live.getLsbD m = true →
        meets (wSectors g.region m) (rSectors g.region l) = false ∧ meets (wSectors g.region m) (wSectors g.region l) = false ∧
        meets (rSectors g.region m) (wSectors g.region l) = false) →
      (∀ l < 64, live.getLsbD l = true → validLane s1 g.part g.region l = true) →
      ∃ t, exec (.txend h sel) s = .next t ∧ ends t g1 (g.region.done ||| live) ∧ (∀ n, n ≠ g.gid → t.group? n = s1.group? n) ∧
        ((∀ w ∈ g.region.wlog, w.wr.route = r ∧ w.lane < 64 ∧ live.getLsbD w.lane = true) → writesBack r = false → isRemote r = false →
          routeTier r ≠ some .host → RouteOk s1 r →
          ∀ x, homeRead t r x = (g.region.wlog.filter fun w => w.wr.addr == x).foldl
            (fun y w => (y &&& ~~~w.wr.mask) ||| (w.wr.val &&& w.wr.mask)) (homeRead s1 r x))) ∧
    (∀ (l : Lane) (pa : Nat), Issued (.specend h) s g → g.region.state = .open → g.region.spec = true → g.region.domRoute = some (r, pa) →
      g.wmDepth = g.region.rdepth → g.region.pend = 0 → g.region.gone = 0 →
      (waitTags g (attTags g)).bind (fun y => performAll s y false) = some (s1, g1) → live = laneBit l.val → (∀ p, s1.part? g.part = some p → p.txLocks = []) →
      (g.region.turns = none ∨ g.region.turns = some [l.val]) → homeNat s1 r (pa + 8) 4 = (g.region.order[l.val]).toNat → validLane s1 g.part g.region l.val = true → g.region.wlog = [] → RouteOk s1 r →
      ∃ t, exec (.specend h) s = .next t ∧ ends t g1 (g.region.done ||| live) ∧
        homeNat t r (pa + 8) 4 = ((g.region.order[l.val]).toNat + 1) % 2 ^ 32 ∧
        ∀ x, x < pa + 8 ∨ pa + 12 ≤ x → homeRead t r x = homeRead s1 r x) ∧
    (∀ l < 64, Issued (.txend h sel) s g → g.region.state = .irrev → g.region.spec = false → g.wmDepth = g.region.rdepth → g.region.pend = 0 →
      g.region.alone = some l → performAll s g false = some (s1, g1) →
      ∃ t, exec (.txend h sel) s = .next t ∧ SameMemory s1 t ∧ ends t g1 (g.region.done ||| laneBit l) ∧
        ∀ p, t.part? g.part = some p → p.serialHolder ≠ some g.gid) ∧
    (∀ l < 64, ∀ pa, Issued (.specend h) s g → g.region.state = .irrev → g.region.spec = true → g.region.domRoute = some (r, pa) →
      g.wmDepth = g.region.rdepth → g.region.pend = 0 → g.region.alone = some l → performAll s g false = some (s1, g1) → RouteOk s1 r →
      ∃ t, exec (.specend h) s = .next t ∧ ends t g1 (g.region.done ||| laneBit l) ∧
        homeNat t r (pa + 8) 4 = ((g.region.order[l]?.getD 0).toNat + 1) % 2 ^ 32 ∧
        ∀ p, t.part? g.part = some p → p.serialHolder ≠ some g.gid)

-- where instructions that order older accesses complete

/-- R251 to R254: with nothing of the group under way, a vector store outside an attempt retires where its operands are unmarked, every element of its
active lanes passes its checks and the store buffer has room. -/
def Sys2Proof.Machine.Claims.StoresRetire : Prop :=
  ∀ (i : Instr) (s : State) (g : Group) (d : OOp) (rnd : SRnd) (rel : Option Scope) (nt amax : Bool) (sel : BitVec 3) (f : MFmt)
    (global : Bool) (refs : Lane → List Place),
    storeHead i = some (d, rnd, rel, nt, amax) → accessRule (srcOf s g) s g i = some (sel, f, global, refs) → Issued i s g →
    g.region.state ≠ .open → poisonLanes (srcOf s g) (iOs i) (active g.regs sel) = 0 → (∀ p ∈ g.pages, p.2 = some .success) →
    (∀ l ∈ lanesOf (active g.regs sel), ∀ y ∈ refs l, ∃ r a, y.2.2.2 = .ok r a) → Quiet s g → stbufFull s g = false →
    ∃ t s2 e, exec i s = .next t ∧ SameMemory s t ∧ Retired i s2 e .none t

/-- R57, R84 to R90, R243, R244, R246, R251 to R254: what vector stores put into the store buffer, and where they retire. Where the spec leaves it open, the model is as log entries 13, 23 say. -/
def Obligations.VectorStores : Prop :=
  Claims.NarrowingRule ∧ Claims.VectorStores ∧ Claims.StoresRetire

/-- R255, R256: with nothing of the group under way, SLD of an unmarked address that passes its checks on this device retires with its tag allocated, and
SST of an unmarked operand retires where the store buffer has room, outside an attempt. -/
def Sys2Proof.Machine.Claims.ScalarMemoryRetires : Prop :=
  ∀ (h : Hdr) (ta : BitVec 3) (d : BitVec 6) (u a : UOp) (off : BitVec 16) (f : MFmt) (o : Option Scope) (nt : Bool) (s : State) (g : Group)
    (r : Route) (pa : Nat),
    let n := if f = .n64 then 8 else if f = .n32 then 4 else if f = .n16 then 2 else 1
    let ea := ((rdU (srcOf s g) a).1 + off.signExtend 64).toNat
    g.region.state ≠ .open → (∀ p ∈ g.pages, p.2 = some .success) → Quiet s g →
    (Issued (.sld h ta d a off f o nt) s g → poisonU (srcOf s g) [a] = false → checkGlobal s g ea n ⟨true, false, false⟩ = .ok r pa →
      isRemote r = false → ∃ t s2 tags, exec (.sld h ta d a off f o nt) s = .next t ∧
        Retired (.sld h ta d a off f o nt) s2 { g with tags := tags } .async t) ∧
    (Issued (.sst h u a off f o nt) s g → poisonU (srcOf s g) [u, a] = false → checkGlobal s g ea n ⟨false, true, false⟩ = .ok r pa →
      stbufFull s g = false → ∃ t s2 e, exec (.sst h u a off f o nt) s = .next t ∧ SameMemory s t ∧ Retired (.sst h u a off f o nt) s2 e .none t)

/-- R251, R255, R256: SLD and SST, and where they retire. Where the spec leaves it open, the model is as log entries 13, 15 say. -/
def Obligations.ScalarMemory : Prop :=
  Claims.ScalarLoad ∧ Claims.ScalarStore ∧ Claims.ScalarMemoryRetires

/-- R332 to R338: with nothing of the group under way, an atomic outside an attempt retires where its operands are unmarked, its lanes pass their checks, no
lane asks of the host what the host does not do, and the store buffer has room. -/
def Sys2Proof.Machine.Claims.AtomicsRetire : Prop :=
  ∀ (i : Instr) (s : State) (g : Group) (f : AFun) (wide : Bool) (ord : AOrd) (sel : BitVec 3) (a b : OOp) (c : Option OOp) (ret : Option ARet),
    atomHead i = some (f, wide, ord, sel, a, b, c, ret) → Issued i s g → g.region.state ≠ .open →
    poisonLanes (srcOf s g) (iOs i) (active g.regs sel) = 0 → (∀ p ∈ g.pages, p.2 = some .success) →
    (∀ l ∈ lanesOf (active g.regs sel), ∃ r pa, atomPlace s g wide l (rd64 (srcOf s g) a l).1 = .ok r pa ∧
      (routeTier r = some .host → f = .cas ∨ ∃ x, f = .op .add x ∨ f = .op .xchg x)) →
    Quiet s g → stbufFull s g = false →
    ∃ t s2 e, exec i s = .next t ∧ SameMemory s t ∧ Retired i s2 e (if ret.isSome then .async else .none) t

/-- R38, R332 to R338: what atomics put into the store buffer, and where they retire. Where the spec leaves it open, the model is as log entry 13 says. -/
def Obligations.AtomicsJoinBuffer : Prop :=
  Claims.AtomicsJoinBuffer ∧ Claims.AtomicsRetire

/-- The slot named passes its capability checks for a right and a number of lanes: the block of `q'` is reached, in state `s0` (R347, R444). -/
def Sys2Proof.Machine.Reaches (s s0 : State) (g : Group) (q : BitVec 6) (right : Bool → Bool → Bool) (n : Nat) (q' : QAt) : Prop :=
  ∀ k, withQueue q right n s g k = k s0 q'

/-- R347 to R355, R362, R363: with nothing of the group under way and its block sound, of the partition and not known to be corrupt: a push retires where the
queue has room and no push is under way, its data are unmarked and its slots translate; a pop where the queue has elements; QSTAT always; QINIT of a
place that passes; TASKWAIT without BLOCK where the table has a ready entry; TASKDONE of the queue whose entry the group holds. -/
def Sys2Proof.Machine.Claims.QueuesRetire : Prop :=
  ∀ (i : Instr) (h : Hdr) (s s0 : State) (g : Group) (scal try' : Bool) (d : Nat) (q : BitVec 6) (sel : BitVec 3) (dst : Option SDst) (a b c : UOp)
    (q' : QAt) (places : List (Route × Nat)), Quiet s g → g.spoilt = false → g.wait = .none →
    let ls := qLanes g scal sel
    let n := ls.length
    let x := qBlkOf (qRead s0 q'.route q'.pa)
    let sound := qBad s0 q'.route q'.pa = false ∧ x.owner = g.part % 32
    (pushForm i = some (scal, try', d, q, sel) → Issued i s g → ls ≠ [] → Reaches s s0 g q (fun p _ => p) (if scal || try' then 0 else n) q' → sound →
      elemStops g x scal d (if try' then 0 else n) = none → x.resv = x.tail → n ≤ x.space → (try' = true → n ≤ q'.allow) →
      pushHasPois g scal d x.esz (listMask ls) = false → slotsFrom s0 g q' x needW x.tail n = .ok places →
      ∃ t s2 e, exec i s = .next t ∧ Retired i s2 e .none t) ∧
    (popForm i = some (scal, try', d, q, sel) → Issued i s g → ls ≠ [] → Reaches s s0 g q (fun _ p => p) 0 q' → sound → x.task = false →
      elemStops g x scal d (if try' then 0 else n) = none → n ≤ x.count → slotsFrom s0 g q' x needR x.head n = .ok places →
      (scal = true ∨ inPlaceBusy g ((List.range (x.esz / 4)).map fun k => BitVec.ofNat 7 (d + k)) = false) →
      ∃ t s2 e, exec i s = .next t ∧ Retired i s2 e .none t) ∧
    (Issued (.qstat h dst q) s g → Reaches s s0 g q (fun p r => p || r) 0 q' → sound →
      ∃ t s2 e w, exec (.qstat h dst q) s = .next t ∧ SameMemory s t ∧ Retired (.qstat h dst q) s2 e w t) ∧
    (∀ r pa, Issued (.qinit h a b c) s g → poisonU (srcOf s g) [a, b, c] = false →
      let va := (rdU (srcOf s g) a).1
      qinitIll s g va (rdU (srcOf s g) b).1 (rdU (srcOf s g) c).1 = false → va.toNat % 64 = 0 → (∀ p ∈ g.pages, p.2 = some .success) →
      (if isAlias va then checkScratch s g (aliasAddr va) 64 else xlat s g va.toNat ⟨false, true, false⟩) = .ok r pa →
      (isAlias va = false → (routeTier r = some .hbm ∨ routeTier r = some .vault) ∧ isHw r = true) →
      ∃ t s2, exec (.qinit h a b c) s = .next t ∧ Retired (.qinit h a b c) s2 g .none t) ∧
    (∀ e, Issued (.taskwait h q) s g → g.task = none → Reaches s s0 g q (fun _ p => p) 0 q' → sound → x.task = true → x.block = false →
      x.count = 0 → ((taskTab? s0 g.part q'.route q'.pa).bind fun y => readyTask [] y.ents) = some e →
      ∃ t s2 e, exec (.taskwait h q) s = .next t ∧ Retired (.taskwait h q) s2 e .none t ∧ e.task.isSome = true) ∧
    (∀ k, Issued (.taskdone h q) s g → g.task = some (q'.route, q'.pa, k) → Reaches s s0 g q (fun _ p => p) 0 q' → sound → x.task = true →
      ∃ t s2, exec (.taskdone h q) s = .next t ∧ Retired (.taskdone h q) s2 { g with task := none } .none t)

/-- R347 to R355, R362, R363: QSTAT, QINIT, TASKWAIT and TASKDONE, and where every queue instruction retires. Where the spec leaves it open, the model is as log entries 49, 50 say. -/
def Obligations.QueueObjects : Prop :=
  Claims.QueueObjects ∧ Claims.QueuesRetire

/-- R264, R266, R268, R273, R280 to R292, R299, R305, R446: with nothing of the group under way, an engine instruction whose operands are unmarked and whose
checks pass retires where its core has room for its locks and its command: CPY, MMA, MZERO, MLDA, MSTA, MSAVE, MRESUME, the MSCALE that its MMA.F4 waits
for, EGATH, ESCAT and ESWAP. -/
def Sys2Proof.Machine.Claims.EnginesRetire : Prop :=
  ∀ (i : Instr) (h : Hdr) (sn : BitVec 6) (x : Xform) (dt : BitVec 5) (d a u : UOp) (b c : OOp) (sel seg : BitVec 3) (s : State) (g : Group) (tm : Team),
    Quiet s g → s.team? g.tid = some tm →
    let ns := (List.range 6).map fun k => sn + BitVec.ofNat 6 k
    let desc := ns.map g.regs.getS
    let y := copyD desc
    (Issued (.cpy h sn x) s g → (∀ n ∈ ns, g.regs.getSP n = false) → copyIll x y desc = false → copyAlign x y = none → y.dring = false →
      (copySpan s g y.ssp y.src (srcRows x y) (srcRowBytes x y) y.sstride).isSome = true →
      (copySpan s g y.dsp y.dst (dstShape x y).1 (dstShape x y).2 y.dstride).isSome = true →
      (xTable x = true → (copySpan s g true (BitVec.ofNat 64 y.dlen) 1 (4 * y.rows) 0).isSome = true) → (s.core g.core).locks.length + 3 ≤ 32 →
      ∃ t s2 e, exec (.cpy h sn x) s = .next t ∧ SameMemory s t ∧ Retired (.cpy h sn x) s2 e .none t) ∧
    (∀ (sys : Bool) (span : Option (Nat × Nat)) (op : BitVec 8) (tile : BitVec 5) (f : BitVec 13) (av bv cv : W64),
      cmdRule (srcOf s g) s tm i = some (sys, .ok, span, op, tile, f, av, bv, cv) → Issued i s g → poisonU (srcOf s g) (iUs i) = false → g.f4 = none →
      ((s.core g.core).cmds.map cmdEntries).sum + 2 ≤ 64 → (s.core g.core).locks.length < 32 →
      ∃ t s2 e w, exec i s = .next t ∧ SameMemory s t ∧ Retired i s2 e w t) ∧
    (∀ pair, Issued (.mscale h dt d a) s g → poisonU (srcOf s g) [d, a] = false → g.f4 = some (dt, (rdU (srcOf s g) d).1, pair) →
      mscaleChk s tm dt.toNat (rdU (srcOf s g) d).1 (rdU (srcOf s g) a).1 = .ok →
      ∃ t s2 e, exec (.mscale h dt d a) s = .next t ∧ SameMemory s t ∧ Retired (.mscale h dt d a) s2 e .none t) ∧
    (∀ (scatter : Bool) (hd dp : Route × Nat) (cur : BitVec 64) (bs : List Byte),
      (i = .egath h d a b c sel seg ∧ scatter = false) ∨ (i = .escat h d a b sel ∧ scatter = true) →
      Issued i s g → poisonU (srcOf s g) [d, a] = false → poisonLanes (srcOf s g) (iOs i) (active g.regs sel) = 0 → active g.regs sel ≠ 0 →
      g.recStep = none → (∀ k, withDesc (rdU (srcOf s g) a).1 s g k = k hd cur dp bs) → isRemote hd.1 = false → isRemote dp.1 = false →
      (s.core g.core).locks.length < 32 →
      let lanes := lanesOf (active g.regs sel)
      let bags := if scatter then lanes.length
        else (lanes.filter fun l => decide (lanes.head? = some l) || (g.regs.m[seg.toNat]).getLsbD l.val).length
      let out : W64 := ((rdU (srcOf s g) d).1.setWidth 32).setWidth 64
      (∃ tid lo hi, scratchSpan s g out (bits out.toNat 20 0) (bits out.toNat 20 0 + ((bags * 4 * (tdescOf bs).rowlen : Nat) : Int) - 1) =
        some (tid, lo, hi) ∧ lo % 32 = 0) →
      ∃ t s2 e, exec i s = .next t ∧ Retired i s2 e .none t) ∧
    (∀ hp dp : Route × Nat, Issued (.eswap h a u) s g → poisonU (srcOf s g) [a, u] = false → (∀ p ∈ g.pages, p.2 = some .success) →
      let hva := (rdU (srcOf s g) a).1
      let dva := (rdU (srcOf s g) u).1
      g.recStep = none → hva.toNat % 64 = 0 → dva.toNat % 64 = 0 → (recPlace s g hva).res = .ok hp.1 hp.2 → (recPlace s g dva).res = .ok dp.1 dp.2 →
      descBad (homeBytes s dp.1 dp.2 64) = false →
      isRemote hp.1 = false → isRemote dp.1 = false →
      (∃ op : Route × Nat, isRemote op.1 = false ∧ homeNat s hp.1 hp.2 8 % 64 = 0 ∧ (recPlace s g (BitVec.ofNat 64 (homeNat s hp.1 hp.2 8 % 2 ^ 55))).res = .ok op.1 op.2) →
      ∃ t s2, exec (.eswap h a u) s = .next t ∧ Retired (.eswap h a u) s2 g .none t)

/-- R261 to R271: BCLOSE, BWAIT and CPY, and where every engine instruction retires. Where the spec leaves it open, the model is as log entries 14, 34, 52 say. -/
def Obligations.BatchesAndCopies : Prop :=
  Claims.BatchesAndCopies ∧ Claims.EnginesRetire

/-- R366, R376, R379, R381, R382, R386: with nothing of the group under way, TXBEG outside a region, SPECBEG outside a region whose domain passes and whose orders
have not gone by, and either at the start of its next attempt retire; TXEND of an attempt whose lanes wait for no tag, no other commit
holding a lock, and TXEND and SPECEND of an irrevocable one end it. -/
def Sys2Proof.Machine.Claims.RegionsRetire : Prop :=
  ∀ (h : Hdr) (sel : BitVec 3) (ts : Bool) (a : UOp) (b : OOp) (s : State) (g : Group), Quiet s g →
    let fin := fun (t : State) => ∃ e, t.group? g.gid = some e ∧ e.pc = g.pc + 8 ∧ e.region.state = .none ∧ e.sr.retired = g.sr.retired + 1
    (Issued (.txbeg h sel ts) s g → g.region.state = .none →
      ∃ t e, exec (.txbeg h sel ts) s = .next t ∧ Retired (.txbeg h sel ts) s e .none t ∧ e.region.state = .open) ∧
    (∀ i : Instr, (i = .txbeg h sel ts ∨ i = .specbeg h a b sel) → Issued i s g → g.region.state = .wait → g.pc = g.region.rpc →
      ∃ t e, exec i s = .next t ∧ Retired i s e .none t) ∧
    (∀ r pa, Issued (.specbeg h a b sel) s g → g.region.state = .none → poisonU (srcOf s g) [a] = false →
      poisonLanes (srcOf s g) [(false, b)] (active g.regs sel) = 0 → (∀ p ∈ g.pages, p.2 = some .success) →
      (domElem s g (rdU (srcOf s g) a).1).res = .ok r pa → domBad (homeBytes s r pa 64) = false →
      (∀ l : Lane, (active g.regs sel).getLsbD l.val = true →
        ((rd32 (srcOf s g) b l).1.toNat + 2 ^ 32 - homeNat s r (pa + 8) 4) % 2 ^ 32 < 2 ^ 31) →
      ∃ t e, exec (.specbeg h a b sel) s = .next t ∧ Retired (.specbeg h a b sel) s e .none t ∧ e.region.state = .open) ∧
    (∀ l < 64, g.wmDepth = g.region.rdepth → g.region.pend = 0 → (∀ p, s.part? g.part = some p → p.txLocks = []) →
      (Issued (.txend h sel) s g → g.region.state = .open → g.region.spec = false → attTags g = [] →
        g.region.alive &&& ~~~(g.region.done ||| g.region.left) = laneBit l → active g.regs sel = laneBit l →
        validLane s g.part g.region l = true → ∃ t, exec (.txend h sel) s = .next t ∧ fin t) ∧
      (Issued (.txend h sel) s g → g.region.state = .irrev → g.region.spec = false → g.region.alone = some l →
        ∃ t, exec (.txend h sel) s = .next t ∧ fin t) ∧
      (∀ r pa, Issued (.specend h) s g → g.region.state = .irrev → g.region.spec = true → g.region.domRoute = some (r, pa) → g.region.alone = some l →
        ∃ t, exec (.specend h) s = .next t ∧ fin t))

/-- R366, R372, R376, R379, R381 to R384, R386: regions open, are left and are read; and where the instructions of a region retire. Where the spec leaves it open, the model is as log entry 59 says. -/
def Obligations.RegionsBegin : Prop :=
  Claims.RegionsBegin ∧ Claims.RegionsRetire

-- device steps: runs, deliveries and waits

/-- R39, R40, R65, R137, R139, R154, R155, R192, R417: steps of runs. RUN_FETCH of a one-word run whose line is cached makes it whole; one whose word cannot be
fetched ends there; ICACHE_FILL brings the line a fetch of the core waits for; RUN_SELECT takes the ready group that has waited longest, then the lower slot;
SECTOR_RETURN writes a delivery's elements together and frees the tag with the last one, LATE_SECTOR_RETURN the same in the context store; YIELD_EXPIRE makes a
group ready again; WATCHDOG stops a group whose wait has lasted 2^30 issue clocks. Where the spec leaves it open, the model is as log entries 15, 16, 18, 69, 88, 92 say. -/
def Obligations.RunSteps : Prop :=
  ∀ (s : State) (g : Group) (va : W64) (r : Route) (pa : Nat) (l : ILine), s.group? g.gid = some g →
    (wantsRun g = true → g.buf = [] → g.bufRun < 24 →
      (nextFetch s g = (va, .ok r pa) → failedPage g (va.toNat / 65536) = false → codeLine s g.core r (pa / 128) = some l →
        let w : W64 := BitVec.ofNat 64 (leNat ((l.data.drop (pa % 128)).take 8))
        hasLiteral w = false → w.getLsbD 55 = true →
        ∃ t, exec (.runFetch g.gid) s = .next t ∧ SameMemory s t ∧ t.group? g.gid = some { g with buf := [w], fetched := true }) ∧
      (∀ x, nextFetch s g = (va, x) → (∀ r pa, x ≠ .ok r pa) →
        ∃ t, exec (.runFetch g.gid) s = .next t ∧ SameMemory s t ∧
          t.group? g.gid = some { g with
            fetched := true
            bufStop := some ⟨va, decide (x = .over) &&
              !(failedPage g (va.toNat / 65536) || g.codeServed.contains (va.toNat / 65536) || priOff s g.part)⟩ })) ∧
    (∀ core line part, (s.groups.filter (·.core == core)).findSome?
        (fun g => ((missedLine s g).filter fun x => x.2 == line).map fun x => (g.part, x)) = some (part, r, line) →
      isRemote r = false →
      ∃ t d, exec (.icacheFill core line) s = .next t ∧ t.groups = s.groups ∧ t.teams = s.teams ∧ t.dev = s.dev ∧
        (t.core core).icache.find? (sameCode r line) = some ⟨r, line, d⟩ ∧
        (routeTier r ≠ some .host → d = (List.range 128).map fun k => homeRead s r (line * 128 + k))) ∧
    (groupReady s g = true → (∀ x ∈ s.groups, x.core = g.core → x.sub = g.sub → x.delivering = false) →
      (∀ x ∈ s.groups, x.core = g.core → x.sub = g.sub → groupReady s x = true → x = g ∨
        g.readySince < x.readySince ∨ (g.readySince = x.readySince ∧ g.slot < x.slot)) →
      exec (.runSelect g.core g.sub) s = .next (s.setGroup { g with delivering := true, ready := false })) ∧
    (∀ k n j x es, (deliveries g)[k]? = some (n, j) → g.tags[n]?.join = some x → x.sects[j]? = some (Landing.vec es) →
      es.Pairwise (fun a b => a.reg ≠ b.reg ∨ a.lane ≠ b.lane) →
      ∃ t e, exec (.sectorReturn g.gid k) s = .next t ∧ SameMemory s t ∧ t.group? g.gid = some e ∧
        e = { g with
          regs := { g.regs with v := e.regs.v, vp := e.regs.vp }
          tags := g.tags.setIfInBounds n
            (if x.sects.length = 1 ∧ x.await = 0 then none else some { x with sects := x.sects.eraseIdx j }) } ∧
        (∀ y ∈ es, x.deadV.contains y.reg = false → (e.regs.getV y.reg y.lane, e.regs.getVP y.reg y.lane) = (y.val, y.pois)) ∧
        (∀ (q : VReg) (m : Lane), (∀ y ∈ es, y.reg = q → y.lane = m → x.deadV.contains q = true) →
          (e.regs.getV q m, e.regs.getVP q m) = (g.regs.getV q m, g.regs.getVP q m))) ∧
    (∀ (gid k : Nat), exec (.lateSectorReturn gid k) s = .next { s with saved := s.saved.map fun x =>
      if x.g.gid = gid then { x with g := match (deliveries x.g)[k]? with
        | some y => landTag x.g y.1 y.2
        | none => x.g } else x }) ∧
    (∀ n, g.wait = .yielded n → n ≤ g.sr.clk2 → exec (.yieldExpire g.gid) s = .next (s.setGroup { g with wait := .none })) ∧
    (∀ i n, headInstr g = some i → g.waitFrom = some n → g.wait = .none → g.evict = none → n + 2 ^ 31 ≤ g.sr.clk2 → g.region.state ≠ .open →
      ((∃ h k, i = .twait h k) ∨ (∃ h a x, i = .bwait h a x) ∨ (iTC i ≠ 0 ∧ (g.tags[(iTC i).toNat]?.join).isSome)) →
      exec (.watchdog g.gid) s = .next (groupStop s g ⟨0x8000, g.regs.exm, 0, false, none⟩))

/-- R128, R356 to R358, R372, R379, R380, R386, R388, R445: steps of waits. WAITER_NOTIFY marks the parked instruction; CORE_WAKE restarts the core's clocks
and re-execution waits 200 of them; QUEUE_HOME_OP, PARK_REPOLL and SPEC_TURN execute the parked instruction; TX_RETRY starts the next attempt with the lanes
that are due, or with the lane chosen alone once the group holds the token, which SERIAL_TOKEN_GRANT gives to the first in line; ORDER_NUMBER_RETIRE
takes the turn of a number handed to its domain; TASK_DISPATCH gives a ready entry to the group that has waited longest; LINE_FILL
gives a line its slice's floor as version, and no line's version falls. Where the spec leaves it open, the model is as log entries 35, 51, 60, 63, 84 say. -/
def Obligations.WaitSteps : Prop :=
  ∀ (s : State) (g : Group) (r : Route) (pa k : Nat) (p : Part), s.group? g.gid = some g → s.part? p.id = some p →
    (∀ core, s.notes[k]? = some (p.id, core, r, pa) →
      ∃ t, exec (.waiterNotify k) s = .next t ∧ SameMemory s t ∧ t.notes = s.notes.eraseIdx k ∧
        t.group? g.gid = some (match g.wait with
          | .parked r' pa' _ => if g.part = p.id ∧ g.core = core ∧ samePt (r', pa') (r, pa) = true then { g with wait := .parked r' pa' true } else g
          | _ => g)) ∧
    ((s.core k).asleep = true → coreNotified s k = true →
      exec (.coreWake k) s = .next (s.setCore k { s.core k with asleep := false, wakeIn := some 400 })) ∧
    (∀ i, headInstr g = some i →
      ((∃ h d q sel, i = .qpush h d q sel) ∨ (∃ h d q sel, i = .qpop h d q sel) ∨ (∃ h d q, i = .sqpush h d q) ∨ (∃ h d q, i = .sqpop h d q) ∨
        (∃ h a b sc sp, i = .barw h a b sc sp) ∨ (∃ h a sc sp, i = .bar h a sc sp) ∨ (∃ h q, i = .taskwait h q) ∨ (∃ h a x, i = .cpy h a x)) →
      (firstParked s g = true → coreAwake s g.core = true →
        ∃ t, exec i { s with cur := some g.gid } = .next t ∧ exec (.queueHomeOp g.gid) s = .next t) ∧
      (g.wait = .parked r pa false → gateParked s g = false → clocksStopped s g.core = false → g.parkedClk + 2048 ≤ g.sr.clk2 →
        ∃ t, exec i { s with cur := some g.gid } = .next t ∧ exec (.parkRepoll g.gid) s = .next t)) ∧
    (∀ h b, headInstr g = some (.specend h) → g.wait = .parked r pa b → turnReady s g = true → coreAwake s g.core = true →
      ∃ t, exec (.specend h) { s with cur := some g.gid } = .next t ∧ exec (.specTurn g.gid) s = .next t) ∧
    (g.wait = .retry → g.region.spec = false →
      (∀ l0 : Lane, g.region.alone = none → g.region.pend &&& g.region.irr = 0 → g.region.pend.getLsbD l0.val = true →
        (∀ l : Lane, g.region.pend.getLsbD l.val = true → g.region.due[l0.val] ≤ g.region.due[l.val]) → g.region.due[l0.val] ≤ g.sr.clk2 →
        let m := maskOf fun l => g.region.pend.getLsbD l.val && decide (g.region.due[l.val] ≤ g.region.due[l0.val])
        exec (.txRetry g.gid) s = .next (s.setGroup { g with
          regs := { g.regs with exm := m }, region := { g.region with pend := g.region.pend &&& ~~~m }, wait := .none })) ∧
      (∀ l : Lane, g.region.alone = some l.val → g.part = p.id → p.serialHolder = some g.gid →
        ∃ t, exec (.txRetry g.gid) s = .next t ∧ SameMemory s t ∧ t.group? g.gid = some { g with
          regs := { g.regs with exm := laneBit l.val }, region := { g.region with pend := g.region.pend &&& ~~~laneBit l.val }
          wait := .none })) ∧
    (∀ n rest, p.serialHolder = none → p.serialQueue = n :: rest →
      ∃ t, exec (.serialTokenGrant p.id) s = .next t ∧ SameMemory s t ∧
        t.part? p.id = some { p with serialHolder := some n, serialQueue := rest }) ∧
    (∀ o, p.orders[k]? = some (r, pa, o) → homeNat s r (pa + 8) 4 = o.toNat → RouteOk s r →
      ∃ t q, exec (.orderNumberRetire p.id k) s = .next t ∧ t.part? p.id = some q ∧ q.orders = p.orders.eraseIdx k ∧
        homeNat t r (pa + 8) 4 = (o.toNat + 1) % 2 ^ 32 ∧ ∀ x, x < pa + 8 ∨ pa + 12 ≤ x → homeRead t r x = homeRead s r x) ∧
    (∀ tt w e, p.tasks = [tt] → tt.waiters = [w] → readyTask [] tt.ents = some e → 256 ≤ tt.ents.length → qBad s tt.route tt.addr = false →
      ∃ t, exec (.taskDispatch p.id 0) s = .next t ∧ SameMemory s t ∧ t.notes = s.notes ++ notesTo s p.id tt.route tt.addr [w] ∧
        t.part? p.id = some { p with waiters := p.waiters.filter fun x => x.2.2 != w, tasks := [{ tt with
          waiters := [], ents := tt.ents.map fun x => if x.num = e.num then { x with given := some w } else x }] }) ∧
    (∀ line, Tab.wf none p.lines = true → Tab.wf 0 p.floors = true → p.sectors ≠ [] → Tab.get none p.lines line = none →
      ∃ t q h, exec (.lineFill p.id line) s = .next t ∧ t.dev = s.dev ∧ t.part? p.id = some q ∧ Tab.get none q.lines line = some h ∧
        ((∀ x ∈ p.hostCopies, x.dirty = 0) → SameMemory s t) ∧
        lineVersion t p.id (.glob .hbm .hw .clear 0 0) line = Tab.get 0 q.floors (homeSlice q (line * 128)) ∧
        ∀ n, n * 128 < 0x10000000000 →
          lineVersion s p.id (.glob .hbm .hw .clear 0 0) n ≤ lineVersion t p.id (.glob .hbm .hw .clear 0 0) n)

/-- R134, R169 to R171, R421 to R426: steps of eviction. A group chosen to leave, outside an attempt, with its tags free (or, for TAG_DRAIN_TIMEOUT, 2000 issue
clocks after they began to drain) and another group of its team resident, goes to the context store with all it holds but what it was delivering; the counter of evictions grows.
GROUP_READMIT of the unit whose turn it is brings it back, armed for a step stop. GROW_EVICT evicts the youngest group of a sub-core whose groups are
all blocked in GROW with none served, GROW_STARVATION_TIMEOUT the youngest when the oldest has waited 10000 issue clocks. Where the spec leaves it open, the model is as log entries 79, 80, 81 say. -/
def Obligations.EvictionSteps : Prop :=
  ∀ (s : State) (g : Group) (p : Part), s.group? g.gid = some g → s.part? g.part = some p →
    (∀ (i : Instr) (b : Bool),
      (i = .groupEviction g.gid ∧ g.tags = Vector.replicate 8 none) ∨
        (i = .tagDrainTimeout g.gid ∧ ∃ n, g.drainFrom = some n ∧ n + 4000 ≤ g.sr.clk2) →
      g.evict = some b → g.exiting = false → mustFinish s g = false → g.region.state ≠ .open → g.merge = [] →
      (∃ x ∈ s.groups, x.tid = g.tid ∧ x.gid ≠ g.gid) →
      ∃ t q x, exec i s = .next t ∧ SameMemory s t ∧ t.group? g.gid = none ∧ t.groups = s.groups.filter (fun y => y.gid != g.gid) ∧
        t.saved = s.saved ++ [x] ∧ x.byGrow = b ∧ x.order = s.nextId ∧
        x.g = { g with
          wait := x.g.wait, rob := [], buf := [], bufStop := none, fetched := false, bufRun := g.runPos, begun := false
          delivering := false, markOp := none, waitFrom := none, spoilt := false
          evict := none, drainFrom := none, slot := 8 } ∧
        (x.g.wait = g.wait ∨ x.g.wait = .none) ∧ t.part? g.part = some q ∧ q.evicts = (p.evicts + 1) % 2 ^ 64 ∧
        ∀ w ∈ q.waiters, w.2.2 ≠ g.gid) ∧
    (∀ x tm, s.saved.find? (·.g.gid == x.g.gid) = some x → nextReturn s x.g.core = some x → s.team? x.g.tid = some tm → tm.resident = true →
      s.group? x.g.gid = none →
      ∃ t slot, exec (.groupReadmit x.g.gid) s = .next t ∧ SameMemory s t ∧ slot < 8 ∧
        t.saved = s.saved.filter (fun y => y.g.gid != x.g.gid) ∧ (t.core x.g.core).asleep = false ∧
        t.group? x.g.gid = some { x.g with
          slot := slot, born := s.nextId, ready := false, startKnown := none, preempt := x.g.trap.pn
          wait := match x.g.wait with
            | .grow _ => .none
            | w => w
          trap := { x.g.trap with armed := true, stepped := false } }) ∧
    (let mates := s.groups.filter fun x => x.core == g.core && x.sub == g.sub && decide (x.slot < 8)
     g ∈ mates → (∀ x ∈ mates, x = g ∨ x.born < g.born) →
      ((∀ x ∈ mates, (∃ n, x.wait = .grow n) ∧ x.evict = none ∧ growFits s x = false) → growRoom s g = true →
        exec (.growEvict g.core g.sub) s = exec (.groupEviction g.gid) (s.setGroup { g with evict := some true }) ∧
        ∃ t, exec (.growEvict g.core g.sub) s = .next t) ∧
      (∀ o ∈ mates, o.gid ≠ g.gid → s.group? o.gid = some o → (∀ x ∈ mates, x = o ∨ o.born < x.born) → (∃ n, o.wait = .grow n) →
        o.waitFrom.getD o.sr.clk2 + 20000 ≤ o.sr.clk2 →
        g.evict.isSome ∨ growRoom (s.setGroup { o with waitFrom := some o.sr.clk2 }) g = true →
        exec (.growStarvationTimeout g.core g.sub) s =
          exec (.groupEviction g.gid) ((s.setGroup { o with waitFrom := some o.sr.clk2 }).setGroup { g with evict := some true }) ∧
        ∃ t, exec (.growStarvationTimeout g.core g.sub) s = .next t))

-- device steps: launches

/-- The queues of a pair stand in its own frames, each with a control block that is not corrupt and has the pair's depth. -/
def Sys2Proof.Machine.PairFits (s : State) (q : QPair) : Prop :=
  s.dev.wf = true ∧ q.frames.Nodup ∧ pairFrames q ≤ q.frames.length ∧
  ∀ k : PairQ, k.bad s q = false ∧ (k.blk s q).cap = k.cap q

/-- Bytes of the vaults that lie in none of the given ranges read in `t` as in `s`. -/
def Sys2Proof.Machine.VaultKept (s t : State) (xs : List (Nat × Nat)) : Prop :=
  ∀ a, (∀ x ∈ xs, a < x.1 ∨ x.1 + x.2 ≤ a) → homeRead t pairRoute a = homeRead s pairRoute a

/-- A record has gone into a queue of a pair: its slot holds it and the block counts it, and is still not corrupt. -/
def Sys2Proof.Machine.PairPushed (s t : State) (k : PairQ) (q : QPair) (bs : List Byte) : Prop :=
  k.blk t q = (k.blk s q).pushed 1 ∧ k.bad t q = false ∧ homeBytes t pairRoute (k.slot q (k.blk s q).tail) k.esz = bs

/-- R112, R113, R115, R117, R119 to R122, R298, R346, R361: steps of host queue pairs, whose queues are objects in their vault frames. A push of 128 bytes
at a multiple of 128 of a push aperture joins an enabled queue that has room and any other is counted in DROPS; a pop of 32 bytes at a multiple of 32 takes the
oldest record, or reads FFH and zeros where there is none, and every other read is all ones; on a corrupt block the home does R361 and the access counts in DROPS.
QSETn enables a pair with vault frames no other pair holds and two empty queues in them, or disables it and drops what it holds; its frames are free
once its launches are over. LAUNCH_CHECK takes the head of a queue to a refusal with the status of its first failed check or makes it ready; REFUSAL_PUSH,
RELEASE_RECORD_PUSH and LAUNCH_COMPLETE push a record, raising the vector of a queue that was empty. Where the spec leaves it open, the model is as log entries 38, 39, 40, 41, 43, 85, 90, 91, 93, 94 say. -/
def Obligations.QueuePairSteps : Prop :=
  ∀ (s : State) (p : Part) (n off size : Nat) (v : W64) (data : List Byte), s.part? p.id = some p → n < 8 → off < 4096 →
    let q := qpair p n
    let frees := freeFrames s p
    let enabled := { q with msix := v.extractLsb' 16 8, cqlog := bits v.toNat 11 8, sqlog := bits v.toNat 7 4 }
    let need := (128 * 2 ^ (enabled.sqlog + 4) + 32 * 2 ^ (enabled.cqlog + 4) + 128 + 65535) / 65536
    let msi := if PairQ.com.len s q = 0 then [Notice.msix p.id q.msix.toNat] else []
    let drop := fun x : State => x.modPart p.id fun p => modPair p n fun q => { q with drops := min (q.drops + 1) 0xFFFF }
    let block := fun k : PairQ => (k.block q, 64)
    let slot := fun (k : PairQ) (c : Nat) => (k.slot q c, k.esz)
    (∀ k a, 0x8000 ≤ 0x1000 * k + a → exec (.submissionPush p.id k a data) s = .next s) ∧
    (data.length ≠ 128 ∨ off % 128 ≠ 0 ∨ q.en = false ∨ (PairQ.sub.bad s q = false ∧ PairQ.sub.cap q ≤ (PairQ.sub.blk s q).count) →
      exec (.submissionPush p.id n off data) s = .next (drop s)) ∧
    (data.length = 128 → off % 128 = 0 → q.en = true →
      (PairQ.sub.bad s q = true →
        exec (.submissionPush p.id n off data) s = .next (drop (qSpoil s p.id pairRoute (PairQ.sub.block q)))) ∧
      (PairFits s q → (PairQ.sub.blk s q).count < PairQ.sub.cap q →
        ∃ t p', exec (.submissionPush p.id n off data) s = .next t ∧ PairPushed s t .sub q data ∧
          VaultKept s t [block .sub, slot .sub (PairQ.sub.blk s q).tail] ∧ t.part? p.id = some p' ∧ p'.qpairs = p.qpairs)) ∧
    (∀ k a, 0x1000 * k + a < 0x8000 ∨ 0x10000 ≤ 0x1000 * k + a ∨ size ≠ 32 ∨ a % 32 ≠ 0 →
      exec (.completionPop p.id k a size) s = .next (s.notify (.read (List.replicate size 0xFF)))) ∧
    (off % 32 = 0 → let i := Instr.completionPop p.id (8 + n) off 32
      let none' := Notice.read (0xFF :: List.replicate 31 0)
      (q.en = false → exec i s = .next ((drop s).notify none')) ∧
      (q.en = true → PairQ.com.bad s q = true → exec i s = .next ((drop (qSpoil s p.id pairRoute (PairQ.com.block q))).notify none')) ∧
      (q.en = true → PairQ.com.bad s q = false → PairQ.com.len s q = 0 → exec i s = .next (s.notify none')) ∧
      (q.en = true → PairFits s q → PairQ.com.len s q ≠ 0 →
        ∃ t p', exec i s = .next t ∧ t.notices = s.notices ++ [.read (homeBytes s pairRoute (PairQ.com.slot q (PairQ.com.blk s q).head) 32)] ∧
          PairQ.com.blk t q = (PairQ.com.blk s q).popped 1 ∧ PairQ.com.bad t q = false ∧ VaultKept s t [block .com] ∧
          t.part? p.id = some p' ∧ p'.qpairs = p.qpairs)) ∧
    (q.en = false → q.frames = [] → need ≤ frees.length → p.id < 32 → s.dev.wf = true →
      ∃ t p' fs, exec (.qsetEnable p.id n v) s = .next t ∧ t.part? p.id = some p' ∧
        fs.length = need ∧ fs.Nodup ∧ (∀ f ∈ fs, f ∈ frees) ∧ p'.qpairs = p.qpairs.setIfInBounds n { enabled with en := true, drops := 0, frames := fs } ∧
        (∀ k : PairQ, k.len t (qpair p' n) = 0 ∧ k.bad t (qpair p' n) = false ∧ (k.blk t (qpair p' n)).cap = k.cap (qpair p' n)) ∧
        VaultKept s t (fs.map fun f => (f * 65536, 65536))) ∧
    (q.en = true → exec (.qsetEnable p.id n v) s = .next (s.setPart (modPair p n fun q => { q with msix := v.extractLsb' 16 8 }))) ∧
    (q.en = true → s.dev.wf = true →
      ∃ t p', exec (.qsetDisable p.id n v) s = .next t ∧ t.part? p.id = some p' ∧ p'.releases = p.releases.filter (·.pair != n) ∧
        p'.qpairs = p.qpairs.setIfInBounds n { q with
          en := false, msix := v.extractLsb' 16 8, head := none
          drops := min (q.drops + (PairQ.sub.len s q + PairQ.com.len s q + (p.releases.filter (·.pair == n)).length)) 0xFFFF } ∧
        VaultKept s t [block .sub, block .com] ∧ (q.frames.Nodup → pairFrames q ≤ q.frames.length → ∀ k : PairQ, k.len t q = 0)) ∧
    (q.en = false → PairQ.com.len s q = 0 → (∀ l ∈ tableLaunches s p, l.pair ≠ n) →
      exec (.queuePairRelease p.id n) s = .next (s.setPart (modPair p n fun q => { q with frames := [] }))) ∧
    (headPair s p = some n → p.table.length < 64 → q.head = none →
      let r := PairQ.sub.head s q
      let s1 := { s with nextId := s.nextId + 1 }
      let l := blankLaunch p n r (allLoads s p.id)
      ∀ h : HeadSt, (if p.failed then h = .refused (rkId r) 17
        else if recordBad r then h = .refused (rkId r) 11
        else
          readObject s1 p l r s.nextId [] = .bad ∧ h = .refused (rkId r) 12 ∨
          ∃ o c meas, readObject s1 p l r s.nextId [] = .got o c meas ∧
            match objectCheck r o c (partCores p).length { l with meas := meas, keymask := maskFor s p.id meas } (roomy s1 p) with
            | .error st => h = .refused (rkId r) st
            | .ok l' => h = .ready l') →
        ∃ t, exec (.launchCheck p.id) s = .next t ∧ SameMemory s t ∧
          t.part? p.id = some (modPair p n fun q => { q with head := some h })) ∧
    (∀ id st, q.head = some (.refused id st) → q.en = true → PairFits s q →
      (PairQ.com.cap q ≤ PairQ.com.len s q → exec (.refusalPush p.id n) s = .next s) ∧
      (PairQ.com.len s q < PairQ.com.cap q → (PairQ.sub.blk s q).count ≠ 0 →
        ∃ t p', exec (.refusalPush p.id n) s = .next t ∧ t.notices = s.notices ++ msi ∧
          PairPushed s t .com q (recordBytes
            [BitVec.ofNat 64 (id % 65536 * 2 ^ 48 + st % 65536 * 2 ^ 32), 0xFFFFFFFF00000000, 0, BitVec.ofNat 64 s.ns]) ∧
          PairQ.sub.blk t q = (PairQ.sub.blk s q).popped 1 ∧ VaultKept s t [block .com, slot .com (PairQ.com.blk s q).tail, block .sub] ∧
          t.part? p.id = some p' ∧ p'.launches = (p.launches + 1) % 2 ^ 64 ∧ p'.qpairs = p.qpairs.setIfInBounds n { q with head := none })) ∧
    (∀ r : Release, p.releases.find? (·.pair == n) = some r → q.en = true → PairFits s q → PairQ.com.len s q < PairQ.com.cap q →
      ∃ t p', exec (.releaseRecordPush p.id n) s = .next t ∧ t.notices = s.notices ++ msi ∧
        PairPushed s t .com q (recordBytes
          [BitVec.ofNat 64 (r.launchId % 65536 * 2 ^ 48 + 1), BitVec.ofNat 64 r.descVa, BitVec.ofNat 64 (r.version * 2 ^ 32), BitVec.ofNat 64 s.ns]) ∧
        VaultKept s t [block .com, slot .com (PairQ.com.blk s q).tail] ∧
        t.part? p.id = some p' ∧ p'.releases = p.releases.erase r ∧ p'.launches = p.launches ∧ p'.qpairs = p.qpairs) ∧
    (∀ l : Launch, s.launch? l.lid = some l → l.part = p.id → l.pair = n → gridTeams l.grid ≤ l.results.length → q.en = true → PairFits s q →
      PairQ.com.len s q < PairQ.com.cap q →
      ∃ t p' k st c, exec (.launchComplete l.lid) s = .next t ∧ t.launch? l.lid = none ∧ t.notices = s.notices ++ msi ∧
        (∀ y : Launch, y.lid ≠ l.lid → (t.launch? y.lid).map (fun x => { x with waitSince := none }) =
          (s.launch? y.lid).map fun x => { x with waitSince := none }) ∧
        ((k, st, c) ∈ l.results ∧ st ≠ 0 ∧ (∀ r ∈ l.results, r.2.1 ≠ 0 → k ≤ r.1) ∨
          (k, st, c) = (0xFFFFFFFF, 0, 0) ∧ ∀ r ∈ l.results, r.2.1 = 0) ∧
        PairPushed s t .com q (recordBytes
          [BitVec.ofNat 64 (l.launchId % 65536 * 2 ^ 48 + st % 65536 * 2 ^ 32 + c % 65536 * 2 ^ 16 +
              (if l.tstart.isSome ∧ l.startTier < 3 then 2 ^ 9 else 0) + (if l.hotHalf then 2 ^ 8 else 0)),
            BitVec.ofNat 64 (k % 2 ^ 32 * 2 ^ 32 + (l.results.filter fun r => r.2.1 == 0).length % 2 ^ 32),
            BitVec.ofNat 64 (l.tstart.getD 0), BitVec.ofNat 64 s.ns]) ∧
        VaultKept s t [block .com, slot .com (PairQ.com.blk s q).tail] ∧
        t.part? p.id = some p' ∧ p'.launches = (p.launches + 1) % 2 ^ 64 ∧ p'.table = (p.table.filter fun x => x != l.lid) ∧ p'.qpairs = p.qpairs)

/-- R49, R118, R122, R123, R130, R298, R433 to R435: steps of launches. A ready head enters the table at the lowest free place of the code window, aligned and apart
from the other images; CLUSTER_PLACE starts the next cluster of the first launch in order, its teams on the cores of the chosen rectangle, their groups as R49
says; a group ends with its stores performed and its tags landed, a team with its groups and its engine work, with the status of R435. Where the spec leaves it open, the model is as log entries 41, 44, 45, 46, 89 say. -/
def Obligations.LaunchSteps : Prop :=
  ∀ (s : State) (p : Part) (l : Launch), s.part? p.id = some p →
    (∀ n fs, (qpair p n).head = some (.ready l) → p.table.length < 64 → headPair s p = some n → 0 < l.imageBase → s.launch? s.nextId = none →
      imagePlace { s with launches := tableLaunches s p } l.imageBase l.imageLen ≠ none →
      fs = imageFrames s p ((s.launches.filter (·.part == p.id)).flatMap (·.frames)) (hbmFrames p - storeFrames p) (l.imageLen / 65536) →
      fs.length = l.imageLen / 65536 → l.imageLen % 65536 = 0 →
      ∃ t b x p', exec (.launchEnterTable p.id n) s = .next t ∧ t.host = s.host ∧ b % l.imageBase = 0 ∧ b + l.imageLen ≤ 0x80000000000000 ∧
        ((∀ x ∈ tableLaunches s p, codeWindow ≤ x.imageBase) → codeWindow ≤ b) ∧
        (∀ x ∈ tableLaunches s p, b + l.imageLen ≤ x.imageBase ∨ x.imageBase + x.imageLen ≤ b) ∧
        t.launch? s.nextId = some x ∧ x = { l with
          lid := s.nextId, imageBase := b, entry := b + l.entry, handler := l.handler.map (b + ·), image := [], frames := fs
          imageKey := x.imageKey, waitSince := x.waitSince } ∧
        (s.dev.wf = true → fs.Nodup → Mem.wf l.image = true → (∀ f ∈ fs, f ∉ (qpair p n).frames) → (∀ c ∈ l.image, c.1 < l.imageLen) →
          (∀ c ∈ l.image, t.dev.readAs (.image x.imageKey s.fabric.devid) (fs.getD (c.1 / 65536) 0 * 65536 + c.1 % 65536) = c.2) ∧
          ∀ k a, a / 65536 ∉ fs → (a < PairQ.sub.block (qpair p n) ∨ PairQ.sub.block (qpair p n) + 64 ≤ a) → a / 32 ≠ PairQ.sub.block (qpair p n) / 32 →
            a / 32 ≠ PairQ.sub.block (qpair p n) / 32 + 1 → t.dev.readAs k a = s.dev.readAs k a) ∧
        t.part? p.id = some p' ∧ p'.table = p.table ++ [s.nextId] ∧
        p'.measured = (p.measured ++ [l.meas ++ l.buildId]).drop (p.measured.length - 249) ∧
        p'.qpairs = p.qpairs.setIfInBounds n { qpair p n with head := none }) ∧
    (∀ cs, p.failed = false → s.launch? l.lid = some l → l.resident = false → readyLaunches s p = [l] → chooseRect s p l = some cs →
      (∀ x ∈ s.teams, x.tid < s.nextId) → 0 < l.grid.1 → 0 < l.grid.2.1 →
      ∃ t new x, exec (.clusterPlace p.id) s = .next t ∧ t.dev = s.dev ∧ t.host = s.host ∧ t.teams = s.teams ++ new ∧ new.map (·.core) = cs ∧
        (∀ (k : Nat) (tm : Team), new[k]? = some tm →
          ∃ live : List Nat, live.length = l.team ∧
            tm = startTeam l tm.tid (l.nextCluster * (l.clw * l.clh) + k) k l.nextCluster tm.core live) ∧
        t.groups.length = s.groups.length + cs.length * l.team ∧ t.groups.take s.groups.length = s.groups ∧
        (∀ g ∈ t.groups.drop s.groups.length, ∃ tm ∈ new, g.tid = tm.tid ∧ g.core = tm.core ∧ g.lid = l.lid ∧ g.part = l.part ∧
          g.idx < l.team ∧ g.sub = g.idx % 4 ∧ g.slot < 8 ∧ g.pc = BitVec.ofNat 64 l.entry ∧ g.tags = Vector.replicate 8 none ∧ g.win = [] ∧
          g.wmDepth = 0 ∧ g.wmHw = [] ∧ g.trap = TrapCtx.start ∧ g.wait = .none ∧
          g.sr = SpecRegs.start l.budget (BitVec.ofNat 64 (l.privVa + g.privSlot * privSlotBytes l.priv + 67584)) ∧
          g.regs = { Regs.start with s := g.regs.s } ∧ g.regs.s[1] = BitVec.ofNat 64 l.argAddr ∧ g.regs.s[2] = BitVec.ofNat 64 l.imageBase ∧
          g.regs.s[3] = BitVec.ofNat 64 (tm.t % l.grid.1 + tm.t / l.grid.1 % l.grid.2.1 * 2 ^ 16 + tm.t / (l.grid.1 * l.grid.2.1) * 2 ^ 32) ∧
          g.regs.s[4] = BitVec.ofNat 64 tm.t ∧ g.regs.s[5] = BitVec.ofNat 64 (g.idx + tm.rank * 2 ^ 8 + tm.cluster * 2 ^ 16) ∧
          g.regs.s[6] = BitVec.ofNat 64 l.launchId ∧ ∀ k : Fin 64, k.val = 0 ∨ 7 ≤ k.val → g.regs.s[k] = 0) ∧
        t.launch? l.lid = some x ∧ x = { l with
          nextCluster := l.nextCluster + 1, waitSince := x.waitSince, starved := false, hotHalf := l.hotHalf || allAvoided s p
          tstart := some (l.tstart.getD s.ns), startTier := if l.tstart.isSome then l.startTier else s.boot.tier
          keymask := if l.tstart.isSome then l.keymask else maskFor s l.part l.meas }) ∧
    (∀ w, s.launch? l.lid = some l → l.part = p.id → l.waitSince = some w → w + 34000000 ≤ s.now →
      exec (.clusterWaitTimeout p.id l.lid) s = .next (s.setLaunch { l with starved := true })) ∧
    (∀ g : Group, s.group? g.gid = some g → g.exiting = true → g.stbuf = [] → reqPending s g = false → g.remWr = [] →
      g.tags = Vector.replicate 8 none → g.region.spec = false → g.task = none → g.recStep = none → g.merge = [] →
      (∀ o ∈ (s.core g.core).gathers, o.scatter = true → o.gid ≠ g.gid) →
      ∃ t e, exec (.groupEnd g.gid) s = .next t ∧ SameMemory s t ∧ t.groups = s.groups.filter (fun x => x.gid != g.gid) ∧
        t.ended = s.ended ++ [e] ∧ e.gid = g.gid ∧ e.tid = g.tid ∧ e.merge = g.merge ∧ e.copyS = g.copyS ∧ e.matrixS = g.matrixS ∧
        e.gatherS = (if g.closing then g.gatherS else { g.gatherS with closed := (g.gatherS.closed + 1) % 2 ^ 64 }) ∧
        (∀ x, s.team? g.tid = some x → t.team? g.tid = some { x with live := x.live.filter fun k => k != g.gid }) ∧
        (g.part = p.id → t.part? p.id = some (if g.closing then p else { p with
          serialHolder := if p.serialHolder = some g.gid then none else p.serialHolder
          serialQueue := p.serialQueue.filter fun x => x != g.gid }))) ∧
    (∀ tm : Team, s.team? tm.tid = some tm → tm.ended = false → tm.live = [] → teamBusy s tm = false → tm.lid = l.lid → s.launch? l.lid = some l →
      tm.part = p.id →
      let fs := (s.ended.filter fun g => g.tid == tm.tid).flatMap fun g => g.copyS.fails ++ g.matrixS.fails ++ g.gatherS.fails
      ∃ t st c, exec (.teamEnd tm.tid) s = .next t ∧ t.dev = s.dev ∧ t.host = s.host ∧ t.groups = s.groups ∧
        (tm.lost = true → st = 17 ∧ c = 0) ∧
        (tm.lost = false →
          (∀ k, tm.killCause = some k → st = 16 ∧ c = k.toNat) ∧
          (tm.killCause = none → fs = [] → st = 0 ∧ c = 0) ∧
          (tm.killCause = none → fs ≠ [] → st = 18 ∧ ∀ b, c.testBit b = fs.any fun f => f.causes.getLsbD b)) ∧
        t.launch? l.lid = some { l with results := l.results ++ [(tm.t, st, c)] } ∧
        t.part? p.id = some (if st = 0 then p else { p with abnormal := (p.abnormal + 1) % 2 ^ 64 }) ∧
        ((∃ x ∈ s.teams, x.lid = tm.lid ∧ x.cluster = tm.cluster ∧ x.tid ≠ tm.tid ∧ x.ended = false) →
          t.team? tm.tid = some { tm with ended := true, acc := [], accP := [] }) ∧
        ((∀ x ∈ s.teams, x.lid = tm.lid → x.cluster = tm.cluster → x.tid = tm.tid ∨ x.ended = true) →
          (∀ x ∈ t.teams, ¬(x.lid = tm.lid ∧ x.cluster = tm.cluster)) ∧
          ∀ x ∈ s.teams, x.tid ≠ tm.tid → ¬(x.lid = tm.lid ∧ x.cluster = tm.cluster) → x ∈ t.teams)) ∧
    (∀ (k : Nat) (r : OldDesc),
      let l := p.retired.filter (·.due) ++ ((p.retired.filter fun r => !r.due && refDue s r).map fun r => { r with due := true }) ++
        p.retired.filter fun r => !r.due && !refDue s r
      let d := tdescOf (homeBytes s r.route r.addr 64)
      l[k]? = some r → r.due = true → rowsLeft s p.id r.descVa = false →
      (∀ y ∈ l.take k, y.due = true → (tdescOf (homeBytes s y.route y.addr 64)).cq ≠ d.cq) →
      ∃ t, exec (.descriptorRelease p.id k) s = .next t ∧ SameMemory s t ∧ t.part? p.id = some { p with
        retired := l.eraseIdx k
        releases := if (qpair p d.cq).en then p.releases ++ [⟨r.descVa.toNat, r.route, r.addr, d.cq, r.launchId, d.version⟩] else p.releases })

-- device steps: translation and registers

/-- From `s` to `t` one partition has changed, and is now `p`; nothing else has. -/
def Sys2Proof.Machine.PartNow (s t : State) (p : Part) : Prop :=
  t = { s with parts := t.parts } ∧ t.part? p.id = some p ∧ ∀ n, n ≠ p.id → t.part? n = s.part? n

/-- R141, R145, R148 to R152: steps of page service. PAGE_WALK holds the leaf the tables give, or nothing; the oldest unsent request goes to the host with
its page, its accesses and the PASID of PRICFG; a response ends the wait of every group that awaited nothing else, a Success dropping the translations of the page and a
Response Failure answering every request and refusing later ones until PRI is enabled again; an ATS invalidation drops its frames and completes
when no access to host memory is on its way. Where the spec leaves it open, the model is as log entries 9, 17, 28, 36, 98 say. -/
def Obligations.PageSteps : Prop :=
  ∀ (s : State) (p : Part) (page n : Nat) (code : PriCode), s.part? p.id = some p →
    (s.parts.find? (fun x => x.sectors.contains n) = some p →
      (∀ e big, walk s p (page * 65536) = .leaf e big → inWindow (page * 65536) = false →
        ∃ t, exec (.pageWalk n page) s = .next t ∧ t = { s with xlats := t.xlats, free := t.free } ∧
          (∀ k, k ≠ n → t.sectorTlb k = s.sectorTlb k) ∧
          ((s.sectorTlb n).ents.any (·.isFor p.id page) = true → (t.sectorTlb n).ents = (s.sectorTlb n).ents) ∧
          ((s.sectorTlb n).ents.any (·.isFor p.id page) = false →
            ∃ l, (t.sectorTlb n).ents = ⟨p.id, page, BitVec.ofNat 64 e, big⟩ :: l ∧ ∀ x ∈ l, x ∈ (s.sectorTlb n).ents)) ∧
      (walk s p (page * 65536) = .absent ∨ walk s p (page * 65536) = .serviced ∨ walk s p (page * 65536) = .malformed ∨ inWindow (page * 65536) = true →
        exec (.pageWalk n page) s = .next s)) ∧
    (mayRequest p = false → exec (.pageRequestSend p.id) s = .next s) ∧
    (∀ r : PageReq, p.reqs.find? (fun x => !x.sent) = some r → (p.reqs.filter (·.sent)).length < p.priAlloc →
      ∃ t k, exec (.pageRequestSend p.id) s = .next t ∧ SameMemory s t ∧ t.groups = s.groups ∧
        t.part? p.id = some { p with reqs := p.reqs.map fun y => if y.page = r.page then { y with sent := true } else y } ∧
        t.notices = s.notices ++ [.pageRequest p.id r.page r.rd r.wr (r.ex && p.pricfg.getLsbD 20) true
          (if p.pricfg.getLsbD 20 then some (p.pricfg.toNat % 2 ^ 20) else none) k]) ∧
    ((∃ r ∈ p.reqs, r.page = page ∧ r.sent = true) →
      (code ≠ .failure → ∃ t q, exec (.pageResponse p.id page code) s = .next t ∧ SameMemory s t ∧ t.part? p.id = some q ∧
        q.reqs = p.reqs.filter (fun r => r.page != page) ∧ q.priFailed = p.priFailed ∧
        (code = .success → ∀ k, (∀ x ∈ (t.core k).dtlb ++ (t.sectorTlb k).ents, x.isFor p.id page = false) ∧
          (∀ sub, ∀ x ∈ (t.core k).itlb sub, x.isFor p.id page = false) ∧ ∀ e ∈ (t.sectorTlb k).nodes, e.onPath p.id page = false) ∧
        ∀ (g : Group) (f : Bool), s.group? g.gid = some g → g.part = p.id → g.merge = [] → g.wait = .stopover f →
          let ws := g.pages.map fun w => if w.1 = page ∧ w.2 = none then (page, some code) else w
          t.group? g.gid = some (if ∀ w ∈ g.pages, w.1 = page ∨ w.2.isSome = true then
            (if f then { g with pages := ws, wait := .none, codeServed := g.codeServed ++ g.pages.map (·.1) }
             else { g with pages := ws, wait := .none, served := true })
            else { g with pages := ws })) ∧
      (code = .failure → ∃ t q, exec (.pageResponse p.id page code) s = .next t ∧ SameMemory s t ∧ t.part? p.id = some q ∧
        q.reqs = [] ∧ q.priFailed = true ∧
        ∀ (g : Group) (f : Bool), s.group? g.gid = some g → g.part = p.id → g.wait = .stopover f →
          (∀ w ∈ g.pages, w.2.isSome = true ∨ ∃ r ∈ p.reqs, r.page = w.1) →
          ∃ e, t.group? g.gid = some e ∧ e.wait = .none ∧ (if f then ∀ w ∈ g.pages, w.1 ∈ e.codeServed else e.served = true) ∧ e.pages = g.pages.map fun w => if w.2 = none then (w.1, some .failure) else w)) ∧
    (∃ t, exec (.priReset p.id) s = .next t ∧ PartNow s t { p with priEnabled := true, priFailed := false }) ∧
    (∃ t, exec (.atsInvalidate p.id page n) s = .next t ∧ PartNow s t { p with
      atsBusy := true, ats := p.ats.filter fun f => !decide (page ≤ f ∧ f < page + n) }) ∧
    (p.atsBusy = true → (∀ g ∈ s.allGroups, g.part = p.id → hostPending g = false) →
      exec (.atsInvalidateComplete p.id) s = .next ((s.setPart { p with atsBusy := false }).notify (.atsDone p.id)))

/-- R146, R239, R391, R395, R404, R405, R432: writes of the host's registers and the work they start. PTROOT is written while the partition's launch table is
empty; TLBICMD and the flush command start while they are not busy and name something; an invalidation ends once no translated access is unperformed, and drops
what it names from the translation caches; a flush ends with every copy it names written back and dropped and its owner records clear; writing
1 to FABERR.V clears it and lets broken streams start afresh, writing 0 to it sets MSIX alone; every register takes the writable bits of what is written to
it; a change of a port's owner clears its counters and its holes count there no more; every other offset of the two BARs takes nothing. The first clause is log 75
(DEDUCED) on R99: a device that waits for a good boot record takes no register write and no port assignment. Where the spec leaves it open, the model is as log entries 70, 71, 75 say. -/
def Obligations.RegisterSteps : Prop :=
  (∀ (s : State) (sp : BarSpace) (off n : Nat) (v : W64), s.boot.bad = true →
    exec (.registerWrite sp off v) s = .next s ∧ exec (.portAssign n v) s = .next s) ∧
  ∀ (s : State) (p : Part) (v : W64) (n : Nat), s.part? p.id = some p →
    let low := v &&& 0xFF#64
    (∃ t, exec (.ptrootWrite p.id v) s = .next t ∧
      PartNow s t (if p.table = [] then { p with ptroot := v &&& 0x0000FFFFFFFF0001 } else p)) ∧
    (∃ t, exec (.tlbInvalidateAll p.id) s = .next t ∧
      PartNow s t (if p.tlbiBusy then p else { p with tlbiBusy := true, tlbiAll := true, tlbiFrom := p.tlbiVa.toNat / 65536, tlbiPages := 0 })) ∧
    (n < 2 ^ 32 → ∃ t, exec (.tlbInvalidateRange p.id n) s = .next t ∧
      PartNow s t (if p.tlbiBusy ∨ n = 0 then p else { p with tlbiBusy := true, tlbiAll := false, tlbiFrom := p.tlbiVa.toNat / 65536, tlbiPages := n })) ∧
    (p.tlbiBusy = true → unperformed s p.id = false → p.tlbiAll = true ∨ 0 < p.tlbiPages → ∃ t, exec (.tlbInvalidateDone p.id) s = .next t ∧ SameMemory s t ∧
      t.groups = s.groups ∧ t.part? p.id = some { p with tlbiBusy := false } ∧
      let names := fun (part : Nat) (f : Nat → Prop) => part = p.id ∧ (p.tlbiAll = true ∨ ∃ k, p.tlbiFrom ≤ k ∧ k < p.tlbiFrom + p.tlbiPages ∧ f k)
      let named := fun x : TlbEnt => names x.part fun k => if x.big then k / 8192 = x.page / 8192 else k = x.page
      ∀ k, (∀ x, x ∈ (t.core k).dtlb ↔ x ∈ (s.core k).dtlb ∧ ¬named x) ∧
        (∀ sub x, x ∈ (t.core k).itlb sub ↔ x ∈ (s.core k).itlb sub ∧ ¬named x) ∧
        (∀ x, x ∈ (t.sectorTlb k).ents ↔ x ∈ (s.sectorTlb k).ents ∧ ¬named x) ∧
        ∀ x, x ∈ (t.sectorTlb k).nodes ↔ x ∈ (s.sectorTlb k).nodes ∧
          ¬names x.part fun k => k / (if x.level = 1 then 2 ^ 26 else 2 ^ 13) = x.index) ∧
    (∃ t, exec (.flushAll p.id) s = .next t ∧ PartNow s t (if p.flBusy then p else { p with flBusy := true, flAll := true, flFrom := p.flVa.toNat / 65536, flPages := 0 })) ∧
    (n < 2 ^ 32 → ∃ t, exec (.flushRange p.id n) s = .next t ∧
      PartNow s t (if p.flBusy ∨ n = 0 then p else { p with flBusy := true, flAll := false, flFrom := p.flVa.toNat / 65536, flPages := n })) ∧
    (p.flBusy = true →
      let named := flushes p (flushFrames s p)
      ∃ t q, exec (.flushDone p.id) s = .next t ∧ t.groups = s.groups ∧ t.part? p.id = some q ∧ q.flBusy = false ∧
        q.owners = p.owners.filter (fun o => !named o.2.2 o.1) ∧
        (∀ k, ∀ x ∈ (t.core k).l1, x.part = p.id → named x.tier x.line = false) ∧
        (∀ x ∈ q.hostCopies, x.part = p.id → named x.tier x.line = false) ∧
        ∀ k c x, s.cores = [(k, c)] → c.l1 = [x] → p.hostCopies = [] → x.part = p.id → named x.tier x.line = true →
          (x.tier = .hbm ∨ x.tier = .vault) → chanFenced s x.tier (x.line * 128) = false → x.data.length = 128 → s.dev.wf = true →
          ∀ j, j < 128 → homeRead t (.glob x.tier x.coh x.key 0 0) (x.line * 128 + j) =
            if x.dirty.getLsbD j then x.data[j]?.getD 0 else homeRead s (.glob x.tier x.coh x.key 0 0) (x.line * 128 + j)) ∧
    (∃ t, exec (.faberrClear p.id v) s = .next t ∧ SameMemory s t ∧ t.part? p.id = some { p with faberr := low } ∧
      t.fabric.src = s.fabric.src.map (fun x =>
        if x.broken = true ∧ x.sid.own.part = p.id then { x with next := 0, fresh := true, unacked := [], broken := false } else x) ∧
      (s.fabric.reqs = [] → t.fabric = { s.fabric with src := t.fabric.src })) ∧
    (s.boot.bad = false →
    (n < 16 →
      let q := s.port n
      let o := v.toNat % 32
      let t := s.setPort n { q with assigned := v.getLsbD 63, owner := o, ctrs := if o = q.owner then q.ctrs else [] }
      exec (.portAssign n v) s = .next (if o = q.owner then t else t.modFabric fun f => { f with dst := f.dst.map fun d =>
        { d with holes := d.holes.map fun h => if h.2.2 = n then (h.1, h.2.1, 40) else h } })) ∧
    (16 ≤ n → exec (.portAssign n v) s = .next s) ∧
    (exec (.registerWrite (.vf p.id) 0x040 v) s = exec (.ptrootWrite p.id v) s) ∧
    (exec (.registerWrite (.vf p.id) 0x058 v) s =
      if v.getLsbD 63 then (.next (startInvalidate s p.id true (v.toNat % 2 ^ 32))) else exec (.tlbInvalidateRange p.id (v.toNat % 2 ^ 32)) s) ∧
    (exec (.registerWrite (.vf p.id) 0x068 v) s =
      if v.getLsbD 63 then (.next (startFlush s p.id true (v.toNat % 2 ^ 32))) else exec (.flushRange p.id (v.toNat % 2 ^ 32)) s) ∧
    (v.getLsbD 63 = true → exec (.registerWrite (.vf p.id) 0xF00 v) s = exec (.faberrClear p.id v) s) ∧
    (v.getLsbD 63 = false → ∃ t, exec (.registerWrite (.vf p.id) 0xF00 v) s = .next t ∧ PartNow s t { p with faberr := (p.faberr &&& ~~~0xFF#64) ||| low }) ∧
    (n < 8 → exec (.registerWrite (.vf p.id) (0x100 + 16 * n) v) s =
      if v.getLsbD 63 then exec (.qsetEnable p.id n v) s else exec (.qsetDisable p.id n v) s) ∧
    (∃ t, exec (.registerWrite (.vf p.id) 0x048 v) s = .next t ∧ PartNow s t { p with pricfg := v &&& 0x1FFFFF#64 }) ∧
    (∃ t, exec (.registerWrite (.vf p.id) 0x050 v) s = .next t ∧ PartNow s t { p with tlbiVa := v &&& 0x007FFFFFFFFF0000 }) ∧
    (∃ t, exec (.registerWrite (.vf p.id) 0x060 v) s = .next t ∧ PartNow s t { p with flVa := v &&& 0x007FFFFFFFFF0000 }) ∧
    (∃ t, exec (.registerWrite (.vf p.id) 0xF10 v) s = .next t ∧ PartNow s t (if v.getLsbD 63 then { p with contain := low, containPa := 0 }
      else { p with contain := (p.contain &&& ~~~0xFF#64) ||| low })) ∧
    (∀ off, off ∉ [0x040, 0x048, 0x050, 0x058, 0x060, 0x068, 0xF00, 0xF10] → ¬(0x100 ≤ off ∧ off < 0x180 ∧ off % 16 = 0) →
      exec (.registerWrite (.vf p.id) off v) s = .next s) ∧
    (∀ off, off ≠ 0x103000 → off ≠ 0x103008 →
      ¬(0x100000 ≤ off ∧ off < 0x102800 ∧ off % 256 ∈ [0x00, 0x08, 0x10, 0x18] ∧ portExists ((off - 0x100000) / 256) = true) →
      ¬(0x200000 ≤ off ∧ off < 0x2C0000 ∧ off % 8 = 0) → exec (.registerWrite .pf off v) s = .next s) ∧
    (portExists n = true →
      exec (.registerWrite .pf (0x100000 + 256 * n) v) s = .next (s.setPort n { s.port n with w := v &&& 0x00FFFFFFFFFFFFFF }) ∧
      exec (.registerWrite .pf (0x100008 + 256 * n) v) s = .next (s.setPort n { s.port n with th0 := v &&& 0x07FF07FF07FF07FF }) ∧
      exec (.registerWrite .pf (0x100010 + 256 * n) v) s = .next (s.setPort n { s.port n with th1 := v &&& 0x000007FF07FF07FF }) ∧
      exec (.registerWrite .pf (0x100018 + 256 * n) v) s = exec (.portAssign n v) s) ∧
    (exec (.registerWrite .pf 0x103000 v) s = .next (s.modFabric fun f => { f with devid := v.toNat % 4096 })) ∧
    (exec (.registerWrite .pf 0x103008 v) s =
      .next (s.modFabric fun f => { f with rto := v.toNat / 65536 % 4096, maxrs := v.toNat % 16 })) ∧
    (∀ q d, q < 24 → d < 4096 → Tab.wf 0 s.fabric.routes = true →
      ∃ t, exec (.registerWrite .pf (0x200000 + 0x8000 * q + 8 * d) v) s = .next t ∧ t = { s with fabric := { s.fabric with routes := t.fabric.routes } } ∧
        ∀ k, Tab.get 0 t.fabric.routes k = if k = 4096 * q + d then v &&& 0x8000001F0000FFFF else Tab.get 0 s.fabric.routes k))

-- device steps: engines

/-- Byte b of destination row q of a copy from scratchpad to scratchpad (R270): S reads the team's scratchpad. -/
def Sys2Proof.Machine.copiedByte (x : Xform) (c : CopyD) (S : Nat → Byte) (q b : Nat) : Byte :=
  let src := fun (r : Nat) (k : Nat) => S (((c.src.toNat % 2 ^ 21 : Int) + (r : Int) * c.sstride + k) % 2 ^ 64).toNat
  let entry := leNat ((List.range 4).map fun k => S (c.dlen % 2 ^ 21 + 4 * q + k))
  match x with
  | .lin => src q b
  | .t2 => src (b / 2) (2 * q + b % 2)
  | .t4 => src (b / 4) (4 * q + b % 4)
  | .pad => if c.padt ≤ q ∧ q < c.padt + c.rows ∧ c.padl ≤ b ∧ b < c.padl + c.len then src (q - c.padt) (b - c.padl) else c.padv
  | .gath => if entry < c.drows then src entry b else c.padv
  | .rag => if b < entry then src q b else c.padv
  | .exp =>
    if c.sfmt = 0 then expByte 0 ((src q (b / 2)).toNat / 16 ^ (b % 2) % 16)
    else
      let lo := 6 * b / 8
      expByte c.sfmt (((src q lo).toNat + 256 * (if (6 * b + 5) / 8 = lo then 0 else (src q (lo + 1)).toNat)) / 2 ^ (6 * b % 8) % 64)

/-- The operation has left its stream: no other field of the group has changed. -/
def Sys2Proof.Machine.StreamDone (s t : State) (gid : Nat) (x : Strm) (op : Nat) : Prop :=
  ∀ g, s.group? gid = some g →
    t.group? gid = some (g.setStream x { g.stream x with ops := (g.stream x).ops.filter fun o => o.1 != op })

/-- What a core's TLBs and its sector's walk cache hold is as the tables stand. -/
def Sys2Proof.Machine.XlatFresh (s : State) (core : Nat) : Prop :=
  ∀ p, s.part? p.id = some p → ∀ va,
    (∀ t ∈ (s.core core).dtlb ++ (s.sectorTlb (core / 16)).ents, t.isFor p.id (va / 65536) = true → walk s p va = .leaf t.leaf.toNat t.big) ∧
    walkVia s true (s.sectorTlb (core / 16)).nodes p va = walk s p va

/-- The bytes from `va` on that an engine operation reaches with some access: one route that is not written back, its physical addresses in step
with the virtual ones; what the core and the slices hold is clean, and its translations are those of the tables. -/
def Sys2Proof.Machine.EngSpan (s : State) (x : ECtx) (need : Need) (va n : Nat) (r : Route) (pa : Nat) : Prop :=
  writesBack r = false ∧ isRemote r = false ∧ RouteOk s r ∧ XlatFresh s x.core ∧ (∀ y ∈ (s.core x.core).l1, y.dirty = 0) ∧
  (∀ p, s.part? x.part = some p → ∀ y ∈ p.hostCopies, y.dirty = 0) ∧ ∀ k, k < n → engXlat s x (va + k) need = .ok r (pa + k)

/-- R264 to R272, R297, R300 to R304: COPY_COMPLETE from scratchpad to scratchpad writes every byte of the destination as its transform says and no other byte, frees
the copy's locks and completes its operation; RING_PUBLISH advances the ring's tail past a finished element in its turn; GATHER_COMPLETE pools the rows into scratchpad;
SCATTER_READ_COMPLETE merges each gradient row into the row's sum; GATHER_BATCH_APPLY adds a merged row to the table, rounding each element once. Where the spec leaves it open, the model is as log entries 52, 58, 82 say. -/
def Obligations.CopyAndGatherSteps : Prop :=
  ∀ (s : State) (core op : Nat) (tm : Team), s.team? tm.tid = some tm → tm.scratch.wf = true → s.engOut = [] →
    let S := fun a => homeRead s (.scratch tm.tid) a
    (∀ o : CopyOp, copyOp? s core op = some o → o.finished = false → o.tid = tm.tid →
      let c := copyD o.desc
      let (dr, dl) := dstShape o.x c
      let at' := fun (q b : Nat) => (((c.dst.toNat % 2 ^ 21 : Int) + (q : Int) * c.dstride + b) % 2 ^ 64).toNat
      copyIll o.x c o.desc = false → o.await = none → o.spoilt = none → o.ring = none → c.ssp = true → c.dsp = true → c.dring = false → c.src.getLsbD 28 = false → c.dst.getLsbD 28 = false →
      c.dlen.testBit 28 = false → (dr = 1 ∨ (dl : Int) ≤ c.dstride) →
      ∃ t, exec (.copyComplete core op) s = .next t ∧ t.dev = s.dev ∧ t.host = s.host ∧
        t.core core = { s.core core with
          copies := (s.core core).copies.filter fun y => y.opId != op, locks := (s.core core).locks.filter fun y => y.owner != op } ∧
        StreamDone s t o.gid .copy op ∧
        (∀ q b, q < dr → b < dl → homeRead t (.scratch tm.tid) (at' q b) = copiedByte o.x c S q b) ∧
        ∀ a, (∀ q b, q < dr → b < dl → a ≠ at' q b) → homeRead t (.scratch tm.tid) a = S a) ∧
    (∀ (o : CopyOp) (off n : Nat) (b : QBlk), copyOp? s core op = some o → o.finished = true → o.tid = tm.tid → o.ring = some (off, n) →
      qBad s (.scratch tm.tid) off = false → b = qBlkOf (qRead s (.scratch tm.tid) off) → b.tail = n → b.resv ≠ b.tail →
      ∃ t, exec (.ringPublish core op) s = .next t ∧ t.dev = s.dev ∧ t.host = s.host ∧
        (t.core core).copies = (s.core core).copies.filter (fun y => y.opId != op) ∧
        qBlkOf (qRead t (.scratch tm.tid) off) = { b with tail := (b.tail + 1) % 2 ^ 32, free := b.free - 1 } ∧
        ∀ a, a < off ∨ off + 64 ≤ a → homeRead t (.scratch tm.tid) a = S a) ∧
    (∀ (o : GatherOp) (where' : Nat → Route × Nat), gatherOp? s core op = some o → o.scatter = false → o.scr = tm.tid → o.await = none →
      let d := tdescOf (o.desc.flatMap fun w => natLe 8 w.toNat)
      let n := fmtBytes d.f
      (∀ i ∈ rowsOf d o.lanes, EngSpan s (ectx s core o.tid o.gid o.opId) needR (rowVa d i) (d.rowlen * n) (where' i).1 (where' i).2) →
      (∃ t c k i v, o.descRoute = .glob t c k i v) → isRemote o.descRoute = false → RouteOk s o.descRoute →
      let elem := fun (i e : Nat) =>
        let (r, a) := where' i
        if (List.range n).any fun j => homePois s r ((a + e * n + j) / 32) then canonNaN
        else (widen d.f (leNat ((List.range n).map fun j => homeRead s r (a + e * n + j)))).setWidth 32
      let bag := fun (y : (Nat × W32 × W32 × Bool) × Nat) => ((o.lanes.take (y.2 + 1)).filter fun l => l.2.2.2).length
      let bags := (o.lanes.filter fun l => l.2.2.2).length
      let pooled := fun (q e : Nat) => (o.lanes.zipIdx.filter fun y => bag y == q + 1 && decide (y.1.2.1.toNat < d.nrows)).foldl
        (fun acc y => (fFma .rn y.1.2.2.1 (elem y.1.2.1.toNat e) acc).1) (0x80000000 : W32)
      ∃ t, exec (.gatherComplete core op) s = .next t ∧
        (t.core core).gathers = (s.core core).gathers.filter (fun y => y.opId != op) ∧
        (t.core core).locks = (s.core core).locks.filter (fun y => y.owner != op) ∧
        StreamDone s t o.gid .gather op ∧
        (∀ (q e z : Nat), q < bags → e < d.rowlen → z < 4 →
          homeRead t (.scratch tm.tid) (o.out + 4 * (q * d.rowlen + e) + z) = (natLe 4 (pooled q e).toNat)[z]?.getD 0) ∧
        (∀ a, a < o.out ∨ o.out + 4 * (bags * d.rowlen) ≤ a → homeRead t (.scratch tm.tid) a = S a) ∧
        homeNat t o.descRoute (o.descPa + 48) 4 = (homeNat s o.descRoute (o.descPa + 48) 4 + (2 ^ 32 - 1)) % 2 ^ 32) ∧
    (∀ (o : GatherOp) (g : Group), gatherOp? s core op = some o → o.scatter = true → o.scr = tm.tid → o.gid = g.gid → s.group? g.gid = some g → o.taken = 0 → o.await = none →
      s.allGroups.filter (fun y => y.gid == g.gid) = [g] → scatterBehind s core o = false →
      let d := tdescOf (o.desc.flatMap fun w => natLe 8 w.toNat)
      mergeBytes s core + 4 * (d.rowlen * o.lanes.length) ≤ 524288 →
      (∀ l ∈ o.lanes, l.2.1.toNat < d.nrows → ∀ k, k < (d.rowlen * fmtBytes d.f + 31) / 32 →
        ∃ r a, engXlat s (ectx s core o.tid o.gid o.opId) (rowVa d l.2.1.toNat + 32 * k) needRW = .ok r a) →
      let key := fun (m : MergeRow) => (m.batch, m.desc, m.row)
      g.merge.Pairwise (fun m y => key m ≠ key y) → (∀ m ∈ g.merge, m.batch = o.batch → m.desc = o.descVa.toNat → m.g.length = d.rowlen) →
      let grad := fun (n e : Nat) =>
        let a := o.out + 4 * (n * d.rowlen + e)
        if homePois s (.scratch tm.tid) (a / 32) then canonNaN else BitVec.ofNat 32 (leNat ((List.range 4).map fun k => S (a + k)))
      let given := fun (row e : Nat) (acc : W32) => (o.lanes.zipIdx.filter fun y => y.1.2.1.toNat == row && decide (row < d.nrows)).foldl
        (fun acc y => (fAdd .rn acc (grad y.2 e)).1) acc
      ∃ t g', exec (.scatterReadComplete core op) s = .next t ∧ t.group? g.gid = some g' ∧
        (t.core core).gathers = (s.core core).gathers.filter (fun y => y.opId != op) ∧
        g' = { g with
          merge := g'.merge, gatherS := { g.gatherS with ops := g.gatherS.ops.filter fun y => y.1 != op } } ∧
        g'.merge.Pairwise (fun m y => key m ≠ key y) ∧
        (∀ (k : Nat) (m : MergeRow), g.merge[k]? = some m → ∃ y, g'.merge[k]? = some y ∧ y = { m with g := y.g } ∧
          ∀ e, y.g[e]? = (m.g[e]?).map fun v => if m.batch = o.batch ∧ m.desc = o.descVa.toNat then given m.row e v else v) ∧
        (∀ l ∈ o.lanes, l.2.1.toNat < d.nrows → (∀ m ∈ g.merge, key m ≠ (o.batch, o.descVa.toNat, l.2.1.toNat)) →
          ∃ y ∈ g'.merge.drop g.merge.length, key y = (o.batch, o.descVa.toNat, l.2.1.toNat) ∧
            (y.rowVa, y.fmt, y.atSlice, y.op, y.await) = (rowVa d y.row, d.f, false, o.opId, none) ∧
            y.g = (List.range d.rowlen).map fun e => given y.row e 0x80000000) ∧
        ∀ y ∈ g'.merge.drop g.merge.length, ∃ l ∈ o.lanes, l.2.1.toNat < d.nrows ∧ key y = (o.batch, o.descVa.toNat, l.2.1.toNat)) ∧
    (∀ (g : Group) (m : MergeRow) (r : Route) (a : Nat), s.anyGroup? g.gid = some g → s.group? g.gid = some g → g.merge = [m] → m.await = none →
      let n := fmtBytes m.fmt
      applicable s g = some m.batch →
      (∀ k, k < (m.g.length * n + 31) / 32 → engXlat s (ectx s core g.tid g.gid 0) (m.rowVa + 32 * k) needRW = .ok r (a + 32 * k)) →
      a % 32 = 0 → 0 < n → isRemote r = false → (routeTier r ≠ some .host ∨ isHw r = true) → RouteOk s r →
      let old := fun e => if homePois s r ((a + e * n) / 32) then canonNaN
        else (widen m.fmt (leNat ((List.range n).map fun j => homeRead s r (a + e * n + j)))).setWidth 32
      ∃ t, exec (.gatherBatchApply core g.gid) s = .next t ∧ t.group? g.gid = some { g with merge := [] } ∧
        (∀ e v, m.g[e]? = some v → (List.range n).map (fun j => homeRead t r (a + e * n + j)) =
          natLe n (narrow m.fmt .rn ((fAdd .rn (old e) v).1.setWidth 64)).1) ∧
        ∀ x, x < a ∨ a + m.g.length * n ≤ x → homeRead t r x = homeRead s r x)

/-- R96, R97: the arithmetic of a block. A product of two finite elements is exact, its sign the exclusive or of theirs, but an integer zero has none (log 106, DEDUCED);
an infinity times zero is NaN. A block's sum is canonical NaN where a product is or where infinities of both signs meet; else an infinity among its
products; else the exact sum rounded once under .RN, and an exact zero is -0 only where every product is negative. An F4 block's sum is kept
in quarters, and the scaling part adds it, times 2^((ea - 127) + (eb - 127)), with one rounding. -/
def Sys2Proof.Machine.Claims.BlockSums : Prop :=
  (∀ (ty : MmaTy) (a b : Fl) (n z : Bool) (x y : Nat),
    (a = .nan ∨ b = .nan → blockProd ty a b = .nan) ∧
    (a = .fin n x → b = .fin z y → blockProd ty a b = .fin (if ty = .i8 ∧ (x = 0 ∨ y = 0) then false else n != z) (x * y)) ∧
    (a = .inf n → b = .inf z → blockProd ty a b = .inf (n != z)) ∧
    (a = .inf n → b = .fin z y → blockProd ty a b = (if y = 0 then .nan else .inf (n != z)) ∧
      blockProd ty b a = if y = 0 then .nan else .inf (n != z))) ∧
  (∀ ps : List Prod,
    (.nan ∈ ps ∨ (.inf false ∈ ps ∧ .inf true ∈ ps) → blockSum ps = 0x7FC00000) ∧
    (∀ n, .nan ∉ ps → .inf n ∈ ps → .inf (!n) ∉ ps → blockSum ps = if n then 0xFF800000 else 0x7F800000) ∧
    (∀ fs : List (Bool × Nat), ps = fs.map (fun f => .fin f.1 f.2) →
      let S : Int := (fs.map fun f => if f.1 then -(f.2 : Int) else f.2).sum
      RoundedTo .rn 298 S (blockSum ps) ∧ (S = 0 → blockSum ps = if fs.all (·.1) then 0x80000000 else 0) ∧
      (S % 2 ^ 296 = 0 → quarterSum ps * 2 ^ 296 = S))) ∧
  ∀ (acc : W32) (p : Int) (ea eb : Nat),
    ((f32 acc).isNan = true → scaleAdd acc p ea eb = 0x7FC00000) ∧
    (∀ n, f32 acc = .inf n → scaleAdd acc p ea eb = acc) ∧
    (∀ n v, f32 acc = .fin n v →
      let S : Int := (f32 acc).int * 2 ^ 107 + p * 2 ^ (ea + eb)
      RoundedTo .rn 256 S (scaleAdd acc p ea eb) ∧ (S = 0 → scaleAdd acc p ea eb = 0))

/-- R273 to R289, R441: steps of the matrix engine. A command other than a unit starts at once, a unit with its tokens, its published elements and, for a pair, its follower; a block of a
unit adds to each accumulator element of its M-half, and of both halves of a pair, the once-rounded sum of the block's 32 products and frees its ring elements: those of A after each block, that of B after its last use,
those of the scales after the scaling part; an F4 block keeps its sums, which the scaling part adds with its exponents; MZERO clears its tile, MLDA delivers its elements to its tag, MSTA writes each element rounded to its format; a command that ends frees its locks, completes its operation and gives back its tokens. -/
def Sys2Proof.Machine.Claims.MatrixSteps : Prop :=
  ∀ (s : State) (core : Nat) (tm : Team) (k : Cmd) (rest : List Cmd), s.team? tm.tid = some tm → tm.scratch.wf = true → k.tid = tm.tid →
    Tab.wf 0 tm.acc = true → nsWf tm.accP = true → (s.core core).claimedBy ≠ some core → s.engOut = [] →
    let c := s.core core
    let x := ectx s core k.tid k.gid k.opId
    let ended := fun (t : State) => let d := t.core core
      (d.run, d.tokens, d.giveBack, d.locks) = (none, 0, c.giveBack + c.tokens, c.locks.filter fun y => y.owner != k.opId) ∧
      (k.scaleOp = 0 → StreamDone s t k.gid .matrix k.opId)
    (c.run = none → c.claimedBy = none → c.cmds = k :: rest →
      (k.isMma = false → exec (.matrixCommandStart core) s = .next (s.setCore core { c with cmds := rest, run := some ⟨k, 0, 0, 0, none, none⟩ })) ∧
      (k.isMma = true → (k.isF4 = true → k.scale ≠ none) → c.tokens < (if k.f.getLsbD 0 then 2 else 1) →
        exec (.matrixCommandStart core) s = .next (s.setCore core { c with tokWait := some (c.tokWait.getD s.now) })) ∧
      (k.isMma = true → (k.isF4 = true → k.scale ≠ none) → (if k.f.getLsbD 0 then 2 else 1) ≤ c.tokens →
        (k.f.getLsbD 0 = true → (s.core (core + 1)).claimedBy = some core) →
        partReady s k (cmdStart k).1 (cmdStart k).2.1 (cmdStart k).2.2.isSome = true →
        exec (.matrixCommandStart core) s = .next (s.setCore core { c with
          cmds := rest, run := some ⟨k, (cmdStart k).1, (cmdStart k).2.1, c.tokens, (cmdStart k).2.2, none⟩, tokWait := none, tokSeen := false })) ∧
      (k.isMma = true → k.f.getLsbD 0 = true → (s.core (core + 1)).run = none → (s.core (core + 1)).claimedBy = none →
        exec (.pairClaim core) s = .next (s.setCore (core + 1) { s.core (core + 1) with claimedBy := some core }))) ∧
    (∀ (e : Exec) (sh : MShape) (ty : MmaTy) (ra : Nat → Array Byte × Array Bool) (rb : Array Byte × Array Bool) (s1 s2 s3 : State), c.run = some e →
      e.cmd = k → k.isMma = true → shapeOf k.aval = some sh → cmdTy k = some ty → e.mh < sh.halves →
      let pair := k.f.getLsbD 0
      (pair = true → sh.halves = 2 ∧ e.mh = 0) →
      let part := cmdPart s k
      let idx := if pair ∨ sh.halves ≠ 2 ∨ e.mh ≠ 0 then 0 else e.kb
      let next := if e.kb + 1 < sh.nk then (e.mh, e.kb + 1) else (if pair then sh.halves else e.mh + 1, 0)
      let halves := if pair then 2 else 1
      let inside := fun (h r q : Nat) => h < halves ∧ r < sh.rows (e.mh + h) ∧ q < sh.n
      let half := fun (n : Nat) => n - (k.tile.toNat + e.mh)
      let block := fun (x : State) (h : Nat) => qBlkOf (qRead x (.scratch tm.tid) (h % 2 ^ 15 * 64))
      let popped := fun (t : State) (h n : Nat) => block t h = { block s h with head := ((block s h).head + n) % 2 ^ 32, free := (block s h).free + n }
      let kept := fun (t : State) (hs : List Nat) => ∀ a, (∀ h ∈ hs, a < h % 2 ^ 15 * 64 ∨ h % 2 ^ 15 * 64 + 64 ≤ a) →
        homeRead t (.scratch tm.tid) a = homeRead s (.scratch tm.tid) a
      (e.partialP = none → ringTile s part core k.tid (ahOf k) 0 = .ok s1 (ra 0) →
        (if pair then ringTile s1 part core k.tid (ahOf k) 1 = .ok s2 (ra 1) else s2 = s1) →
        ringTile s2 part core k.tid (bhOf k) idx = .ok s3 rb → ahOf k ≠ bhOf k →
        let prods := fun (h r q : Nat) => (List.range 32).map fun j => blockProd ty (tileElem ty (ra h).1 (32 * r + j)) (tileElem ty rb.1 (256 * j + q))
        let bad := fun (h r q : Nat) => (List.range 32).any fun j =>
          (ra h).2.getD (elemSector ty (32 * r + j)) false || rb.2.getD (elemSector ty (256 * j + q)) false
        let lastB := pair ∨ sh.halves = 1 ∨ e.mh = 1
        ∃ t tm' e', exec (.kblockComplete core) s = .next t ∧ t.team? tm.tid = some tm' ∧ (t.core core).run = some e' ∧ t.dev = s.dev ∧
          popped t (ahOf k) halves ∧ (lastB → popped t (bhOf k) 1) ∧ kept t (if lastB then [ahOf k, bhOf k] else [ahOf k]) ∧
          (∀ n r q, r < 128 → q < 256 → accPois tm' n r q =
            (accPois tm n r q || (decide (k.tile.toNat + e.mh ≤ n ∧ inside (half n) r q) && bad (half n) r q))) ∧
          (ty ≠ .f4 → e' = { e with mh := next.1, kb := next.2 } ∧
            ∀ n r q, r < 128 → q < 256 → accGet tm' n r q =
              if k.tile.toNat + e.mh ≤ n ∧ inside (half n) r q then (fAdd .rn (accGet tm n r q) (blockSum (prods (half n) r q))).1 else accGet tm n r q) ∧
          (ty = .f4 → (∀ n r q, r < 128 → q < 256 → accGet tm' n r q = accGet tm n r q) ∧
            ∃ p, e' = { e with partialP := some p } ∧ ∀ h r q, h < 2 → r < 128 → q < 256 →
              Tab.get 0 p (accKey h r q) = if inside h r q then quarterSum (prods h r q) else 0)) ∧
      (∀ p, e.partialP = some p → ringTile s part core k.tid (shOf k) 0 = .ok s1 (ra 0) →
        (if pair then ringTile s1 part core k.tid (shOf k) 1 = .ok s2 (ra 1) else s2 = s1) →
        let ea := fun (h r : Nat) => ((ra h).1.getD r 0).toNat
        let bad := fun (h r q : Nat) => (ra h).2.getD (r / 32) false || (ra h).2.getD ((128 + q) / 32) false
        ∃ t tm', exec (.kblockComplete core) s = .next t ∧ t.team? tm.tid = some tm' ∧ t.dev = s.dev ∧
          popped t (shOf k) halves ∧ kept t [shOf k] ∧ (t.core core).run = some { e with mh := next.1, kb := next.2, partialP := none } ∧
          ∀ n r q, r < 128 → q < 256 →
            accGet tm' n r q = (if k.tile.toNat + e.mh ≤ n ∧ inside (half n) r q then
              scaleAdd (accGet tm n r q) (Tab.get 0 p (accKey (half n) r q)) (ea (half n) r) (ea (half n) (128 + q)) else accGet tm n r q) ∧
            accPois tm' n r q = (accPois tm n r q || (decide (k.tile.toNat + e.mh ≤ n ∧ inside (half n) r q) && bad (half n) r q)))) ∧
    (∀ e : Exec, c.run = some e → e.cmd = k →
      (∀ sh, k.op = 0xD0 → shapeOf k.aval = some sh → sh.halves ≤ e.mh →
        ∃ t, exec (.matrixCommandComplete core) s = .next t ∧ SameMemory s t ∧ ended t ∧ t.team? tm.tid = some tm) ∧
      (k.op = 0xD2 → ∃ t tm', exec (.matrixCommandComplete core) s = .next t ∧ SameMemory s t ∧ ended t ∧ t.team? tm.tid = some tm' ∧
        tm' = { tm with acc := tm'.acc, accP := tm'.accP } ∧ ∀ n r q, r < 128 → q < 256 →
          (accGet tm' n r q, accPois tm' n r q) = if n = k.tile.toNat then (0, false) else (accGet tm n r q, accPois tm n r q)) ∧
      (∀ g y, k.op = 0xD3 → k.tag ≠ 0 → s.group? k.gid = some g → g.tags[k.tag.toNat]?.join = some y →
        let v := k.bval.toNat
        let elem := fun (l : Lane) =>
          let r := if v.testBit 16 then (v % 128 + l.val) % 128 else v % 128
          let q := if v.testBit 16 then v / 2 ^ 8 % 256 else (v / 2 ^ 8 % 256 + l.val) % 256
          if accPois tm k.tile.toNat r q then canonNaN else accGet tm k.tile.toNat r q
        ∃ t g', exec (.matrixCommandComplete core) s = .next t ∧ SameMemory s t ∧ t.group? k.gid = some g' ∧ g'.regs = g.regs ∧
          g'.tags[k.tag.toNat]?.join = some { y with
            await := y.await - 1, sects := y.sects ++ [.vec ((lanesOf k.lanes).map fun l => ⟨k.dreg, l, elem l, false⟩)] }) ∧
      (∀ (r : Route) (a : Nat) (m : RM), k.op = 0xD4 → e.await = none → cmdRnd k = .det m → cmdFmt k ≠ .f4 → isRemote r = false → routeTier r ≠ some .host →
        let n := fmtBytes (cmdFmt k)
        let rows := bits k.cval.toNat 56 48
        let cols := bits k.cval.toNat 40 32
        let stride := k.cval.toNat % 2 ^ 32
        0 < n → (rows ≤ 1 ∨ cols * n ≤ stride) → 0 < rows → 0 < cols →
        EngSpan s x needW k.bval.toNat ((rows - 1) * stride + cols * n) r a →
        ∃ t, exec (.matrixCommandComplete core) s = .next t ∧ ended t ∧
          (∀ i j, i < rows → j < cols → (List.range n).map (fun z => homeRead t r (a + i * stride + j * n + z)) =
            natLe n (narrow (cmdFmt k) (rndOf m) ((if accPois tm k.tile.toNat i j then canonNaN else accGet tm k.tile.toNat i j).setWidth 64)).1) ∧
          ∀ b, (∀ i j z, i < rows → j < cols → z < n → b ≠ a + i * stride + j * n + z) → homeRead t r b = homeRead s r b))

/-- R96, R97, R273 to R289, R441: the arithmetic of the matrix engine and its steps. Where the spec leaves it open, the model is as log entries 53, 54, 57, 106 say. -/
def Obligations.MatrixSteps : Prop :=
  Claims.BlockSums ∧ Claims.MatrixSteps

-- device steps: power and errors

/-- R132, R135, R136, R437: the token message at a core takes back what the core returns, less what firmware withdraws, then serves it if it carries enough and no other core's
reservation, and else notes that the core has seen it, or writes its reservation if it had; power samples and what follows after a millisecond above 650 W, one more at 8 tokens, ten below
585 W and each further one; heat marks at 95 degrees that clear after 2 ms below 88, droop marks at more than 4 events in a millisecond that clear
after 2 ms with none. Where the spec leaves it open, the model is as log entries 47, 48 say. -/
def Obligations.PowerSteps : Prop :=
  ∀ (s : State) (die core x : Nat), die < 8 →
    let d := s.die die
    let c := s.core core
    let ms := 34000000
    (core = 48 * die + d.pos →
      let n := tokensWanted s core
      let k := if d.withdraw = 0 then 0 else min c.giveBack (d.limit - 8)
      let d1 := { d with limit := d.limit - k, count := d.count + (c.giveBack - k), pos := (d.pos + 1) % 48 }
      let c1 := { c with giveBack := 0 }
      ∃ t, exec (.tokenVisit die) s = .next t ∧ SameMemory s t ∧ t.groups = s.groups ∧ t.parts = s.parts ∧
        (n = 0 → t.die die = { d1 with resv := if d.resv = some core then none else d.resv } ∧ t.core core = { c1 with tokSeen := false }) ∧
        (n ≠ 0 → n ≤ d1.count → d.resv = none ∨ d.resv = some core →
          t.die die = { d1 with count := d1.count - n, resv := none } ∧
          t.core core = { c1 with tokens := c.tokens + n, tokWait := none, tokSeen := false }) ∧
        (n ≠ 0 → d1.count < n ∨ (d.resv ≠ none ∧ d.resv ≠ some core) →
          t.die die = { d1 with resv := if c.tokSeen = true ∧ d.resv = none then some core else d.resv } ∧
          t.core core = { c1 with tokWait := some (c.tokWait.getD s.now), tokSeen := true })) ∧
    (∀ p : Part, s.part? p.id = some p → s.cores = [(core, c)] → p.sectors.contains (core / 16) = true → c.asleep = false →
      (tick s).part? p.id = some { p with tokwait := p.tokwait +
        if (0 < tokensWanted s core) ∧ c.claimedBy = none then (if halved s core then 1 else 2) * s.pace.headD 1 else 0 }) ∧
    (exec (.powerSample die x) s = .next (s.setDie die { d with
      power := x
      overSince := if 650000 < x then some (d.overSince.getD s.now) else none
      withdraw := if 650000 < x then d.withdraw else 0
      minSince := if 650000 < x ∧ d.withdraw ≠ 0 ∧ d.limit ≤ 8 then some (d.minSince.getD s.now) else none
      underSince := if x < 585000 then some (d.underSince.getD s.now) else none })) ∧
    (∀ w, d.overSince = some w → w + ms ≤ s.now → exec (.powerCapExceeded die) s = .next (s.setDie die { d with
      withdraw := 1, restoreAt := none, minSince := if d.limit ≤ 8 then some (d.minSince.getD s.now) else none })) ∧
    (∀ w, d.minSince = some w → w + ms ≤ s.now → d.limit ≤ 8 → exec (.clockHalve die) s = .next (s.setDie die { d with halved := true })) ∧
    (∀ w, d.underSince = some w → w + 10 * ms ≤ s.now → d.halved = true →
      exec (.clockRestore die) s = .next (s.setDie die { d with halved := false, restoreAt := some (s.now + ms) })) ∧
    (let full := (if s.boot.tokens = 0 then 36 else s.boot.tokens)
     d.halved = false → d.withdraw = 0 → d.limit < full →
      ((∃ w, d.restoreAt = some w ∧ w ≤ s.now) ∨ (d.restoreAt = none ∧ ∃ w, d.underSince = some w ∧ w + 11 * ms ≤ s.now)) →
      exec (.tokenRestore die) s = .next (s.setDie die { d with
        count := d.count + 1, limit := d.limit + 1, restoreAt := if d.limit + 1 < full then some (s.now + ms) else none })) ∧
    (exec (.heatMark core x) s = .next (s.setCore core { c with
      temp := x, heat := if 9500 ≤ x then true else c.heat, coolSince := if 8800 ≤ c.temp then s.now else c.coolSince })) ∧
    (c.heat = true → c.temp < 8800 → c.coolSince + 2 * ms ≤ s.now →
      exec (.heatMarkClear core) s = .next (s.setCore core { c with heat := false })) ∧
    (let l := (c.droops.filter fun t => decide (s.now < t + ms)) ++ [s.now]
     exec (.droopMark core) s = .next (s.setCore core { c with droops := l, droop := if 4 < l.length then true else c.droop })) ∧
    (c.droop = true → (∀ t ∈ c.droops, t + 2 * ms ≤ s.now) →
      exec (.droopMarkClear core) s = .next (s.setCore core { c with droop := false, droops := [] }))

/-- R432: the containment record of a partition after an event: its first since V was cleared. -/
def Sys2Proof.Machine.contained (p : Part) (kind die unit pa : Nat) : Part :=
  if p.contain.getLsbD 63 then p
  else { p with
    contain := BitVec.ofNat 64 (2 ^ 63 + kind * 2 ^ 60 + die % 8 * 2 ^ 53 + unit % 64 * 2 ^ 47) ||| (p.contain &&& 0xFF#64)
    containPa := if kind = 2 then BitVec.ofNat 64 (pa % 2 ^ 48) else 0 }

/-- R428 to R432: an uncorrectable register error marks its element and nothing else of the group; a memory error marks its sector, or drops a clean copy; a fenced core loses what it
holds, and every team of a cluster that includes it is lost; a channel is fenced after sixteen errors within a second or untrained; a failed slice loses every team of its partition;
each is counted and the first is recorded. Where the spec leaves it open, the model is as log entries 68, 72, 73, 74 say. -/
def Obligations.ErrorSteps : Prop :=
  ∀ (s : State) (p : Part), s.part? p.id = some p →
    let msi := if p.contain.getLsbD 63 then [] else [Notice.msix p.id (p.contain.toNat % 256)]
    let lost := fun (t : State) (tids : List Nat) (core : Option Nat) =>
      (∀ tm : Team, s.team? tm.tid = some tm → t.team? tm.tid = some (if tm.tid ∈ tids then { tm with lost := true } else tm)) ∧
      ∀ g : Group, s.group? g.gid = some g → ∃ e, t.group? g.gid = some e ∧ (g.tid ∉ tids → e = g) ∧
        (g.tid ∈ tids → e.exiting = true ∧ e.killed = true ∧ e.wait = .none ∧ e.rob = [] ∧ e.buf = [] ∧ e.regs = g.regs ∧
          (some g.core = core → e.stbuf = [] ∧ e.tags = Vector.replicate 8 none) ∧ (some g.core ≠ core → e.stbuf = g.stbuf ∧ ((∀ n, ∀ k ∈ (s.core n).cmds, k.gid = g.gid → k.op ≠ 0xD3) → e.tags = g.tags)))
    (∀ (g : Group) (r : EccReg), s.group? g.gid = some g → g.part = p.id →
      ∃ t e, exec (.registerEccError g.gid r) s = .next t ∧ SameMemory s t ∧ t.notices = s.notices ++ msi ∧
        t.part? p.id = some (contained { p with regpois := (p.regpois + 1) % 2 ^ 64 } 1 (g.core / 48) (g.core % 48) 0) ∧
        t.group? g.gid = some e ∧ (∀ n, n ≠ g.gid → t.group? n = s.group? n) ∧
        match r with
        | .vec n l => e = { g with regs := { g.regs with v := e.regs.v, vp := e.regs.vp } } ∧
            ∀ m k, (e.regs.getV m k, e.regs.getVP m k) = (g.regs.getV m k, g.regs.getVP m k || (decide (m = n) && decide (k = l)))
        | .scalar n => e = { g with regs := { g.regs with s := e.regs.s, sp := e.regs.sp } } ∧
            ∀ m, (e.regs.getS m, e.regs.getSP m) = (g.regs.getS m, g.regs.getSP m || (decide (m = n) && decide (n ≠ 0)))
        | .win n hi l => e = { g with win := e.win } ∧
            ∀ k : Nat, e.win[k]? = if k = n.toNat then g.win[k]?.map (poisonWin hi l) else g.win[k]?
        | .common n => e = g ∧ ∀ tm, s.team? g.tid = some tm → t.team? g.tid = some { tm with cp := tm.cp ||| (1#16 <<< n.toNat) }) ∧
    (∀ core, core < 384 → (s.core core).fenced = false → corePart s core = some p.id →
      let tids := (s.teams.filter fun tm => touchesCore s core tm && !tm.ended).map (·.tid)
      ∃ (t : State) (q : Part), exec (.coreFence core) s = .next t ∧ SameMemory s t ∧ lost t tids (some core) ∧
        ((t.core core).fenced, (t.core core).locks, (t.core core).cmds, (t.core core).l1, (t.core core).copies, (t.core core).gathers) =
          (true, [], [], [], [], []) ∧ (t.core core).run = none ∧ (∀ r, r ∈ t.saved → r ∈ s.saved ∧ r.g.tid ∉ tids) ∧
        t.part? p.id = some (contained { p with
          fences := (p.fences + 1) % 2 ^ 64, waiters := q.waiters, tasks := q.tasks } 3 (core / 48) (core % 48) 0)) ∧
    (∀ pa, let tier : Tier := if pa < 0x10000000000 then .hbm else .vault
      ownsMem s p tier pa = true → s.dev.wf = true →
      ∃ t, exec (.memoryEccError (.home p.id pa)) s = .next t ∧ t.groups = s.groups ∧ t.host = s.host ∧
        (∀ k a, t.dev.readAs k a = s.dev.readAs k a) ∧ (∀ n, t.dev.poisoned n = (s.dev.poisoned n || decide (n = pa / 32))) ∧
        t.part? p.id = some (contained { p with mempois := (p.mempois + 1) % 2 ^ 64 } 2 (paDie tier pa) 0 (pa / 32 * 32)) ∧
        (tier = .hbm → (t.die (paDie tier pa)).chErrs = (s.die (paDie tier pa)).chErrs ++ [(channelOf pa, s.now)])) ∧
    (∀ (tm : Team) (off : Nat), s.team? tm.tid = some tm → tm.part = p.id → off < tm.scratchSize →
      ∃ t, exec (.memoryEccError (.scratch tm.tid off)) s = .next t ∧ t.groups = s.groups ∧ t.dev = s.dev ∧ t.host = s.host ∧
        t.team? tm.tid = some { tm with scratch := tm.scratch.setPois (off / 32) true } ∧
        t.part? p.id = some (contained { p with mempois := (p.mempois + 1) % 2 ^ 64 } 2 (tm.core / 48) 0 0)) ∧
    (∀ core pa x, (s.core core).l1.find? (fun y => y.line == pa / 128) = some x → x.part = p.id →
      ∃ t, exec (.memoryEccError (.l1 core pa)) s = .next t ∧ SameMemory s t ∧
        (x.dirty = 0 → (t.core core).l1 = (s.core core).l1.filter (fun y => !sameLine x.tier x.line y) ∧ t.parts = s.parts) ∧
        (x.dirty ≠ 0 → (t.core core).l1 = (s.core core).l1.map (fun y => if sameLine x.tier x.line y then { y with
            pois := y.pois ||| (1#4 <<< (pa / 32 % 4)) } else y) ∧
          t.part? p.id = some (contained { p with mempois := (p.mempois + 1) % 2 ^ 64 } 2 (core / 48) 0 (pa / 32 * 32)))) ∧
    (∀ sec, exec (.memoryEccError (.host sec)) s = .next { s with host := s.host.setPois sec true }) ∧
    (∀ die ch u, die < 8 → ch < 64 → (s.die die).chFenced.contains ch = false →
      (u = true ∨ 16 ≤ ((s.die die).chErrs.filter fun e => e.1 == ch && decide (s.now < e.2 + 34000000000)).length) →
      s.parts.find? (fun q => q.cgroups.contains (16 * die + ch / 4)) = some p →
      ∃ t, exec (.channelFence die ch u) s = .next t ∧ SameMemory s t ∧ (t.die die).chFenced = nsAdd (s.die die).chFenced ch ∧
        t.part? p.id = some (contained { p with fences := (p.fences + 1) % 2 ^ 64 } 4 die ch 0)) ∧
    (∀ slice, p.failed = false → p.sectors.contains (slice / 8) = true →
      let tids := (s.teams.filter fun tm => tm.part == p.id && !tm.ended).map (·.tid)
      ∃ t q, exec (.partitionFail p.id slice) s = .next t ∧ t.dev = s.dev ∧ t.host = s.host ∧ lost t tids none ∧ t.part? p.id = some q ∧
        q.failed = true ∧ q.contain = (contained p 5 (slice / 24) (slice % 24) 0).contain) ∧
    (∃ t, exec (.correctableError p.id) s = .next t ∧ PartNow s t { p with corrected := (p.corrected + 1) % 2 ^ 64 })

-- device steps: boot, partitions, attestation and keys

/-- R99 to R102, R425: a boot record that is signed and legal sets the token count and the vault split and loads the firmware its digest matches; one that is
not is reported and leaves the rest of what is in force; a tier is reached only with firmware loaded; a partition is created from free sectors and channel groups with room for its context store, its registers and its ports' counters at their
reset values; destroying it, with no launch in its table, erases its keys, drops what it holds without write-back, zeroes its vaults and frees its resources. Where the spec leaves it open, the model is as log entries 27, 75, 76, 95 say. -/
def Obligations.BootAndPartitions : Prop :=
  ∀ (s : State) (rec fw : List Byte) (sig : Bool) (n : Nat) (p : Part),
    (∀ i : Instr, (i = .bootRecordVerify rec sig fw ∧ s.boot.record = none) ∨ (i = .bootRecordLoad rec sig fw ∧ s.boot.bad = true) →
      let tok := rec.getD 9 0 |>.toNat
      let good := sig = true ∧ bootLegal rec = true
      (good → ∃ t, exec i s = .next t ∧
        t = { s with
          dies := t.dies
          boot := {
            record := some rec, verified := true, bad := false, tokens := tok / 4, split := (rec.getD 8 0).toNat % 4
            fwDigest := BitVec.ofNat 64 (leNat ((rec.drop 16).take 8))
            fw := if leNat ((sha256 fw).take 8) = leNat ((rec.drop 16).take 8) then fw else []
            fwLoaded := decide (leNat ((sha256 fw).take 8) = leNat ((rec.drop 16).take 8)), tier := s.boot.tier } } ∧
        ∀ d, d < 8 → t.die d = { s.die d with count := if tok / 4 = 0 then 36 else tok / 4, limit := if tok / 4 = 0 then 36 else tok / 4 }) ∧
      (¬good → exec i s = .next { s with
        boot := { s.boot with record := some rec, bad := true }, notices := s.notices ++ [.bootrecBad] })) ∧
    (bootLegal rec = true → rec.length = 64 ∧ leNat (rec.take 8) = 0x4252474100010000 ∧ (rec.getD 9 0).toNat / 4 ≤ 48 ∧ (rec.getD 9 0).toNat % 4 = 0 ∧
      (rec.getD 8 0).toNat ≤ 2) ∧
    (s.boot.verified = true → s.boot.fwLoaded = true → s.boot.tier < 3 →
      exec .tierReached s = .next { s with boot := { s.boot with tier := s.boot.tier + 1 } }) ∧
    (∀ sectors groups : List Nat, s.boot.verified = true → n < 24 → s.part? n = none → sectors.Nodup → groups.Nodup → sectors ≠ [] → groups ≠ [] →
      (∀ x ∈ sectors, x < 24) → (∀ x ∈ groups, x < 128) →
      (∀ q ∈ s.parts, (∀ x ∈ sectors, x ∉ q.sectors) ∧ ∀ x ∈ groups, x ∉ q.cgroups) → 768 * sectors.length ≤ 8192 * groups.length →
      ∃ t q, exec (.partitionCreate n sectors groups) s = .next t ∧ t.parts = s.parts ++ [q] ∧
        t = { s with parts := t.parts, free := s.free + 64, fabric := freshCounters s.fabric n } ∧ q = Part.create n q.sectors q.cgroups (randomKey s) ∧
        (∀ x ∈ t.fabric.ports, x.assigned = true → x.owner = n → x.ctrs = []) ∧ (∀ x, x ∈ q.sectors ↔ x ∈ sectors) ∧ (∀ x, x ∈ q.cgroups ↔ x ∈ groups) ∧
        (q.ptroot, q.pricfg, q.faberr, q.contain, q.evicts, q.launches, q.abnormal, q.corrected) = (0, 0, 0, 0, 0, 0, 0, 0)) ∧
    (s.part? p.id = some p → p.table = [] → s.dev.wf = true →
      ∃ t, exec (.partitionDestroy p.id) s = .next t ∧ t.host = s.host ∧ t.boot = s.boot ∧ t.part? p.id = none ∧
        (∀ m, m ≠ p.id → t.part? m = s.part? m) ∧ t.slots = s.slots.filter (fun k => k.2.owner != p.id) ∧
        (∀ g ∈ t.groups, g ∈ s.groups ∧ g.part ≠ p.id) ∧ (∀ x ∈ t.teams, x.part ≠ p.id) ∧ (∀ x ∈ t.sessions, x.1 ≠ p.id + 1) ∧
        (∀ c ∈ s.cores, p.sectors.contains (c.1 / 16) = true → (t.core c.1).l1 = [] ∧ (t.core c.1).cmds = [] ∧ (t.core c.1).tokens = 0 ∧
          (t.core c.1).giveBack = (s.core c.1).giveBack + (s.core c.1).tokens) ∧
        (∀ k a, inVaultOf p.sectors a = true → (∀ k', s.dev.keys.find? (·.1 == a / 32) ≠ some (a / 32, k')) → t.dev.readAs k a = 0) ∧
        (∀ j, inVaultOf p.sectors (j * 32) = true → t.dev.poisoned j = false) ∧
        ∀ k a, inVaultOf p.sectors a = false → t.dev.readAs k a = s.dev.readAs k a)

/-- R99, R107 to R111: the SPDM requests of a function that exists are answered but while the device waits for a boot record, a session opens with KEY_EXCHANGE, is established by FINISH and ends with END_SESSION;
KEYLOAD in a session of the partition loads a free slot with a key id the partition does not use yet; an erase closes the slot, and once no write that went through it is
still to be applied, the dirty bytes of the copies under its key stand at their homes, the copies are dropped and the slot is free. That a device which waits for
a good boot record answers none of these requests is log 75 (DEDUCED) on R99. Where the spec leaves it open, the model is as log entries 27, 75, 77, 78, 96 say. -/
def Obligations.AttestationAndKeys : Prop :=
  ∀ (s : State) (fn index : Nat) (nonce rec : List Byte) (p : Part),
    (s.boot.bad = true ∨ 25 ≤ fn → ∀ i ∈ [Instr.getVersion fn, .getCapabilities fn, .negotiateAlgorithms fn, .getDigests fn, .getCertificate fn,
        .challenge fn nonce, .getMeasurements fn index, .keyExchange fn, .finish fn, .endSession fn], exec i s = .next s) ∧
    (fn < 25 → s.boot.bad = false →
    let answered := fun (kind : String) (body : List Byte) => { s with notices := s.notices ++ [.spdm fn kind body] }
    let result := fun (e : String) => { s with notices := s.notices ++ [.keyload fn e] }
    exec (.getVersion fn) s = .next (answered "VERSION" [0x13]) ∧
    (∃ b, exec (.getCapabilities fn) s = .next (answered "CAPABILITIES" b)) ∧ exec (.negotiateAlgorithms fn) s = .next (answered "ALGORITHMS" algorithmsBody) ∧
    (∃ b, exec (.getDigests fn) s = .next (answered "DIGESTS" b)) ∧ (∃ b, exec (.getCertificate fn) s = .next (answered "CERTIFICATE" b)) ∧
    (∃ b, exec (.challenge fn nonce) s = .next (answered "CHALLENGE_AUTH" (nonce ++ b))) ∧
    (index = 1 → exec (.getMeasurements fn index) s = .next (answered "MEASUREMENTS" (sha256 s.boot.fw))) ∧
    (∀ r, index = 2 → s.boot.record = some r → exec (.getMeasurements fn index) s = .next (answered "MEASUREMENTS" (sha256 r))) ∧
    (4 ≤ index → index < 254 → fn = p.id + 1 → s.part? p.id = some p →
      exec (.getMeasurements fn index) s = .next (answered "MEASUREMENTS" (p.measured[index - 4]?.getD []))) ∧
    (∃ b, exec (.keyExchange fn) s = .next { (answered "KEY_EXCHANGE_RSP" b) with
      sessions := s.sessions.filter (fun x => x.1 != fn) ++ [(fn, false)] }) ∧
    (∀ b, (fn, b) ∈ s.sessions →
      exec (.finish fn) s = .next { (answered "FINISH_RSP" []) with sessions := s.sessions.map fun x => if x.1 = fn then (fn, true) else x } ∧
      exec (.endSession fn) s = .next { (answered "END_SESSION_ACK" []) with sessions := s.sessions.filter fun x => x.1 != fn }) ∧
    (∀ secured, secured = false ∨ (fn, true) ∉ s.sessions ∨ fn = 0 →
      exec (.keyloadLoad fn secured rec) s = .next (result "NO_SESSION") ∧ exec (.keyloadErase fn secured rec) s = .next (result "NO_SESSION")) ∧
    (let word := fun k => leNat ((rec.drop (8 * k)).take 8)
     klOp rec = word 0 / 2 ^ 24 % 256 ∧ klSlot rec = word 0 / 2 ^ 15 % 512 ∧ klDigs rec = word 0 / 2 ^ 12 % 8 ∧ klKeyId rec = word 1 % 2 ^ 16 ∧
      (klLegal rec = true ↔ rec.length = 224 ∧ word 0 / 2 ^ 32 = 0x594B4741 ∧ (klOp rec = 1 ∨ klOp rec = 2) ∧ word 0 % 2 ^ 12 = 0 ∧
        word 1 / 2 ^ 16 = 0 ∧ word 2 = 0 ∧ word 3 = 0 ∧ klKeyId rec ≠ 0 ∧
        (klOp rec = 1 → 1 ≤ klDigs rec ∧ klDigs rec ≤ 4 ∧ ∀ b ∈ rec.drop (96 + 32 * klDigs rec), b = 0))) ∧
    ((fn, true) ∈ s.sessions → fn = p.id + 1 → s.part? p.id = some p →
      (klLegal rec = false ∨ klOp rec ≠ 1 → exec (.keyloadLoad fn true rec) s = .next (result "BAD_RECORD")) ∧
      (klLegal rec = false ∨ klOp rec ≠ 2 → exec (.keyloadErase fn true rec) s = .next (result "BAD_RECORD")) ∧
      (klLegal rec = true → klSlot rec = 511 → (klOp rec = 1 → exec (.keyloadLoad fn true rec) s = .next (result "SLOT_RANGE")) ∧
        (klOp rec = 2 → exec (.keyloadErase fn true rec) s = .next (result "SLOT_RANGE")))) ∧
    ((fn, true) ∈ s.sessions → fn = p.id + 1 → s.part? p.id = some p → klLegal rec = true → klSlot rec ≠ 511 →
      (klOp rec = 1 →
        (s.slots.any (·.1 == klSlot rec) = true → exec (.keyloadLoad fn true rec) s = .next (result "SLOT_BUSY")) ∧
        (s.slots.any (·.1 == klSlot rec) = false →
          ((∃ x ∈ s.slots, x.2.owner = p.id ∧ x.2.keyId = klKeyId rec) → exec (.keyloadLoad fn true rec) s = .next (result "KEYID_DUP")) ∧
          ((∀ x ∈ s.slots, ¬(x.2.owner = p.id ∧ x.2.keyId = klKeyId rec)) →
            ∃ ds, exec (.keyloadLoad fn true rec) s = .next { (result "OK") with
              nextLoad := s.nextLoad + 1
              slots := s.slots ++ [(klSlot rec, ⟨p.id, klKeyId rec, (rec.drop 32).take 64, ds, s.nextLoad, false⟩)] } ∧
              ds.length = klDigs rec ∧ ∀ k, k < ds.length → ds[k]? = some ((rec.drop (96 + 32 * k)).take 32)))) ∧
      (klOp rec = 2 → s.slots.find? (·.1 == klSlot rec) = none → exec (.keyloadErase fn true rec) s = .next (result "OK")) ∧
      (klOp rec = 2 → ∀ k, s.slots.find? (·.1 == klSlot rec) = some (klSlot rec, k) →
        (k.owner ≠ p.id → exec (.keyloadErase fn true rec) s = .next (result "NOT_OWNER")) ∧
        (k.owner = p.id → exec (.keyloadErase fn true rec) s =
          .next { s with slots := s.slots.map fun x => if x.1 = klSlot rec then (x.1, { x.2 with closed := true }) else x }))) ∧
    (∀ n k, s.slots.find? (·.1 == n) = some (n, k) → k.closed = true → storesThrough s n k = false →
      ∃ t, exec (.keyEraseFinish n) s = .next t ∧ t.slots = s.slots.filter (fun x => x.1 != n) ∧ t.groups = s.groups ∧
        t.notices = s.notices ++ [.keyload (k.owner + 1) "OK"] ∧
        (∀ c, ∀ x ∈ (t.core c).l1, ¬(x.part = k.owner ∧ x.key.isLoad n k.load = true)) ∧
        (∀ c, ∀ x ∈ (t.core c).icache, (routeTag x.route).isLoad n k.load = false) ∧
        (∀ q, t.part? k.owner = some q → ∀ x ∈ q.hostCopies, ¬(x.part = k.owner ∧ x.key.isLoad n k.load = true)) ∧
        (s.dev.wf = true → s.host.wf = true →
          (∀ c d, ∀ x ∈ (s.core c).l1, ∀ y ∈ (s.core d).l1, x.line = y.line → c = d ∧ x = y) →
          (∀ c, ∀ x ∈ (s.core c).l1, x.part = k.owner → x.key.isLoad n k.load = true → chanFenced s x.tier (128 * x.line) = false →
            CarriedHome s t true x) ∧
          ∀ q, s.part? k.owner = some q → (∀ x ∈ q.hostCopies, ∀ y ∈ q.hostCopies, x.line = y.line → x = y) →
            ∀ x ∈ q.hostCopies, x.part = k.owner → x.tier = .host → x.key.isLoad n k.load = true → (∀ c, ∀ y ∈ (s.core c).l1, y.line ≠ x.line) →
              ∀ i b, i < 128 → x.data[i]? = some b → x.dirty.getLsbD i = true → t.host.readAs x.key (128 * x.line + i) = b)))

-- device steps: the fabric

/-- An egress port takes a packet as it is (R396). -/
def Sys2Proof.Machine.HasRoom (q : Port) (x : Pkt) : Prop :=
  if pTC x = 7 then qFlits q.queues[7] + 1 ≤ 64
  else sharedFlits q + flits x ≤ 1024 ∧ (hasPayload x = false ∨ qFlits (q.queues[pTC x]?.getD []) ≤ threshold q (pTC x))

/-- From `s` to `t` nothing but the fabric has changed. -/
def Sys2Proof.Machine.OnlyFabric (s t : State) : Prop := t = { s with fabric := t.fabric }

/-- A packet on a die has joined its class's queue at the egress port that leads to where it is bound, if there is room (R389). -/
def Sys2Proof.Machine.PutOn (s t : State) (die : Nat) (h : Hop) : Prop :=
  let dst := if h.out < 16 then h.out / 2 else h.out - 16
  let row := if die % 4 < dst % 4 then 0 else if dst % 4 < die % 4 then 1 else 2
  let n := if dst = die then h.out else 16 + 3 * die + row
  HasRoom (s.port n) h.pkt → (t.port n).queues[pTC h.pkt]?.getD [] = (s.port n).queues[pTC h.pkt]?.getD [] ++ [h]

/-- A packet of this device is on its way to the port its partition's routes choose (R390). -/
def Sys2Proof.Machine.SentOut (s t : State) (part : Nat) (x : Pkt) : Prop :=
  ∀ n, pickPort s part (pDst x).dev = some n → PutOn s t (pSrc x).die ⟨x, n, n⟩

/-- R389, R390, R394, R396: EGRESS_ENQUEUE queues a packet in its class, trims it to a header in TC7 when its class is over the threshold or the buffer is full, and
loses what does not fit; EGRESS_SEND takes the head of TC7, else of a sync class, else of a bulk class, out of the device or across a UCIe link, where it lands or goes on;
the sync classes and the bulk classes share the link by deficit round robin. A packet for another device leaves by a port of the partition that owns the port it came in by, the one
of its route with the fewest flits queued, the lower number of two; a packet for another die goes on towards it, along the row first. Where the spec leaves it open, the model is as log entries 8, 67, 102 say. -/
def Obligations.EgressSteps : Prop :=
  ∀ (s : State) (n : Nat) (h : Hop), portExists n = true → Tab.wf 0 (s.port n).ctrs = true →
    let x := h.pkt
    let q := s.port n
    let queue := fun (u : State) (c : Nat) => (u.port n).queues[c]?.getD []
    let count := fun (u : State) (k c : Nat) => Tab.get 0 (u.port n).ctrs (8 * k + c)
    let c := pTC x
    let full := threshold q c < qFlits (queue s c) ∨ 1024 < sharedFlits q + flits x
    let home := (pDst x).dev = s.fabric.devid
    let here := (pSrc x).dev = s.fabric.devid
    (hasPayload x = true ↔ pNsect x ≠ 0 ∧ pType x ∉ [3, 7, 8, 9]) ∧
    (∀ part dev m, let e := Tab.get 0 s.fabric.routes (4096 * part + dev)
      let may := fun (k : Nat) => k < 16 ∧ e.getLsbD k = true ∧ (s.port k).assigned = true ∧ (s.port k).owner = part
      let load := fun (k : Nat) => ((s.port k).queues.toList.map qFlits).sum
      pickPort s part dev = some m ↔ e.getLsbD 63 = true ∧ may m ∧ ∀ k, may k → load m < load k ∨ (load m = load k ∧ m ≤ k)) ∧
    (((n < 16 ∧ h.out = n) ∨ (16 ≤ n ∧ home ∧ h.out = 16 + (pDst x).die) ∨ (16 ≤ n ∧ ¬home ∧ here ∧ pickPort s (pSrc x).part (pDst x).dev = some h.out) ∨
        (16 ≤ n ∧ ¬home ∧ ¬here ∧ ∃ a, a < 32 ∧ pickPort s a (pDst x).dev = some h.out ∧ ∀ b, b < 32 → b ≠ a → pickPort s b (pDst x).dev = none)) → h.inp = n →
      ∃ t, exec (.egressEnqueue n x) s = .next t ∧ OnlyFabric s t ∧ (∀ m, m ≠ n → t.port m = s.port m) ∧
      (HasRoom q x → (∀ j, j < 8 → queue t j = if j = c then queue s j ++ [h] else queue s j) ∧ (t.port n).ctrs = q.ctrs) ∧
      (c < 7 → hasPayload x = true → full →
        (∀ j, j < 8 → queue t j = if j = 7 ∧ qFlits (queue s 7) + 1 ≤ 64 then queue s j ++ [{ h with pkt := { x with
            dw0 := (x.dw0 &&& ~~~(0x7#64 <<< 55)) ||| (0x7#64 <<< 55) ||| (1#64 <<< 54)
            dw1 := (x.dw1 &&& ~~~(0x7#64 <<< 13)) ||| (BitVec.ofNat 64 c <<< 13), dw3 := 0, payload := [] } }] else queue s j) ∧
        count t 0 c = (count s 0 c + 1) % 2 ^ 64 ∧ (64 < qFlits (queue s 7) + 1 → count t 5 c = (count s 5 c + 1) % 2 ^ 64)) ∧
      ((c = 7 ∧ 64 < qFlits (queue s 7) + 1) ∨ (c < 7 ∧ hasPayload x = false ∧ 1024 < sharedFlits q + flits x) →
        (∀ j, j < 8 → queue t j = queue s j) ∧ count t 5 c = (count s 5 c + 1) % 2 ^ 64)) ∧
    (q.lastBulk ≤ 3 → 4 ≤ q.lastSync → q.lastSync ≤ 6 → ∃ u, OnlyFabric s u ∧ (∀ m, m ≠ n → u.port m = s.port m) ∧
      ((∀ j, j < 8 → queue s j = []) → exec (.egressSend n) s = .next u ∧ ∀ j, j < 8 → queue u j = []) ∧
      ∀ lo hi, (lo, hi) ∈ [(7, 7), (4, 6), (0, 3)] → (∀ j, hi < j → j < 8 → queue s j = []) → (∃ j, lo ≤ j ∧ j ≤ hi ∧ queue s j ≠ []) →
        ∃ j h rest, lo ≤ j ∧ j ≤ hi ∧ queue s j = h :: rest ∧ queue u j = rest ∧ (∀ k, k < 8 → k ≠ j → queue u k = queue s k) ∧
          (lo < 7 →
            let m := hi + 1 - lo
            let last := if lo = 0 then q.lastBulk else q.lastSync
            let turn := fun (i : Nat) => lo + (last - lo + m - i % m) % m
            let gain := fun (k : Nat) => 64 * max (q.w.toNat / 2 ^ (8 * k) % 256) 1
            let need := fun (k : Nat) => 64 * ((queue s k).head?.map fun y => flits y.pkt).getD 0
            let held := fun (y : Port) (k : Nat) => y.deficit[k]?.getD 0
            ∃ r, turn r = j ∧ (∀ i, i < r → queue s (turn i) ≠ [] → held q (turn i) + (i + m - 1) / m * gain (turn i) < need (turn i)) ∧
              need j ≤ held q j + (r + m - 1) / m * gain j ∧
              held (u.port n) j = (if rest = [] then 0 else held q j + (r + m - 1) / m * gain j - need j) ∧
              (∀ k, lo ≤ k → k ≤ hi → k ≠ j → queue s k ≠ [] →
                held (u.port n) k = held q k + ((List.range r).filter fun i => turn (i + 1) == k).length * gain k) ∧
              (∀ k, lo ≤ k → k ≤ hi → queue s k = [] → (∃ i, i < r ∧ turn i = k) → held (u.port n) k = 0) ∧
              (u.port n).lastBulk = (if lo = 0 then j else q.lastBulk) ∧ (u.port n).lastSync = if lo = 0 then q.lastSync else j) ∧
          (n < 16 → exec (.egressSend n) s = .next u) ∧
          (16 ≤ n → h.out = 16 + hopDie n → exec (.egressSend n) s = .next (landPkt u h.inp h.pkt)) ∧
          (16 ≤ n → h.out ≠ 16 + hopDie n → ∃ t, exec (.egressSend n) s = .next t ∧ PutOn u t (hopDie n) h)) ∧
    (∀ m, n < 16 → q.assigned = true → pktBad x = false → ¬home → pickPort s q.owner (pDst x).dev = some m →
      ∃ t, exec (.transitForward n x) s = .next t ∧ OnlyFabric s t ∧ PutOn s t (n / 2) ⟨x, m, n⟩) ∧
    (∀ i : Instr, n < 16 → q.assigned = true → q.owner = (pDst x).part → pktBad x = false → pTrim x = false → home → n / 2 ≠ (pDst x).die →
      (i, pType x) ∈ [(.wr n x, 1), (.wrb n x, 2), (.rd n x, 3), (.rdrsp n x, 4), (.atReq n x, 5), (.atrsp n x, 6), (.err n x, 7), (.ack n x, 8), (.rreq n x, 9),
        (.qop n x, 10), (.qrsp n x, 11), (.ctok n x, 12), (.fill n x, 16)] →
      ∃ t, exec i s = .next t ∧ OnlyFabric s t ∧ PutOn s t (n / 2) ⟨x, 16 + (pDst x).die, n⟩)

/-- A packet of a type reaches its die whole. -/
def Sys2Proof.Machine.Comes (s : State) (port : Nat) (p : Pkt) (typ : Nat) : Prop :=
  pType p = typ ∧ pTrim p = false ∧ pktBad p = false ∧ (port < 16 → (s.port port).assigned = true ∧ (s.port port).owner = (pDst p).part ∧ port / 2 = (pDst p).die) ∧ (pDst p).dev = s.fabric.devid

/-- R392, R397, R398, R400 to R407: arrivals. A sequenced packet in its stream's window that must wait for others is held, one that starts a stream afresh sets NEXT, and a duplicate is
discarded; one beyond the window is trimmed, a trimmed header leaves a hole, and each queues a re-request; ERR records a refused write in FABERR and fails the engine operation
that made it; ACK frees what it covers; RREQ has the packet sent again; a packet that R397 discards is counted as lost and changes nothing else. Where the spec leaves it open, the model is as log entries 66, 97 say. -/
def Obligations.Arrivals : Prop :=
  ∀ (s : State) (port : Nat) (p : Pkt),
    let sid : StreamId := ⟨pDst p, pSrc p, pTC p⟩
    let osid : StreamId := ⟨pDst p, pSrc p, pOtc p⟩
    let ahead := fun (d : DstStream) => (pSeq p + 65536 - d.next) % 65536
    let covered := fun (n : Nat) => n != pSeq p && decide ((pSeq p + 65536 - n) % 65536 < 32768)
    (∀ (i : Instr) (typ : Nat),
      (i, typ) ∈ [(.wr port p, 1), (.wrb port p, 2), (.rd port p, 3), (.rdrsp port p, 4), (.atReq port p, 5), (.atrsp port p, 6), (.qop port p, 10),
        (.qrsp port p, 11), (.ctok port p, 12), (.fill port p, 16)] → Comes s port p typ → pUnord p = false →
      (∀ d, (if pNew p then d = ⟨sid, pSeq p, [], [], [], 0, none⟩ else dstOf? s sid = some d) → ahead d < 64 →
        pSeq p ∉ d.applied → (∀ h ∈ d.held, h.1 ≠ pSeq p) →
        ∃ t, exec i s = .next t ∧ OnlyFabric s t ∧
          dstOf? t sid = some { d with holes := d.holes.filter fun h => h.1 != pSeq p, held := d.held ++ [(pSeq p, p, port)] } ∧
          (∀ y, y ≠ sid → dstOf? t y = dstOf? s y) ∧ t.fabric.src = s.fabric.src ∧
          t.fabric.rreqs = s.fabric.rreqs.filter fun r => !(decide (r.sid = sid) && (pNew p || r.seq == pSeq p))) ∧
      (∀ d, pNew p = false → dstOf? s sid = some d → (32768 ≤ ahead d ∨ pSeq p ∈ d.applied ∨ ∃ h ∈ d.held, h.1 = pSeq p) →
        ∃ t, exec i s = .next t ∧ OnlyFabric s t ∧ dstOf? t sid = some { d with sinceAck := 0, oldest := none } ∧
          SentOut s t (pDst p).part ⟨mkDw0 8 6 false false false false (pSrc p) (pDst p) 0, mkDw1 d.next 0 0 (pTC p), mkDw2 0 0 0, 0, []⟩) ∧
      (∀ d, pNew p = false → dstOf? s sid = some d → 64 ≤ ahead d → ahead d < 32768 → pSeq p ∉ d.applied → (∀ h ∈ d.held, h.1 ≠ pSeq p) →
        (∀ r ∈ s.fabric.rreqs, r.sid = sid → r.seq ≠ pSeq p) →
        ∃ t, exec i s = .next t ∧ OnlyFabric s t ∧ t.fabric.dst = s.fabric.dst ∧
          t.fabric.rreqs = s.fabric.rreqs ++ [⟨sid, pSeq p, s.ns, false, none⟩] ∧
          (Tab.wf 0 (s.port port).ctrs = true → port < 40 →
            Tab.get 0 (t.port port).ctrs (pTC p) = (Tab.get 0 (s.port port).ctrs (pTC p) + 1) % 2 ^ 64)) ∧
      (pNew p = false → dstOf? s sid = none → (∀ r ∈ s.fabric.rreqs, r.sid = sid → r.seq ≠ pSeq p) →
        exec i s = .next { s with fabric := { s.fabric with rreqs := s.fabric.rreqs ++ [⟨sid, pSeq p, s.ns, true, none⟩] } })) ∧
    (∀ d, pTrim p = true → pktBad p = false → (port < 16 → (s.port port).assigned = true ∧ (s.port port).owner = (pDst p).part ∧ port / 2 = (pDst p).die) → (pDst p).dev = s.fabric.devid →
      unsequenced (pType p) = false → (if pNew p then d = ⟨osid, pSeq p, [], [], [], 0, none⟩ else dstOf? s osid = some d) → ahead d < 64 →
      pSeq p ∉ d.applied → (∀ h ∈ d.held, h.1 ≠ pSeq p) → (∀ h ∈ d.holes, h.1 ≠ pSeq p) → (∀ r ∈ s.fabric.rreqs, r.sid = osid → r.seq ≠ pSeq p) →
      ∃ t, exec (.trimmedHeader port p) s = .next t ∧ OnlyFabric s t ∧
        dstOf? t osid = some { d with holes := d.holes ++ [(pSeq p, s.ns, port)] } ∧
        t.fabric.rreqs = (s.fabric.rreqs.filter fun r => !(pNew p && decide (r.sid = osid))) ++ [⟨osid, pSeq p, s.ns, false, some port⟩]) ∧
    (∀ q, Comes s port p 7 → pStatus p = 1 → s.part? (pDst p).part = some q → q.faberr.getLsbD 63 = false → q.id = (pDst p).part →
      ∃ t, exec (.err port p) s = .next t ∧ SameMemory s t ∧ (s.engOut = [] → t.groups = s.groups) ∧
        t.part? q.id = some { q with faberr := BitVec.ofNat 64 (2 ^ 63 + 2 * 2 ^ 60 + (pSrc p).dev * 2 ^ 40 + (pSrc p).die * 2 ^ 37 + (pSrc p).part * 2 ^ 32
          + pSeq p * 2 ^ 16 + pOtc p * 2 ^ 13) ||| (q.faberr &&& 0xFF#64) } ∧
        t.notices = s.notices ++ [.msix q.id (q.faberr.toNat % 256)] ∧
        ∀ o ∈ s.engOut, ∀ w, o.writes.find? (fun w => decide (w.1 = osid) && w.2.1 == pSeq p) = some w → o.ended = false →
          { o with writes := o.writes.filter fun w => !(decide (w.1 = osid) && w.2.1 == pSeq p), fail := o.fail.or (some (Cause.perm.bit, w.2.2)) } ∈ t.engOut) ∧
    (∀ x, Comes s port p 8 → srcOf? s osid = some x → (∀ q, s.part? (pDst p).part = some q → q.remDue = [] ∧ q.recDue = []) →
      let cover := fun (g : Group) => { g with remWr := g.remWr.filter fun w => w.lost || !(decide (w.sid = osid) && covered w.seq) }
      ∃ t, exec (.ack port p) s = .next t ∧ SameMemory s t ∧ srcOf? t osid = some { x with unacked := x.unacked.filter fun u => !covered u.1 } ∧
        (s.engOut = [] → t.groups = s.groups.map cover ∧ t.ended = s.ended.map cover ∧ t.saved = s.saved.map fun y => { y with g := cover y.g }) ∧
        ∀ o ∈ s.engOut, o.ended = false → { o with writes := o.writes.filter fun w => !(decide (w.1 = osid) && covered w.2.1) } ∈ t.engOut) ∧
    (∀ x u, Comes s port p 9 → srcOf? s osid = some x →
      (if pStatus p = 2 then x.unacked.head? else x.unacked.find? (·.1 == pSeq p)) = some u →
      ∃ t, exec (.rreq port p) s = .next t ∧ OnlyFabric s t ∧
        srcOf? t osid = some { x with unacked := x.unacked.map fun y => if y.1 = u.1 then (y.1, y.2.1, s.ns, y.2.2.2) else y } ∧
        SentOut s t (pSrc u.2.1).part { u.2.1 with dw0 := u.2.1.dw0 ||| (1#64 <<< 11) ||| (if pStatus p = 2 then 1#64 <<< 10 else 0) }) ∧
    (∀ (i : Instr) (typ : Nat),
      (i, typ) ∈ [(.wr port p, 1), (.rd port p, 3), (.err port p, 7), (.ack port p, 8), (.rreq port p, 9)] → pType p = typ → pTrim p = false →
      (pktBad p = true ∨ (port < 16 ∧ ((s.port port).assigned = false ∨
        ((pDst p).dev = s.fabric.devid ∧ (s.port port).owner ≠ (pDst p).part)))) → Tab.wf 0 (s.port port).ctrs = true → port < 40 →
      ∃ t, exec i s = .next t ∧ OnlyFabric s t ∧ (∀ m, m ≠ port → t.port m = s.port m) ∧
        t.port port = { s.port port with ctrs := (t.port port).ctrs } ∧
        Tab.get 0 (t.port port).ctrs (40 + pTC p) = (Tab.get 0 (s.port port).ctrs (40 + pTC p) + 1) % 2 ^ 64)

/-- R103, R107, R334, R343, R356, R398, R400 to R405: packets carried out in their turn, and timers. A write, a commit token's writes or a write-back sets the bytes it carries, as its key decrypts them, and their poison, a
refused one nothing; a read and an atomic are answered with what they found, encrypted under the slot, or refused; a response lands in the tag that asked, poisoned if refused or under no
slot; each counts as applied. A re-request goes out 64 ns after the last to its device, an ACK after 256 ns; an unacknowledged packet is sent again when its timer runs out, and after as
many resends as MAXRS gives its stream breaks. Where the spec leaves it open, the model is as log entries 64, 65, 66 say. -/
def Obligations.PacketsApplied : Prop :=
  ∀ (s : State) (sid : StreamId) (d : DstStream) (p : Pkt) (port : Nat), s.fabric.dst.find? (decide <| ·.sid = sid) = some d → d.applied = [] →
    d.held.find? (·.1 == d.next) = some (d.next, p, port) → pSeq p = d.next → d.sinceAck + 1 < 16 → sid.tc < 8 → chainLeft s p = 0 →
    canSend s (answerClass sid) 1 = true →
    let i := Instr.packetApply sid d.next
    let counted := fun (t : State) => dstOf? t sid = some { d with
      next := (d.next + 1) % 65536, held := d.held.filter fun h => h.1 != d.next, holes := d.holes.filter fun h => h.1 != d.next
      sinceAck := d.sinceAck + 1, oldest := some (d.oldest.getD s.ns) }
    let a := pAddr p
    let pay := (openPkt s (pDst p).part s.fabric.devid p).payload
    let refusal := fun (t : State) =>
      SentOut s t sid.own.part ⟨mkDw0 7 6 false false false false sid.peer sid.own 0, mkDw1 d.next 0 0 sid.tc, mkDw2 0 1 0, 0, []⟩
    let carries := pType p = 1 ∨ pType p = 2 ∨ (pNsect p ≠ 0 ∧ (pType p = 12 ∨ (pType p = 16 ∧ sid.tc = 0)))
    let answer := fun (t : State) (typ status : Nat) (bs : List Byte) (pz : Nat → Bool) =>
      (∀ x, srcOf? s (answerClass sid) = some x → x.broken = false) → ∃ x q, srcOf? t (answerClass sid) = some x ∧ x.unacked.getLast? = some q ∧
        pType q.2.1 = typ ∧ pTag q.2.1 = pTag p ∧ pStatus q.2.1 = status ∧ (∀ k, k < 64 → q.2.1.dw3.getLsbD k = pz k) ∧
        if status = 0 then ∃ y, pktKey s (pDst p).part s.fabric.devid p = some y ∧ pKey q.2.1 = y.2 % 65536 ∧ q.2.1.payload = sealBytes y.1 a bs
        else q.2.1.payload = bs
    (∀ r, carries → destRoute s p = some r → RouteOk s r →
      let en := fun (k : Nat) => k < pay.length ∧ (pType p ≠ 2 ∨ p.dw3.getLsbD (32 + k) = true)
      ∃ t, exec i s = .next t ∧ counted t ∧ (∀ x, homeRead t r x = if a ≤ x ∧ en (x - a) then pay[x - a]?.getD 0 else homeRead s r x) ∧
        ∀ n, homePois t r n =
          if a / 32 ≤ n ∧ n < a / 32 + max (pNsect p) 1 then
            (if pType p ≠ 2 ∨ (∀ k, k < 32 → p.dw3.getLsbD (32 + k) = true) then p.dw3.getLsbD (n - a / 32)
             else homePois s r n || p.dw3.getLsbD (n - a / 32))
          else homePois s r n) ∧
    (carries → destRoute s p = none → ∃ t, exec i s = .next t ∧ counted t ∧ SameMemory s t ∧ refusal t) ∧
    (pType p = 3 → ∃ t, exec i s = .next t ∧ counted t ∧ t.dev = s.dev ∧ t.groups = s.groups ∧
      (∀ r, destRoute s p = some r →
        answer t 4 0 ((List.range (32 * pNsect p)).map fun k => homeRead s r (a + k)) fun k => decide (k < pNsect p) && homePois s r (a / 32 + k)) ∧
      (destRoute s p = none → t.host = s.host ∧ answer t 4 1 [] fun _ => false)) ∧
    (∀ r f wide, pType p = 5 → destRoute s p = some r → RouteOk s r → argAtom (pArg p) = (f, wide) →
      let n := if wide then 8 else 4
      let word := fun (k : Nat) => BitVec.ofNat 64 (leNat ((pay.drop (8 * k)).take 8))
      (wide = false → (word 0).toNat < 2 ^ 32 ∧ (word 1).toNat < 2 ^ 32) →
      let old := BitVec.ofNat 64 (leNat ((List.range n).map fun k => homeRead s r (a + k)))
      ∃ t, exec i s = .next t ∧ counted t ∧ answer t 6 0 (natLe 32 old.toNat) (fun k => decide (k = 0) && homePois s r (a / 32)) ∧
        (∀ n, homePois t r n = homePois s r n) ∧
        ∀ x, homeRead t r x =
          if a ≤ x ∧ x < a + n then BitVec.ofNat 8 ((atomRule f wide old (word 0) (word 1)).toNat / 256 ^ (x - a)) else homeRead s r x) ∧
    (pType p = 5 → destRoute s p = none → ∃ t, exec i s = .next t ∧ counted t ∧ SameMemory s t ∧ answer t 6 1 [] fun _ => false) ∧
    (∀ (r : RemReq) (g : Group) (y : TagSt), (pType p = 4 ∨ pType p = 6) → s.fabric.reqs.find? (·.tag == pTag p) = some r → r.eng = none →
      s.fabric.reqs.filter (fun x => x.batch == r.batch || x.tag == pTag p) = [r] → s.group? g.gid = some g → r.gid = g.gid → g.tags[r.ttag.toNat]?.join = some y →
      let key := pktKey s sid.own.part sid.peer.dev p
      ∃ t, exec i s = .next t ∧ counted t ∧ SameMemory s t ∧ (pStatus p ≠ 1 → key = none → refusal t) ∧
        (∀ q, (pStatus p = 1 ∨ key = none) → q.id = sid.own.part → s.part? q.id = some q → q.faberr.getLsbD 63 = false → ∃ q', t.part? q.id = some q' ∧
          q'.faberr = BitVec.ofNat 64 (2 ^ 63 + 2 * 2 ^ 60 + sid.peer.dev % 4096 * 2 ^ 40 + sid.peer.die % 8 * 2 ^ 37 + sid.peer.part % 32 * 2 ^ 32
            + d.next % 65536 * 2 ^ 16 + sid.tc * 2 ^ 13) ||| (q.faberr &&& 0xFF#64)) ∧
        t.group? g.gid = some { g with
          tags := g.tags.setIfInBounds r.ttag.toNat (some { y with
            await := y.await - 1
            sects := y.sects ++ [if pStatus p = 1 ∨ key = none then poisonedLanding r else pktLand (openPkt s sid.own.part sid.peer.dev p) r] }) }) ∧
    (∀ r, pType p = 10 → pArg p = 1 → destRoute s p = some r → RouteOk s r → barBad (homeNat s r a 8) = false →
      ∃ t, exec i s = .next t ∧ counted t ∧
        homeNat t r a 8 = (let v := homeNat s r a 8
          if v % 2 ^ 24 + 1 = v / 2 ^ 32 % 2 ^ 24 then (v - v % 2 ^ 24) ^^^ 2 ^ 63 else v + 1)) ∧
    (∀ r, pType p = 10 → 4 ≤ pArg p → destRoute s p = some r → RouteOk s r →
      let w := fun (k : Nat) => leNat (((openPkt s (pDst p).part s.fabric.devid p).payload.drop (8 * k)).take 8)
      ∃ t, exec i s = .next t ∧ counted t ∧
        (pArg p = 4 → homeNat t r (a + 48) 4 = (homeNat s r (a + 48) 4 + 1) % 2 ^ 32) ∧
        (pArg p = 5 → homeNat t r (a + 48) 4 = (homeNat s r (a + 48) 4 + (2 ^ 32 - 1)) % 2 ^ 32) ∧
        (pArg p = 6 → homeNat t r a 8 = if homeNat s r a 8 % 2 ^ 55 = w 0 % 2 ^ 55
          then homeNat s r a 8 / 2 ^ 55 * 2 ^ 55 + w 1 % 2 ^ 55 else homeNat s r a 8) ∧
        (pArg p = 7 → (homeNat t r (a + 48) 8).testBit 32 = true)) ∧
    (∀ g own, pType p = 11 → pStatus p = 0 → s.group? g.gid = some g → g.remOp = some (own, pTag p, none) →
      (pArg p ≠ 5 → pArg p ≠ 6 →
        ∃ t, exec i s = .next t ∧ counted t ∧ SameMemory s t ∧ t.group? g.gid = some { g with remOp := some (own, pTag p, some (pArg p)) }) ∧
      (pArg p = 5 → (∀ x ∈ s.groups, ∀ o, x.remOp = some (o, pTag p, none) → x = g) →
        ∃ t, exec i s = .next t ∧ counted t ∧ SameMemory s t ∧ t.group? g.gid = some { g with
          remOp := none, wait := .parked (.glob .remote .hw .clear 0 sid.peer.dev) a false, spoilt := false, parkedAt := s.now, parkedClk := g.sr.clk2, waitFrom := none })) ∧
    ((pType p = 12 ∧ pNsect p = 0) ∨ (pType p = 16 ∧ (pNsect p = 0 ∨ sid.tc ≠ 0)) → ∃ t, exec i s = .next t ∧ counted t ∧ OnlyFabric s t) ∧
    (∀ dev r, s.fabric.rreqs.find? (fun r => r.sid.peer.dev == dev &&
        s.fabric.rreqs.all fun y => y.sid.peer.dev != dev || decide (r.time ≤ y.time)) = some r → Tab.get 0 s.fabric.rreqLast dev = 0 ∨ Tab.get 0 s.fabric.rreqLast dev + 64 ≤ s.ns + 1 →
      ∃ t, exec (.rreqSend dev) s = .next t ∧ OnlyFabric s t ∧ t.fabric.rreqs = s.fabric.rreqs.erase r ∧
        (∀ n, r.port = some n → n < 40 → r.sid.tc < 8 → Tab.wf 0 (s.port n).ctrs = true →
          Tab.get 0 (t.port n).ctrs (8 + r.sid.tc) = (Tab.get 0 (s.port n).ctrs (8 + r.sid.tc) + 1) % 2 ^ 64) ∧
        SentOut s t r.sid.own.part ⟨mkDw0 9 7 false false false false r.sid.peer r.sid.own 0, mkDw1 r.seq 0 0 r.sid.tc,
          mkDw2 0 (if r.resync then 2 else 0) 0, 0, []⟩) ∧
    (∀ w, d.oldest = some w → w + 256 ≤ s.ns →
      ∃ t, exec (.ackSend sid) s = .next t ∧ OnlyFabric s t ∧ dstOf? t sid = some { d with sinceAck := 0, oldest := none } ∧
        SentOut s t sid.own.part ⟨mkDw0 8 6 false false false false sid.peer sid.own 0, mkDw1 d.next 0 0 sid.tc, mkDw2 0 0 0, 0, []⟩) ∧
    (∀ (x : SrcStream) (seq at' n : Nat) (q : Pkt), srcOf? s sid = some x → x.broken = false → x.unacked.find? (·.1 == seq) = some (seq, q, at', n) →
      at' + 256 * max s.fabric.rto 1 ≤ s.ns →
      (n < max s.fabric.maxrs 1 → ∃ t, exec (.retransmitTimeout sid seq) s = .next t ∧ OnlyFabric s t ∧
        srcOf? t sid = some { x with unacked := x.unacked.map fun y => if y.1 = seq then (y.1, y.2.1, s.ns, y.2.2.2 + 1) else y } ∧
        SentOut s t (pSrc q).part { q with dw0 := q.dw0 ||| (1#64 <<< 11) }) ∧
      (max s.fabric.maxrs 1 ≤ n → ∃ t, exec (.retransmitTimeout sid seq) s = .next t ∧ SameMemory s t ∧
        srcOf? t sid = some { x with unacked := [], broken := true }))

-- reset and the invariant

/-- R99 to R101, R391, R395, R404: what reset leaves, with the values the spec gives: tier 0, no partition and nothing that belongs to one, the ports' weights and thresholds,
DEVID, RTO and MAXRS, no route, no assigned port; and nothing of a boot record is in force, no memory lists a byte (that such a byte reads 0 is the
model's choice, log entry 7). Where the spec leaves it open, the model is as log entries 7, 8 say. -/
def Obligations.ResetState : Prop :=
  let s := State.reset
  s.boot.tier = 0 ∧ s.parts = [] ∧ s.launches = [] ∧ s.groups = [] ∧ s.teams = [] ∧ s.slots = [] ∧ s.sessions = [] ∧
    (∀ n, n < 40 → portExists n = true → readPf s (0x100000 + 256 * n) = 0x0010080820100804 ∧
      readPf s (0x100008 + 256 * n) = 0x00C0008001000040 ∧ readPf s (0x100010 + 256 * n) = 0x0000040004000400 ∧
      readPf s (0x100018 + 256 * n) = 0) ∧
    readPf s 0x103000 = 0 ∧ readPf s 0x103008 = 0x0000000000200008 ∧
    (∀ p d, p < 24 → d < 4096 → readPf s (0x200000 + 0x8000 * p + 8 * d) = 0) ∧
    BootOk s.boot ∧ MemoriesOk s ∧ ∀ r a, homeRead s r a = 0

/-- R99, R100: what is in force of a boot record stays legal: whatever state, instruction, event or choice, a step from a state in which nothing is in force without a verified record, the
fields are legal and a tier above 0 has its firmware leads to such a state again, and the tier does not fall. Where the spec leaves it open, the model is as log entry 75 says. -/
def Obligations.BootOkKept : Prop :=
  ∀ s t : State, BootOk s.boot → step s = .next t → BootOk t.boot ∧ s.boot.tier ≤ t.boot.tier
end

