-- ==== Sys2Proof/Laws/Gather.lean ====
section
/-! SUPPORT. What the steps towards the records of other devices (R297, R299, R305) come to where no record lies on one, so that no later proof
unfolds them. -/

namespace Sys2Proof.Machine

open Sys2Proof

theorem recRead_here (s : State) (g : Group) (x : Route × Nat) (h : isRemote x.1 = false) : recRead s g x = .data (homeBytes s x.1 x.2 64) false := by
  simp [recRead, h]

theorem withRec_here (va : W64) (s : State) (g : Group) (x : Route × Nat) (k : List Byte → Out) (h : isRemote x.1 = false) :
    withRec va s g x k = k (homeBytes s x.1 x.2 64) := by
  simp [withRec, recRead_here s g x h]

theorem withCur_here (hva : W64) (s : State) (g : Group) (h : Route × Nat) (k : W64 → Out) (hh : isRemote h.1 = false) :
    withCur hva s g h k = k (handleCur s h) := by
  simp [withCur, hh]

theorem ownStep_none (g : Group) (hva : W64) (swap : Bool) (h : g.recStep = none) : ownStep g hva swap = none := by
  simp [ownStep, h]

theorem settleRec_none (s : State) (g : Group) (h : g.recStep = none) : settleRec s g = (s, g) := by
  simp [settleRec, h]

theorem recDone_none (s : State) (g : Group) (h : g.recStep = none) : recDone s g = (s, g) := by
  simp [recDone, h]

/-- With nothing begun, the descriptor is the handle's current one. -/
theorem pinDesc_none (hva : W64) (s : State) (g : Group) (k : State → Group → Route × Nat → W64 → Route × Nat → List Byte → Out)
    (h : g.recStep = none) : pinDesc hva s g k = withDesc hva s g (k s g) := by
  simp [pinDesc, ownStep_none g hva false h, settleRec_none s g h]

/-- Records of this device are pinned at once. -/
theorem pinAway_here (s : State) (g : Group) (hva : W64) (h : Route × Nat) (cur : W64) (d : Route × Nat)
    (hh : isRemote h.1 = false) (hd : isRemote d.1 = false) : pinAway s g hva h cur d = none := by
  simp [pinAway, hh, hd]

/-- A swap of records of this device is one step (R305). -/
theorem swapNow_here (hva new : W64) (s : State) (g : Group) (h : Route × Nat) (old : W64) (y : Route × Nat)
    (hh : isRemote h.1 = false) (hy : isRemote y.1 = false) : swapNow hva new s g h old y = .done (swapStep s g h old new y) g .none := by
  simp [swapNow, hh, hy]

end Sys2Proof.Machine
end

