-- ==== Sys2Proof/Laws/Memory.lean ====
section
/-! SUPPORT. Tables, sets of numbers, memories and stores: what a read gives after a write, and that every operation keeps the canonical
form. -/

namespace Sys2Proof.Machine

open Sys2Proof

-- tables

section Tables

variable {α : Type} [DecidableEq α] {d : α}

theorem Tab.wfFrom_mono {t : Tab α} {lo hi : Nat} (h : lo ≤ hi) (w : Tab.wfFrom d hi t = true) : Tab.wfFrom d lo t = true := by
  cases t with
  | nil => rfl
  | cons c t =>
    obtain ⟨k, x⟩ := c
    simp only [Tab.wfFrom, Bool.and_eq_true, decide_eq_true_eq] at w ⊢
    exact ⟨⟨Nat.le_trans h w.1.1, w.1.2⟩, w.2⟩

/-- Keys below the first read as the default. -/
theorem Tab.get_below {t : Tab α} {lo n : Nat} (w : Tab.wfFrom d lo t = true) (h : n < lo) : Tab.get d t n = d := by
  cases t with
  | nil => rfl
  | cons c t =>
    obtain ⟨k, x⟩ := c
    simp only [Tab.wfFrom, Bool.and_eq_true, decide_eq_true_eq] at w
    have hk : n < k := Nat.lt_of_lt_of_le h w.1.1
    simp [Tab.get, Nat.ne_of_lt hk, hk]

/-- A write keeps the canonical form. -/
theorem Tab.wfFrom_set {t : Tab α} {lo n : Nat} (v : α) (hn : lo ≤ n) (w : Tab.wfFrom d lo t = true) :
    Tab.wfFrom d lo (Tab.set d t n v) = true := by
  induction t generalizing lo with
  | nil => by_cases hv : v = d <;> simp [Tab.set, hv, Tab.wfFrom, hn]
  | cons c t ih =>
    obtain ⟨k, x⟩ := c
    simp only [Tab.wfFrom, Bool.and_eq_true, decide_eq_true_eq] at w
    obtain ⟨⟨w1, w2⟩, w3⟩ := w
    by_cases h1 : n < k
    · by_cases hv : v = d
      · simp [Tab.set, h1, hv, Tab.wfFrom, w1, w2, w3]
      · have : n + 1 ≤ k := h1
        simp [Tab.set, h1, hv, Tab.wfFrom, hn, this, w2, w3]
    · by_cases h2 : n = k
      · by_cases hv : v = d
        · subst h2
          simpa [Tab.set, hv] using Tab.wfFrom_mono (Nat.le_succ_of_le w1) w3
        · subst h2
          simp [Tab.set, hv, Tab.wfFrom, w1, w3]
      · have h3 : k + 1 ≤ n := by omega
        simp [Tab.set, h1, h2, Tab.wfFrom, w1, w2, ih h3 w3]

theorem Tab.wf_set {t : Tab α} (n : Nat) (v : α) (w : Tab.wf d t = true) : Tab.wf d (Tab.set d t n v) = true :=
  Tab.wfFrom_set v (Nat.zero_le n) w

/-- The key written reads as the value written. -/
theorem Tab.get_set_same {t : Tab α} {lo n : Nat} (v : α) (w : Tab.wfFrom d lo t = true) : Tab.get d (Tab.set d t n v) n = v := by
  induction t generalizing lo with
  | nil => by_cases hv : v = d <;> simp [Tab.set, hv, Tab.get]
  | cons c t ih =>
    obtain ⟨k, x⟩ := c
    simp only [Tab.wfFrom, Bool.and_eq_true, decide_eq_true_eq] at w
    by_cases h1 : n < k
    · by_cases hv : v = d
      · simp [Tab.set, h1, hv, Tab.get, Nat.ne_of_lt h1]
      · simp [Tab.set, h1, hv, Tab.get]
    · by_cases h2 : n = k
      · subst h2
        by_cases hv : v = d
        · simp [Tab.set, hv, Tab.get_below w.2 (Nat.lt_succ_self n)]
        · simp [Tab.set, hv, Tab.get]
      · simp [Tab.set, h1, h2, Tab.get, ih w.2]

/-- Every other key reads as before. -/
theorem Tab.get_set_other {t : Tab α} {lo n m : Nat} (v : α) (w : Tab.wfFrom d lo t = true) (h : m ≠ n) :
    Tab.get d (Tab.set d t n v) m = Tab.get d t m := by
  induction t generalizing lo with
  | nil => by_cases hv : v = d <;> simp [Tab.set, hv, Tab.get, h]
  | cons c t ih =>
    obtain ⟨k, x⟩ := c
    simp only [Tab.wfFrom, Bool.and_eq_true, decide_eq_true_eq] at w
    by_cases h1 : n < k
    · by_cases hv : v = d
      · simp [Tab.set, h1, hv]
      · by_cases h3 : m < n
        · have h4 : m < k := Nat.lt_trans h3 h1
          simp [Tab.set, h1, hv, Tab.get, h, h3, h4, Nat.ne_of_lt h4]
        · simp [Tab.set, h1, hv, Tab.get, h, h3]
    · by_cases h2 : n = k
      · subst h2
        by_cases hv : v = d
        · by_cases h3 : m < n
          · simp [Tab.set, hv, Tab.get, h, h3, Tab.get_below w.2 (Nat.lt_succ_of_lt h3)]
          · simp [Tab.set, hv, Tab.get, h, h3]
        · simp [Tab.set, hv, Tab.get, h]
      · by_cases h3 : m = k
        · simp [Tab.set, h1, h2, Tab.get, h3]
        · simp [Tab.set, h1, h2, Tab.get, h3, ih w.2]

/-- Filtering keeps the canonical form. -/
theorem Tab.wfFrom_filter {t : Tab α} {lo : Nat} (p : Nat × α → Bool) (w : Tab.wfFrom d lo t = true) :
    Tab.wfFrom d lo (t.filter p) = true := by
  induction t generalizing lo with
  | nil => rfl
  | cons c t ih =>
    obtain ⟨k, x⟩ := c
    simp only [Tab.wfFrom, Bool.and_eq_true, decide_eq_true_eq] at w
    by_cases hp : p (k, x)
    · simp [hp, Tab.wfFrom, w.1.1, w.1.2, ih w.2]
    · simp only [List.filter_cons, hp]
      exact Tab.wfFrom_mono (Nat.le_succ_of_le w.1.1) (ih w.2)

end Tables

-- sets of numbers

theorem nsWfFrom_mono {l : List Nat} {lo hi : Nat} (h : lo ≤ hi) (w : nsWfFrom hi l = true) : nsWfFrom lo l = true := by
  cases l with
  | nil => rfl
  | cons k t =>
    simp only [nsWfFrom, Bool.and_eq_true, decide_eq_true_eq] at w ⊢
    exact ⟨Nat.le_trans h w.1, w.2⟩

theorem nsWfFrom_add {l : List Nat} {lo n : Nat} (hn : lo ≤ n) (w : nsWfFrom lo l = true) : nsWfFrom lo (nsAdd l n) = true := by
  induction l generalizing lo with
  | nil => simp [nsAdd, nsWfFrom, hn]
  | cons k t ih =>
    simp only [nsWfFrom, Bool.and_eq_true, decide_eq_true_eq] at w
    by_cases h1 : n < k
    · have : n + 1 ≤ k := h1
      simp [nsAdd, h1, nsWfFrom, hn, this, w.2]
    · by_cases h2 : n = k
      · simp [nsAdd, h2, nsWfFrom, w.1, w.2]
      · have h3 : k + 1 ≤ n := by omega
        simp [nsAdd, h1, h2, nsWfFrom, w.1, ih h3 w.2]

theorem nsWfFrom_del {l : List Nat} {lo : Nat} (n : Nat) (w : nsWfFrom lo l = true) : nsWfFrom lo (nsDel l n) = true := by
  induction l generalizing lo with
  | nil => rfl
  | cons k t ih =>
    simp only [nsWfFrom, Bool.and_eq_true, decide_eq_true_eq] at w
    by_cases h1 : n = k
    · simpa [nsDel, h1] using nsWfFrom_mono (Nat.le_succ_of_le w.1) w.2
    · by_cases h2 : n < k
      · simp [nsDel, h1, h2, nsWfFrom, w.1, w.2]
      · simp [nsDel, h1, h2, nsWfFrom, w.1, ih w.2]

theorem nsWfFrom_filter {l : List Nat} {lo : Nat} (p : Nat → Bool) (w : nsWfFrom lo l = true) : nsWfFrom lo (l.filter p) = true := by
  induction l generalizing lo with
  | nil => rfl
  | cons k t ih =>
    simp only [nsWfFrom, Bool.and_eq_true, decide_eq_true_eq] at w
    by_cases hp : p k
    · simp [hp, nsWfFrom, w.1, ih w.2]
    · simp only [List.filter_cons, hp]
      exact nsWfFrom_mono (Nat.le_succ_of_le w.1) (ih w.2)

theorem nsWf_set {l : List Nat} (n : Nat) (b : Bool) (w : nsWf l = true) : nsWf (nsSet l n b) = true := by
  cases b
  · exact nsWfFrom_del n w
  · exact nsWfFrom_add (Nat.zero_le n) w

-- memories

theorem Mem.read_write_same {m : Mem} (a : Nat) (b : Byte) (w : m.wf = true) : (m.write a b).read a = b := Tab.get_set_same b w
theorem Mem.read_write_other {m : Mem} {a c : Nat} (b : Byte) (w : m.wf = true) (h : c ≠ a) : (m.write a b).read c = m.read c :=
  Tab.get_set_other b w h
theorem Mem.wf_write {m : Mem} (a : Nat) (b : Byte) (w : m.wf = true) : (m.write a b).wf = true := Tab.wf_set a b w
theorem Mem.wf_clear {m : Mem} (a n : Nat) (w : m.wf = true) : (m.clear a n).wf = true := Tab.wfFrom_filter _ w

theorem Mem.wf_writeList {m : Mem} (a : Nat) (bs : List Byte) (w : m.wf = true) : (m.writeList a bs).wf = true := by
  induction bs generalizing m a with
  | nil => exact w
  | cons b bs ih => exact ih (a + 1) (Mem.wf_write a b w)

-- stores

theorem Store.wf_rekey {s : Store} (k : KeyTag) (n : Nat) (w : s.wf = true) : (s.rekey k n).wf = true := by
  have h := w
  simp only [Store.wf, Bool.and_eq_true] at h
  unfold Store.rekey
  split
  · simp only [Store.wf, Bool.and_eq_true]
    exact ⟨h.1, Tab.wf_set _ _ h.2⟩
  · simp only [Store.wf, Bool.and_eq_true]
    exact ⟨⟨Mem.wf_writeList _ _ h.1.1, h.1.2⟩, Tab.wf_set _ _ h.2⟩

theorem Store.wf_writeAs {s : Store} (k : KeyTag) (a : Nat) (mask val : Byte) (w : s.wf = true) : (s.writeAs k a mask val).wf = true := by
  have h := Store.wf_rekey k (a / 32) w
  simp only [Store.wf, Bool.and_eq_true] at h
  simp only [Store.writeAs, Store.wf, Bool.and_eq_true]
  exact ⟨⟨Mem.wf_write _ _ h.1.1, h.1.2⟩, h.2⟩

theorem Store.wf_clear {s : Store} (a n : Nat) (w : s.wf = true) : (s.clear a n).wf = true := by
  simp only [Store.wf, Bool.and_eq_true] at w
  simp only [Store.clear, Store.wf, Bool.and_eq_true]
  exact ⟨⟨Mem.wf_clear a n w.1.1, nsWfFrom_filter _ w.1.2⟩, Tab.wfFrom_filter _ w.2⟩

theorem Store.wf_setPois {s : Store} (n : Nat) (b : Bool) (w : s.wf = true) : (s.setPois n b).wf = true := by
  simp only [Store.wf, Bool.and_eq_true] at w ⊢
  exact ⟨⟨w.1.1, nsWf_set n b w.1.2⟩, w.2⟩

theorem State.reset_dev_wf : State.reset.dev.wf = true := rfl
theorem State.reset_host_wf : State.reset.host.wf = true := rfl

end Sys2Proof.Machine
end

