-- ==== Sys2Proof/Laws/State.lean ====
section
/-! SUPPORT. One lemma per field and per named update of the state, so that no later proof unfolds a record update. -/

namespace Sys2Proof.Machine

open Sys2Proof

-- setGroup
@[simp] theorem State.setGroup_teams (s : State) (g : Group) : (s.setGroup g).teams = s.teams := rfl
@[simp] theorem State.setGroup_launches (s : State) (g : Group) : (s.setGroup g).launches = s.launches := rfl
@[simp] theorem State.setGroup_parts (s : State) (g : Group) : (s.setGroup g).parts = s.parts := rfl
@[simp] theorem State.setGroup_cores (s : State) (g : Group) : (s.setGroup g).cores = s.cores := rfl
@[simp] theorem State.setGroup_xlats (s : State) (g : Group) : (s.setGroup g).xlats = s.xlats := rfl
@[simp] theorem State.setGroup_dies (s : State) (g : Group) : (s.setGroup g).dies = s.dies := rfl
@[simp] theorem State.setGroup_dev (s : State) (g : Group) : (s.setGroup g).dev = s.dev := rfl
@[simp] theorem State.setGroup_host (s : State) (g : Group) : (s.setGroup g).host = s.host := rfl
@[simp] theorem State.setGroup_slots (s : State) (g : Group) : (s.setGroup g).slots = s.slots := rfl
@[simp] theorem State.setGroup_boot (s : State) (g : Group) : (s.setGroup g).boot = s.boot := rfl
@[simp] theorem State.setGroup_fabric (s : State) (g : Group) : (s.setGroup g).fabric = s.fabric := rfl
@[simp] theorem State.setGroup_saved (s : State) (g : Group) : (s.setGroup g).saved = s.saved := rfl
@[simp] theorem State.setGroup_ended (s : State) (g : Group) : (s.setGroup g).ended = s.ended := rfl
@[simp] theorem State.setGroup_savedTeams (s : State) (g : Group) : (s.setGroup g).savedTeams = s.savedTeams := rfl
@[simp] theorem State.setGroup_now (s : State) (g : Group) : (s.setGroup g).now = s.now := rfl
@[simp] theorem State.setGroup_cur (s : State) (g : Group) : (s.setGroup g).cur = s.cur := rfl
@[simp] theorem State.setGroup_notices (s : State) (g : Group) : (s.setGroup g).notices = s.notices := rfl
@[simp] theorem State.setGroup_engIn (s : State) (g : Group) : (s.setGroup g).engIn = s.engIn := rfl
@[simp] theorem State.setGroup_engOut (s : State) (g : Group) : (s.setGroup g).engOut = s.engOut := rfl
@[simp] theorem State.setGroup_notes (s : State) (g : Group) : (s.setGroup g).notes = s.notes := rfl
@[simp] theorem State.setGroup_sessions (s : State) (g : Group) : (s.setGroup g).sessions = s.sessions := rfl
@[simp] theorem State.setGroup_agenda (s : State) (g : Group) : (s.setGroup g).agenda = s.agenda := rfl
@[simp] theorem State.setGroup_pace (s : State) (g : Group) : (s.setGroup g).pace = s.pace := rfl
@[simp] theorem State.setGroup_nextId (s : State) (g : Group) : (s.setGroup g).nextId = s.nextId := rfl
@[simp] theorem State.setGroup_nextLoad (s : State) (g : Group) : (s.setGroup g).nextLoad = s.nextLoad := rfl
@[simp] theorem State.setGroup_free (s : State) (g : Group) : (s.setGroup g).free = s.free := rfl

-- setTeam
@[simp] theorem State.setTeam_groups (s : State) (t : Team) : (s.setTeam t).groups = s.groups := rfl
@[simp] theorem State.setTeam_launches (s : State) (t : Team) : (s.setTeam t).launches = s.launches := rfl
@[simp] theorem State.setTeam_parts (s : State) (t : Team) : (s.setTeam t).parts = s.parts := rfl
@[simp] theorem State.setTeam_cores (s : State) (t : Team) : (s.setTeam t).cores = s.cores := rfl
@[simp] theorem State.setTeam_xlats (s : State) (t : Team) : (s.setTeam t).xlats = s.xlats := rfl
@[simp] theorem State.setTeam_dies (s : State) (t : Team) : (s.setTeam t).dies = s.dies := rfl
@[simp] theorem State.setTeam_dev (s : State) (t : Team) : (s.setTeam t).dev = s.dev := rfl
@[simp] theorem State.setTeam_host (s : State) (t : Team) : (s.setTeam t).host = s.host := rfl
@[simp] theorem State.setTeam_slots (s : State) (t : Team) : (s.setTeam t).slots = s.slots := rfl
@[simp] theorem State.setTeam_boot (s : State) (t : Team) : (s.setTeam t).boot = s.boot := rfl
@[simp] theorem State.setTeam_fabric (s : State) (t : Team) : (s.setTeam t).fabric = s.fabric := rfl
@[simp] theorem State.setTeam_saved (s : State) (t : Team) : (s.setTeam t).saved = s.saved := rfl
@[simp] theorem State.setTeam_ended (s : State) (t : Team) : (s.setTeam t).ended = s.ended := rfl
@[simp] theorem State.setTeam_savedTeams (s : State) (t : Team) : (s.setTeam t).savedTeams = s.savedTeams := rfl
@[simp] theorem State.setTeam_now (s : State) (t : Team) : (s.setTeam t).now = s.now := rfl
@[simp] theorem State.setTeam_cur (s : State) (t : Team) : (s.setTeam t).cur = s.cur := rfl
@[simp] theorem State.setTeam_notices (s : State) (t : Team) : (s.setTeam t).notices = s.notices := rfl
@[simp] theorem State.setTeam_engIn (s : State) (t : Team) : (s.setTeam t).engIn = s.engIn := rfl
@[simp] theorem State.setTeam_engOut (s : State) (t : Team) : (s.setTeam t).engOut = s.engOut := rfl
@[simp] theorem State.setTeam_notes (s : State) (t : Team) : (s.setTeam t).notes = s.notes := rfl
@[simp] theorem State.setTeam_sessions (s : State) (t : Team) : (s.setTeam t).sessions = s.sessions := rfl
@[simp] theorem State.setTeam_agenda (s : State) (t : Team) : (s.setTeam t).agenda = s.agenda := rfl
@[simp] theorem State.setTeam_pace (s : State) (t : Team) : (s.setTeam t).pace = s.pace := rfl
@[simp] theorem State.setTeam_nextId (s : State) (t : Team) : (s.setTeam t).nextId = s.nextId := rfl
@[simp] theorem State.setTeam_nextLoad (s : State) (t : Team) : (s.setTeam t).nextLoad = s.nextLoad := rfl
@[simp] theorem State.setTeam_free (s : State) (t : Team) : (s.setTeam t).free = s.free := rfl

-- setLaunch
@[simp] theorem State.setLaunch_groups (s : State) (l : Launch) : (s.setLaunch l).groups = s.groups := rfl
@[simp] theorem State.setLaunch_teams (s : State) (l : Launch) : (s.setLaunch l).teams = s.teams := rfl
@[simp] theorem State.setLaunch_parts (s : State) (l : Launch) : (s.setLaunch l).parts = s.parts := rfl
@[simp] theorem State.setLaunch_cores (s : State) (l : Launch) : (s.setLaunch l).cores = s.cores := rfl
@[simp] theorem State.setLaunch_xlats (s : State) (l : Launch) : (s.setLaunch l).xlats = s.xlats := rfl
@[simp] theorem State.setLaunch_dies (s : State) (l : Launch) : (s.setLaunch l).dies = s.dies := rfl
@[simp] theorem State.setLaunch_dev (s : State) (l : Launch) : (s.setLaunch l).dev = s.dev := rfl
@[simp] theorem State.setLaunch_host (s : State) (l : Launch) : (s.setLaunch l).host = s.host := rfl
@[simp] theorem State.setLaunch_slots (s : State) (l : Launch) : (s.setLaunch l).slots = s.slots := rfl
@[simp] theorem State.setLaunch_boot (s : State) (l : Launch) : (s.setLaunch l).boot = s.boot := rfl
@[simp] theorem State.setLaunch_fabric (s : State) (l : Launch) : (s.setLaunch l).fabric = s.fabric := rfl
@[simp] theorem State.setLaunch_saved (s : State) (l : Launch) : (s.setLaunch l).saved = s.saved := rfl
@[simp] theorem State.setLaunch_ended (s : State) (l : Launch) : (s.setLaunch l).ended = s.ended := rfl
@[simp] theorem State.setLaunch_savedTeams (s : State) (l : Launch) : (s.setLaunch l).savedTeams = s.savedTeams := rfl
@[simp] theorem State.setLaunch_now (s : State) (l : Launch) : (s.setLaunch l).now = s.now := rfl
@[simp] theorem State.setLaunch_cur (s : State) (l : Launch) : (s.setLaunch l).cur = s.cur := rfl
@[simp] theorem State.setLaunch_notices (s : State) (l : Launch) : (s.setLaunch l).notices = s.notices := rfl
@[simp] theorem State.setLaunch_engIn (s : State) (l : Launch) : (s.setLaunch l).engIn = s.engIn := rfl
@[simp] theorem State.setLaunch_engOut (s : State) (l : Launch) : (s.setLaunch l).engOut = s.engOut := rfl
@[simp] theorem State.setLaunch_notes (s : State) (l : Launch) : (s.setLaunch l).notes = s.notes := rfl
@[simp] theorem State.setLaunch_sessions (s : State) (l : Launch) : (s.setLaunch l).sessions = s.sessions := rfl
@[simp] theorem State.setLaunch_agenda (s : State) (l : Launch) : (s.setLaunch l).agenda = s.agenda := rfl
@[simp] theorem State.setLaunch_pace (s : State) (l : Launch) : (s.setLaunch l).pace = s.pace := rfl
@[simp] theorem State.setLaunch_nextId (s : State) (l : Launch) : (s.setLaunch l).nextId = s.nextId := rfl
@[simp] theorem State.setLaunch_nextLoad (s : State) (l : Launch) : (s.setLaunch l).nextLoad = s.nextLoad := rfl
@[simp] theorem State.setLaunch_free (s : State) (l : Launch) : (s.setLaunch l).free = s.free := rfl

-- setPart
@[simp] theorem State.setPart_groups (s : State) (p : Part) : (s.setPart p).groups = s.groups := rfl
@[simp] theorem State.setPart_teams (s : State) (p : Part) : (s.setPart p).teams = s.teams := rfl
@[simp] theorem State.setPart_launches (s : State) (p : Part) : (s.setPart p).launches = s.launches := rfl
@[simp] theorem State.setPart_cores (s : State) (p : Part) : (s.setPart p).cores = s.cores := rfl
@[simp] theorem State.setPart_xlats (s : State) (p : Part) : (s.setPart p).xlats = s.xlats := rfl
@[simp] theorem State.setPart_dies (s : State) (p : Part) : (s.setPart p).dies = s.dies := rfl
@[simp] theorem State.setPart_dev (s : State) (p : Part) : (s.setPart p).dev = s.dev := rfl
@[simp] theorem State.setPart_host (s : State) (p : Part) : (s.setPart p).host = s.host := rfl
@[simp] theorem State.setPart_slots (s : State) (p : Part) : (s.setPart p).slots = s.slots := rfl
@[simp] theorem State.setPart_boot (s : State) (p : Part) : (s.setPart p).boot = s.boot := rfl
@[simp] theorem State.setPart_fabric (s : State) (p : Part) : (s.setPart p).fabric = s.fabric := rfl
@[simp] theorem State.setPart_saved (s : State) (p : Part) : (s.setPart p).saved = s.saved := rfl
@[simp] theorem State.setPart_ended (s : State) (p : Part) : (s.setPart p).ended = s.ended := rfl
@[simp] theorem State.setPart_savedTeams (s : State) (p : Part) : (s.setPart p).savedTeams = s.savedTeams := rfl
@[simp] theorem State.setPart_now (s : State) (p : Part) : (s.setPart p).now = s.now := rfl
@[simp] theorem State.setPart_cur (s : State) (p : Part) : (s.setPart p).cur = s.cur := rfl
@[simp] theorem State.setPart_notices (s : State) (p : Part) : (s.setPart p).notices = s.notices := rfl
@[simp] theorem State.setPart_engIn (s : State) (p : Part) : (s.setPart p).engIn = s.engIn := rfl
@[simp] theorem State.setPart_engOut (s : State) (p : Part) : (s.setPart p).engOut = s.engOut := rfl
@[simp] theorem State.setPart_notes (s : State) (p : Part) : (s.setPart p).notes = s.notes := rfl
@[simp] theorem State.setPart_sessions (s : State) (p : Part) : (s.setPart p).sessions = s.sessions := rfl
@[simp] theorem State.setPart_agenda (s : State) (p : Part) : (s.setPart p).agenda = s.agenda := rfl
@[simp] theorem State.setPart_pace (s : State) (p : Part) : (s.setPart p).pace = s.pace := rfl
@[simp] theorem State.setPart_nextId (s : State) (p : Part) : (s.setPart p).nextId = s.nextId := rfl
@[simp] theorem State.setPart_nextLoad (s : State) (p : Part) : (s.setPart p).nextLoad = s.nextLoad := rfl
@[simp] theorem State.setPart_free (s : State) (p : Part) : (s.setPart p).free = s.free := rfl

-- modPart
@[simp] theorem State.modPart_groups (s : State) (p : Nat) (f : Part → Part) : (s.modPart p f).groups = s.groups := rfl
@[simp] theorem State.modPart_teams (s : State) (p : Nat) (f : Part → Part) : (s.modPart p f).teams = s.teams := rfl
@[simp] theorem State.modPart_launches (s : State) (p : Nat) (f : Part → Part) : (s.modPart p f).launches = s.launches := rfl
@[simp] theorem State.modPart_cores (s : State) (p : Nat) (f : Part → Part) : (s.modPart p f).cores = s.cores := rfl
@[simp] theorem State.modPart_xlats (s : State) (p : Nat) (f : Part → Part) : (s.modPart p f).xlats = s.xlats := rfl
@[simp] theorem State.modPart_dies (s : State) (p : Nat) (f : Part → Part) : (s.modPart p f).dies = s.dies := rfl
@[simp] theorem State.modPart_dev (s : State) (p : Nat) (f : Part → Part) : (s.modPart p f).dev = s.dev := rfl
@[simp] theorem State.modPart_host (s : State) (p : Nat) (f : Part → Part) : (s.modPart p f).host = s.host := rfl
@[simp] theorem State.modPart_slots (s : State) (p : Nat) (f : Part → Part) : (s.modPart p f).slots = s.slots := rfl
@[simp] theorem State.modPart_boot (s : State) (p : Nat) (f : Part → Part) : (s.modPart p f).boot = s.boot := rfl
@[simp] theorem State.modPart_fabric (s : State) (p : Nat) (f : Part → Part) : (s.modPart p f).fabric = s.fabric := rfl
@[simp] theorem State.modPart_saved (s : State) (p : Nat) (f : Part → Part) : (s.modPart p f).saved = s.saved := rfl
@[simp] theorem State.modPart_ended (s : State) (p : Nat) (f : Part → Part) : (s.modPart p f).ended = s.ended := rfl
@[simp] theorem State.modPart_savedTeams (s : State) (p : Nat) (f : Part → Part) : (s.modPart p f).savedTeams = s.savedTeams := rfl
@[simp] theorem State.modPart_now (s : State) (p : Nat) (f : Part → Part) : (s.modPart p f).now = s.now := rfl
@[simp] theorem State.modPart_cur (s : State) (p : Nat) (f : Part → Part) : (s.modPart p f).cur = s.cur := rfl
@[simp] theorem State.modPart_notices (s : State) (p : Nat) (f : Part → Part) : (s.modPart p f).notices = s.notices := rfl
@[simp] theorem State.modPart_engIn (s : State) (p : Nat) (f : Part → Part) : (s.modPart p f).engIn = s.engIn := rfl
@[simp] theorem State.modPart_engOut (s : State) (p : Nat) (f : Part → Part) : (s.modPart p f).engOut = s.engOut := rfl
@[simp] theorem State.modPart_notes (s : State) (p : Nat) (f : Part → Part) : (s.modPart p f).notes = s.notes := rfl
@[simp] theorem State.modPart_sessions (s : State) (p : Nat) (f : Part → Part) : (s.modPart p f).sessions = s.sessions := rfl
@[simp] theorem State.modPart_agenda (s : State) (p : Nat) (f : Part → Part) : (s.modPart p f).agenda = s.agenda := rfl
@[simp] theorem State.modPart_pace (s : State) (p : Nat) (f : Part → Part) : (s.modPart p f).pace = s.pace := rfl
@[simp] theorem State.modPart_nextId (s : State) (p : Nat) (f : Part → Part) : (s.modPart p f).nextId = s.nextId := rfl
@[simp] theorem State.modPart_nextLoad (s : State) (p : Nat) (f : Part → Part) : (s.modPart p f).nextLoad = s.nextLoad := rfl
@[simp] theorem State.modPart_free (s : State) (p : Nat) (f : Part → Part) : (s.modPart p f).free = s.free := rfl

-- modGroup
@[simp] theorem State.modGroup_teams (s : State) (g : Nat) (f : Group → Group) : (s.modGroup g f).teams = s.teams := rfl
@[simp] theorem State.modGroup_launches (s : State) (g : Nat) (f : Group → Group) : (s.modGroup g f).launches = s.launches := rfl
@[simp] theorem State.modGroup_parts (s : State) (g : Nat) (f : Group → Group) : (s.modGroup g f).parts = s.parts := rfl
@[simp] theorem State.modGroup_cores (s : State) (g : Nat) (f : Group → Group) : (s.modGroup g f).cores = s.cores := rfl
@[simp] theorem State.modGroup_xlats (s : State) (g : Nat) (f : Group → Group) : (s.modGroup g f).xlats = s.xlats := rfl
@[simp] theorem State.modGroup_dies (s : State) (g : Nat) (f : Group → Group) : (s.modGroup g f).dies = s.dies := rfl
@[simp] theorem State.modGroup_dev (s : State) (g : Nat) (f : Group → Group) : (s.modGroup g f).dev = s.dev := rfl
@[simp] theorem State.modGroup_host (s : State) (g : Nat) (f : Group → Group) : (s.modGroup g f).host = s.host := rfl
@[simp] theorem State.modGroup_slots (s : State) (g : Nat) (f : Group → Group) : (s.modGroup g f).slots = s.slots := rfl
@[simp] theorem State.modGroup_boot (s : State) (g : Nat) (f : Group → Group) : (s.modGroup g f).boot = s.boot := rfl
@[simp] theorem State.modGroup_fabric (s : State) (g : Nat) (f : Group → Group) : (s.modGroup g f).fabric = s.fabric := rfl
@[simp] theorem State.modGroup_saved (s : State) (g : Nat) (f : Group → Group) : (s.modGroup g f).saved = s.saved := rfl
@[simp] theorem State.modGroup_ended (s : State) (g : Nat) (f : Group → Group) : (s.modGroup g f).ended = s.ended := rfl
@[simp] theorem State.modGroup_savedTeams (s : State) (g : Nat) (f : Group → Group) : (s.modGroup g f).savedTeams = s.savedTeams := rfl
@[simp] theorem State.modGroup_now (s : State) (g : Nat) (f : Group → Group) : (s.modGroup g f).now = s.now := rfl
@[simp] theorem State.modGroup_cur (s : State) (g : Nat) (f : Group → Group) : (s.modGroup g f).cur = s.cur := rfl
@[simp] theorem State.modGroup_notices (s : State) (g : Nat) (f : Group → Group) : (s.modGroup g f).notices = s.notices := rfl
@[simp] theorem State.modGroup_engIn (s : State) (g : Nat) (f : Group → Group) : (s.modGroup g f).engIn = s.engIn := rfl
@[simp] theorem State.modGroup_engOut (s : State) (g : Nat) (f : Group → Group) : (s.modGroup g f).engOut = s.engOut := rfl
@[simp] theorem State.modGroup_notes (s : State) (g : Nat) (f : Group → Group) : (s.modGroup g f).notes = s.notes := rfl
@[simp] theorem State.modGroup_sessions (s : State) (g : Nat) (f : Group → Group) : (s.modGroup g f).sessions = s.sessions := rfl
@[simp] theorem State.modGroup_agenda (s : State) (g : Nat) (f : Group → Group) : (s.modGroup g f).agenda = s.agenda := rfl
@[simp] theorem State.modGroup_pace (s : State) (g : Nat) (f : Group → Group) : (s.modGroup g f).pace = s.pace := rfl
@[simp] theorem State.modGroup_nextId (s : State) (g : Nat) (f : Group → Group) : (s.modGroup g f).nextId = s.nextId := rfl
@[simp] theorem State.modGroup_nextLoad (s : State) (g : Nat) (f : Group → Group) : (s.modGroup g f).nextLoad = s.nextLoad := rfl
@[simp] theorem State.modGroup_free (s : State) (g : Nat) (f : Group → Group) : (s.modGroup g f).free = s.free := rfl

-- modTeam
@[simp] theorem State.modTeam_groups (s : State) (t : Nat) (f : Team → Team) : (s.modTeam t f).groups = s.groups := rfl
@[simp] theorem State.modTeam_launches (s : State) (t : Nat) (f : Team → Team) : (s.modTeam t f).launches = s.launches := rfl
@[simp] theorem State.modTeam_parts (s : State) (t : Nat) (f : Team → Team) : (s.modTeam t f).parts = s.parts := rfl
@[simp] theorem State.modTeam_cores (s : State) (t : Nat) (f : Team → Team) : (s.modTeam t f).cores = s.cores := rfl
@[simp] theorem State.modTeam_xlats (s : State) (t : Nat) (f : Team → Team) : (s.modTeam t f).xlats = s.xlats := rfl
@[simp] theorem State.modTeam_dies (s : State) (t : Nat) (f : Team → Team) : (s.modTeam t f).dies = s.dies := rfl
@[simp] theorem State.modTeam_dev (s : State) (t : Nat) (f : Team → Team) : (s.modTeam t f).dev = s.dev := rfl
@[simp] theorem State.modTeam_host (s : State) (t : Nat) (f : Team → Team) : (s.modTeam t f).host = s.host := rfl
@[simp] theorem State.modTeam_slots (s : State) (t : Nat) (f : Team → Team) : (s.modTeam t f).slots = s.slots := rfl
@[simp] theorem State.modTeam_boot (s : State) (t : Nat) (f : Team → Team) : (s.modTeam t f).boot = s.boot := rfl
@[simp] theorem State.modTeam_fabric (s : State) (t : Nat) (f : Team → Team) : (s.modTeam t f).fabric = s.fabric := rfl
@[simp] theorem State.modTeam_saved (s : State) (t : Nat) (f : Team → Team) : (s.modTeam t f).saved = s.saved := rfl
@[simp] theorem State.modTeam_ended (s : State) (t : Nat) (f : Team → Team) : (s.modTeam t f).ended = s.ended := rfl
@[simp] theorem State.modTeam_savedTeams (s : State) (t : Nat) (f : Team → Team) : (s.modTeam t f).savedTeams = s.savedTeams := rfl
@[simp] theorem State.modTeam_now (s : State) (t : Nat) (f : Team → Team) : (s.modTeam t f).now = s.now := rfl
@[simp] theorem State.modTeam_cur (s : State) (t : Nat) (f : Team → Team) : (s.modTeam t f).cur = s.cur := rfl
@[simp] theorem State.modTeam_notices (s : State) (t : Nat) (f : Team → Team) : (s.modTeam t f).notices = s.notices := rfl
@[simp] theorem State.modTeam_engIn (s : State) (t : Nat) (f : Team → Team) : (s.modTeam t f).engIn = s.engIn := rfl
@[simp] theorem State.modTeam_engOut (s : State) (t : Nat) (f : Team → Team) : (s.modTeam t f).engOut = s.engOut := rfl
@[simp] theorem State.modTeam_notes (s : State) (t : Nat) (f : Team → Team) : (s.modTeam t f).notes = s.notes := rfl
@[simp] theorem State.modTeam_sessions (s : State) (t : Nat) (f : Team → Team) : (s.modTeam t f).sessions = s.sessions := rfl
@[simp] theorem State.modTeam_agenda (s : State) (t : Nat) (f : Team → Team) : (s.modTeam t f).agenda = s.agenda := rfl
@[simp] theorem State.modTeam_pace (s : State) (t : Nat) (f : Team → Team) : (s.modTeam t f).pace = s.pace := rfl
@[simp] theorem State.modTeam_nextId (s : State) (t : Nat) (f : Team → Team) : (s.modTeam t f).nextId = s.nextId := rfl
@[simp] theorem State.modTeam_nextLoad (s : State) (t : Nat) (f : Team → Team) : (s.modTeam t f).nextLoad = s.nextLoad := rfl
@[simp] theorem State.modTeam_free (s : State) (t : Nat) (f : Team → Team) : (s.modTeam t f).free = s.free := rfl

-- modLaunch
@[simp] theorem State.modLaunch_groups (s : State) (l : Nat) (f : Launch → Launch) : (s.modLaunch l f).groups = s.groups := rfl
@[simp] theorem State.modLaunch_teams (s : State) (l : Nat) (f : Launch → Launch) : (s.modLaunch l f).teams = s.teams := rfl
@[simp] theorem State.modLaunch_parts (s : State) (l : Nat) (f : Launch → Launch) : (s.modLaunch l f).parts = s.parts := rfl
@[simp] theorem State.modLaunch_cores (s : State) (l : Nat) (f : Launch → Launch) : (s.modLaunch l f).cores = s.cores := rfl
@[simp] theorem State.modLaunch_xlats (s : State) (l : Nat) (f : Launch → Launch) : (s.modLaunch l f).xlats = s.xlats := rfl
@[simp] theorem State.modLaunch_dies (s : State) (l : Nat) (f : Launch → Launch) : (s.modLaunch l f).dies = s.dies := rfl
@[simp] theorem State.modLaunch_dev (s : State) (l : Nat) (f : Launch → Launch) : (s.modLaunch l f).dev = s.dev := rfl
@[simp] theorem State.modLaunch_host (s : State) (l : Nat) (f : Launch → Launch) : (s.modLaunch l f).host = s.host := rfl
@[simp] theorem State.modLaunch_slots (s : State) (l : Nat) (f : Launch → Launch) : (s.modLaunch l f).slots = s.slots := rfl
@[simp] theorem State.modLaunch_boot (s : State) (l : Nat) (f : Launch → Launch) : (s.modLaunch l f).boot = s.boot := rfl
@[simp] theorem State.modLaunch_fabric (s : State) (l : Nat) (f : Launch → Launch) : (s.modLaunch l f).fabric = s.fabric := rfl
@[simp] theorem State.modLaunch_saved (s : State) (l : Nat) (f : Launch → Launch) : (s.modLaunch l f).saved = s.saved := rfl
@[simp] theorem State.modLaunch_ended (s : State) (l : Nat) (f : Launch → Launch) : (s.modLaunch l f).ended = s.ended := rfl
@[simp] theorem State.modLaunch_savedTeams (s : State) (l : Nat) (f : Launch → Launch) : (s.modLaunch l f).savedTeams = s.savedTeams := rfl
@[simp] theorem State.modLaunch_now (s : State) (l : Nat) (f : Launch → Launch) : (s.modLaunch l f).now = s.now := rfl
@[simp] theorem State.modLaunch_cur (s : State) (l : Nat) (f : Launch → Launch) : (s.modLaunch l f).cur = s.cur := rfl
@[simp] theorem State.modLaunch_notices (s : State) (l : Nat) (f : Launch → Launch) : (s.modLaunch l f).notices = s.notices := rfl
@[simp] theorem State.modLaunch_engIn (s : State) (l : Nat) (f : Launch → Launch) : (s.modLaunch l f).engIn = s.engIn := rfl
@[simp] theorem State.modLaunch_engOut (s : State) (l : Nat) (f : Launch → Launch) : (s.modLaunch l f).engOut = s.engOut := rfl
@[simp] theorem State.modLaunch_notes (s : State) (l : Nat) (f : Launch → Launch) : (s.modLaunch l f).notes = s.notes := rfl
@[simp] theorem State.modLaunch_sessions (s : State) (l : Nat) (f : Launch → Launch) : (s.modLaunch l f).sessions = s.sessions := rfl
@[simp] theorem State.modLaunch_agenda (s : State) (l : Nat) (f : Launch → Launch) : (s.modLaunch l f).agenda = s.agenda := rfl
@[simp] theorem State.modLaunch_pace (s : State) (l : Nat) (f : Launch → Launch) : (s.modLaunch l f).pace = s.pace := rfl
@[simp] theorem State.modLaunch_nextId (s : State) (l : Nat) (f : Launch → Launch) : (s.modLaunch l f).nextId = s.nextId := rfl
@[simp] theorem State.modLaunch_nextLoad (s : State) (l : Nat) (f : Launch → Launch) : (s.modLaunch l f).nextLoad = s.nextLoad := rfl
@[simp] theorem State.modLaunch_free (s : State) (l : Nat) (f : Launch → Launch) : (s.modLaunch l f).free = s.free := rfl

-- setDie
@[simp] theorem State.setDie_groups (s : State) (d : Nat) (x : DieSt) : (s.setDie d x).groups = s.groups := rfl
@[simp] theorem State.setDie_teams (s : State) (d : Nat) (x : DieSt) : (s.setDie d x).teams = s.teams := rfl
@[simp] theorem State.setDie_launches (s : State) (d : Nat) (x : DieSt) : (s.setDie d x).launches = s.launches := rfl
@[simp] theorem State.setDie_parts (s : State) (d : Nat) (x : DieSt) : (s.setDie d x).parts = s.parts := rfl
@[simp] theorem State.setDie_cores (s : State) (d : Nat) (x : DieSt) : (s.setDie d x).cores = s.cores := rfl
@[simp] theorem State.setDie_xlats (s : State) (d : Nat) (x : DieSt) : (s.setDie d x).xlats = s.xlats := rfl
@[simp] theorem State.setDie_dev (s : State) (d : Nat) (x : DieSt) : (s.setDie d x).dev = s.dev := rfl
@[simp] theorem State.setDie_host (s : State) (d : Nat) (x : DieSt) : (s.setDie d x).host = s.host := rfl
@[simp] theorem State.setDie_slots (s : State) (d : Nat) (x : DieSt) : (s.setDie d x).slots = s.slots := rfl
@[simp] theorem State.setDie_boot (s : State) (d : Nat) (x : DieSt) : (s.setDie d x).boot = s.boot := rfl
@[simp] theorem State.setDie_fabric (s : State) (d : Nat) (x : DieSt) : (s.setDie d x).fabric = s.fabric := rfl
@[simp] theorem State.setDie_saved (s : State) (d : Nat) (x : DieSt) : (s.setDie d x).saved = s.saved := rfl
@[simp] theorem State.setDie_ended (s : State) (d : Nat) (x : DieSt) : (s.setDie d x).ended = s.ended := rfl
@[simp] theorem State.setDie_savedTeams (s : State) (d : Nat) (x : DieSt) : (s.setDie d x).savedTeams = s.savedTeams := rfl
@[simp] theorem State.setDie_now (s : State) (d : Nat) (x : DieSt) : (s.setDie d x).now = s.now := rfl
@[simp] theorem State.setDie_cur (s : State) (d : Nat) (x : DieSt) : (s.setDie d x).cur = s.cur := rfl
@[simp] theorem State.setDie_notices (s : State) (d : Nat) (x : DieSt) : (s.setDie d x).notices = s.notices := rfl
@[simp] theorem State.setDie_engIn (s : State) (d : Nat) (x : DieSt) : (s.setDie d x).engIn = s.engIn := rfl
@[simp] theorem State.setDie_engOut (s : State) (d : Nat) (x : DieSt) : (s.setDie d x).engOut = s.engOut := rfl
@[simp] theorem State.setDie_notes (s : State) (d : Nat) (x : DieSt) : (s.setDie d x).notes = s.notes := rfl
@[simp] theorem State.setDie_sessions (s : State) (d : Nat) (x : DieSt) : (s.setDie d x).sessions = s.sessions := rfl
@[simp] theorem State.setDie_agenda (s : State) (d : Nat) (x : DieSt) : (s.setDie d x).agenda = s.agenda := rfl
@[simp] theorem State.setDie_pace (s : State) (d : Nat) (x : DieSt) : (s.setDie d x).pace = s.pace := rfl
@[simp] theorem State.setDie_nextId (s : State) (d : Nat) (x : DieSt) : (s.setDie d x).nextId = s.nextId := rfl
@[simp] theorem State.setDie_nextLoad (s : State) (d : Nat) (x : DieSt) : (s.setDie d x).nextLoad = s.nextLoad := rfl
@[simp] theorem State.setDie_free (s : State) (d : Nat) (x : DieSt) : (s.setDie d x).free = s.free := rfl

-- notify
@[simp] theorem State.notify_groups (s : State) (n : Notice) : (s.notify n).groups = s.groups := rfl
@[simp] theorem State.notify_teams (s : State) (n : Notice) : (s.notify n).teams = s.teams := rfl
@[simp] theorem State.notify_launches (s : State) (n : Notice) : (s.notify n).launches = s.launches := rfl
@[simp] theorem State.notify_parts (s : State) (n : Notice) : (s.notify n).parts = s.parts := rfl
@[simp] theorem State.notify_cores (s : State) (n : Notice) : (s.notify n).cores = s.cores := rfl
@[simp] theorem State.notify_xlats (s : State) (n : Notice) : (s.notify n).xlats = s.xlats := rfl
@[simp] theorem State.notify_dies (s : State) (n : Notice) : (s.notify n).dies = s.dies := rfl
@[simp] theorem State.notify_dev (s : State) (n : Notice) : (s.notify n).dev = s.dev := rfl
@[simp] theorem State.notify_host (s : State) (n : Notice) : (s.notify n).host = s.host := rfl
@[simp] theorem State.notify_slots (s : State) (n : Notice) : (s.notify n).slots = s.slots := rfl
@[simp] theorem State.notify_boot (s : State) (n : Notice) : (s.notify n).boot = s.boot := rfl
@[simp] theorem State.notify_fabric (s : State) (n : Notice) : (s.notify n).fabric = s.fabric := rfl
@[simp] theorem State.notify_saved (s : State) (n : Notice) : (s.notify n).saved = s.saved := rfl
@[simp] theorem State.notify_ended (s : State) (n : Notice) : (s.notify n).ended = s.ended := rfl
@[simp] theorem State.notify_savedTeams (s : State) (n : Notice) : (s.notify n).savedTeams = s.savedTeams := rfl
@[simp] theorem State.notify_now (s : State) (n : Notice) : (s.notify n).now = s.now := rfl
@[simp] theorem State.notify_cur (s : State) (n : Notice) : (s.notify n).cur = s.cur := rfl
@[simp] theorem State.notify_engIn (s : State) (n : Notice) : (s.notify n).engIn = s.engIn := rfl
@[simp] theorem State.notify_engOut (s : State) (n : Notice) : (s.notify n).engOut = s.engOut := rfl
@[simp] theorem State.notify_notes (s : State) (n : Notice) : (s.notify n).notes = s.notes := rfl
@[simp] theorem State.notify_sessions (s : State) (n : Notice) : (s.notify n).sessions = s.sessions := rfl
@[simp] theorem State.notify_agenda (s : State) (n : Notice) : (s.notify n).agenda = s.agenda := rfl
@[simp] theorem State.notify_pace (s : State) (n : Notice) : (s.notify n).pace = s.pace := rfl
@[simp] theorem State.notify_nextId (s : State) (n : Notice) : (s.notify n).nextId = s.nextId := rfl
@[simp] theorem State.notify_nextLoad (s : State) (n : Notice) : (s.notify n).nextLoad = s.nextLoad := rfl
@[simp] theorem State.notify_free (s : State) (n : Notice) : (s.notify n).free = s.free := rfl

-- setCore
@[simp] theorem State.setCore_groups (s : State) (n : Nat) (c : CoreSt) : (s.setCore n c).groups = s.groups := by unfold State.setCore; split <;> rfl
@[simp] theorem State.setCore_teams (s : State) (n : Nat) (c : CoreSt) : (s.setCore n c).teams = s.teams := by unfold State.setCore; split <;> rfl
@[simp] theorem State.setCore_launches (s : State) (n : Nat) (c : CoreSt) : (s.setCore n c).launches = s.launches := by unfold State.setCore; split <;> rfl
@[simp] theorem State.setCore_parts (s : State) (n : Nat) (c : CoreSt) : (s.setCore n c).parts = s.parts := by unfold State.setCore; split <;> rfl
@[simp] theorem State.setCore_xlats (s : State) (n : Nat) (c : CoreSt) : (s.setCore n c).xlats = s.xlats := by unfold State.setCore; split <;> rfl
@[simp] theorem State.setCore_dies (s : State) (n : Nat) (c : CoreSt) : (s.setCore n c).dies = s.dies := by unfold State.setCore; split <;> rfl
@[simp] theorem State.setCore_dev (s : State) (n : Nat) (c : CoreSt) : (s.setCore n c).dev = s.dev := by unfold State.setCore; split <;> rfl
@[simp] theorem State.setCore_host (s : State) (n : Nat) (c : CoreSt) : (s.setCore n c).host = s.host := by unfold State.setCore; split <;> rfl
@[simp] theorem State.setCore_slots (s : State) (n : Nat) (c : CoreSt) : (s.setCore n c).slots = s.slots := by unfold State.setCore; split <;> rfl
@[simp] theorem State.setCore_boot (s : State) (n : Nat) (c : CoreSt) : (s.setCore n c).boot = s.boot := by unfold State.setCore; split <;> rfl
@[simp] theorem State.setCore_fabric (s : State) (n : Nat) (c : CoreSt) : (s.setCore n c).fabric = s.fabric := by unfold State.setCore; split <;> rfl
@[simp] theorem State.setCore_saved (s : State) (n : Nat) (c : CoreSt) : (s.setCore n c).saved = s.saved := by unfold State.setCore; split <;> rfl
@[simp] theorem State.setCore_ended (s : State) (n : Nat) (c : CoreSt) : (s.setCore n c).ended = s.ended := by unfold State.setCore; split <;> rfl
@[simp] theorem State.setCore_savedTeams (s : State) (n : Nat) (c : CoreSt) : (s.setCore n c).savedTeams = s.savedTeams := by unfold State.setCore; split <;> rfl
@[simp] theorem State.setCore_now (s : State) (n : Nat) (c : CoreSt) : (s.setCore n c).now = s.now := by unfold State.setCore; split <;> rfl
@[simp] theorem State.setCore_cur (s : State) (n : Nat) (c : CoreSt) : (s.setCore n c).cur = s.cur := by unfold State.setCore; split <;> rfl
@[simp] theorem State.setCore_notices (s : State) (n : Nat) (c : CoreSt) : (s.setCore n c).notices = s.notices := by unfold State.setCore; split <;> rfl
@[simp] theorem State.setCore_engIn (s : State) (n : Nat) (c : CoreSt) : (s.setCore n c).engIn = s.engIn := by unfold State.setCore; split <;> rfl
@[simp] theorem State.setCore_engOut (s : State) (n : Nat) (c : CoreSt) : (s.setCore n c).engOut = s.engOut := by unfold State.setCore; split <;> rfl
@[simp] theorem State.setCore_notes (s : State) (n : Nat) (c : CoreSt) : (s.setCore n c).notes = s.notes := by unfold State.setCore; split <;> rfl
@[simp] theorem State.setCore_sessions (s : State) (n : Nat) (c : CoreSt) : (s.setCore n c).sessions = s.sessions := by unfold State.setCore; split <;> rfl
@[simp] theorem State.setCore_agenda (s : State) (n : Nat) (c : CoreSt) : (s.setCore n c).agenda = s.agenda := by unfold State.setCore; split <;> rfl
@[simp] theorem State.setCore_pace (s : State) (n : Nat) (c : CoreSt) : (s.setCore n c).pace = s.pace := by unfold State.setCore; split <;> rfl
@[simp] theorem State.setCore_nextId (s : State) (n : Nat) (c : CoreSt) : (s.setCore n c).nextId = s.nextId := by unfold State.setCore; split <;> rfl
@[simp] theorem State.setCore_nextLoad (s : State) (n : Nat) (c : CoreSt) : (s.setCore n c).nextLoad = s.nextLoad := by unfold State.setCore; split <;> rfl
@[simp] theorem State.setCore_free (s : State) (n : Nat) (c : CoreSt) : (s.setCore n c).free = s.free := by unfold State.setCore; split <;> rfl

-- modCore
@[simp] theorem State.modCore_groups (s : State) (n : Nat) (f : CoreSt → CoreSt) : (s.modCore n f).groups = s.groups := by unfold State.modCore State.setCore; split <;> rfl
@[simp] theorem State.modCore_teams (s : State) (n : Nat) (f : CoreSt → CoreSt) : (s.modCore n f).teams = s.teams := by unfold State.modCore State.setCore; split <;> rfl
@[simp] theorem State.modCore_launches (s : State) (n : Nat) (f : CoreSt → CoreSt) : (s.modCore n f).launches = s.launches := by unfold State.modCore State.setCore; split <;> rfl
@[simp] theorem State.modCore_parts (s : State) (n : Nat) (f : CoreSt → CoreSt) : (s.modCore n f).parts = s.parts := by unfold State.modCore State.setCore; split <;> rfl
@[simp] theorem State.modCore_xlats (s : State) (n : Nat) (f : CoreSt → CoreSt) : (s.modCore n f).xlats = s.xlats := by unfold State.modCore State.setCore; split <;> rfl
@[simp] theorem State.modCore_dies (s : State) (n : Nat) (f : CoreSt → CoreSt) : (s.modCore n f).dies = s.dies := by unfold State.modCore State.setCore; split <;> rfl
@[simp] theorem State.modCore_dev (s : State) (n : Nat) (f : CoreSt → CoreSt) : (s.modCore n f).dev = s.dev := by unfold State.modCore State.setCore; split <;> rfl
@[simp] theorem State.modCore_host (s : State) (n : Nat) (f : CoreSt → CoreSt) : (s.modCore n f).host = s.host := by unfold State.modCore State.setCore; split <;> rfl
@[simp] theorem State.modCore_slots (s : State) (n : Nat) (f : CoreSt → CoreSt) : (s.modCore n f).slots = s.slots := by unfold State.modCore State.setCore; split <;> rfl
@[simp] theorem State.modCore_boot (s : State) (n : Nat) (f : CoreSt → CoreSt) : (s.modCore n f).boot = s.boot := by unfold State.modCore State.setCore; split <;> rfl
@[simp] theorem State.modCore_fabric (s : State) (n : Nat) (f : CoreSt → CoreSt) : (s.modCore n f).fabric = s.fabric := by unfold State.modCore State.setCore; split <;> rfl
@[simp] theorem State.modCore_saved (s : State) (n : Nat) (f : CoreSt → CoreSt) : (s.modCore n f).saved = s.saved := by unfold State.modCore State.setCore; split <;> rfl
@[simp] theorem State.modCore_ended (s : State) (n : Nat) (f : CoreSt → CoreSt) : (s.modCore n f).ended = s.ended := by unfold State.modCore State.setCore; split <;> rfl
@[simp] theorem State.modCore_savedTeams (s : State) (n : Nat) (f : CoreSt → CoreSt) : (s.modCore n f).savedTeams = s.savedTeams := by unfold State.modCore State.setCore; split <;> rfl
@[simp] theorem State.modCore_now (s : State) (n : Nat) (f : CoreSt → CoreSt) : (s.modCore n f).now = s.now := by unfold State.modCore State.setCore; split <;> rfl
@[simp] theorem State.modCore_cur (s : State) (n : Nat) (f : CoreSt → CoreSt) : (s.modCore n f).cur = s.cur := by unfold State.modCore State.setCore; split <;> rfl
@[simp] theorem State.modCore_notices (s : State) (n : Nat) (f : CoreSt → CoreSt) : (s.modCore n f).notices = s.notices := by unfold State.modCore State.setCore; split <;> rfl
@[simp] theorem State.modCore_engIn (s : State) (n : Nat) (f : CoreSt → CoreSt) : (s.modCore n f).engIn = s.engIn := by unfold State.modCore State.setCore; split <;> rfl
@[simp] theorem State.modCore_engOut (s : State) (n : Nat) (f : CoreSt → CoreSt) : (s.modCore n f).engOut = s.engOut := by unfold State.modCore State.setCore; split <;> rfl
@[simp] theorem State.modCore_notes (s : State) (n : Nat) (f : CoreSt → CoreSt) : (s.modCore n f).notes = s.notes := by unfold State.modCore State.setCore; split <;> rfl
@[simp] theorem State.modCore_sessions (s : State) (n : Nat) (f : CoreSt → CoreSt) : (s.modCore n f).sessions = s.sessions := by unfold State.modCore State.setCore; split <;> rfl
@[simp] theorem State.modCore_agenda (s : State) (n : Nat) (f : CoreSt → CoreSt) : (s.modCore n f).agenda = s.agenda := by unfold State.modCore State.setCore; split <;> rfl
@[simp] theorem State.modCore_pace (s : State) (n : Nat) (f : CoreSt → CoreSt) : (s.modCore n f).pace = s.pace := by unfold State.modCore State.setCore; split <;> rfl
@[simp] theorem State.modCore_nextId (s : State) (n : Nat) (f : CoreSt → CoreSt) : (s.modCore n f).nextId = s.nextId := by unfold State.modCore State.setCore; split <;> rfl
@[simp] theorem State.modCore_nextLoad (s : State) (n : Nat) (f : CoreSt → CoreSt) : (s.modCore n f).nextLoad = s.nextLoad := by unfold State.modCore State.setCore; split <;> rfl
@[simp] theorem State.modCore_free (s : State) (n : Nat) (f : CoreSt → CoreSt) : (s.modCore n f).free = s.free := by unfold State.modCore State.setCore; split <;> rfl

-- modFabric
@[simp] theorem State.modFabric_groups (s : State) (f : Fabric → Fabric) : (s.modFabric f).groups = s.groups := rfl
@[simp] theorem State.modFabric_teams (s : State) (f : Fabric → Fabric) : (s.modFabric f).teams = s.teams := rfl
@[simp] theorem State.modFabric_launches (s : State) (f : Fabric → Fabric) : (s.modFabric f).launches = s.launches := rfl
@[simp] theorem State.modFabric_parts (s : State) (f : Fabric → Fabric) : (s.modFabric f).parts = s.parts := rfl
@[simp] theorem State.modFabric_cores (s : State) (f : Fabric → Fabric) : (s.modFabric f).cores = s.cores := rfl
@[simp] theorem State.modFabric_xlats (s : State) (f : Fabric → Fabric) : (s.modFabric f).xlats = s.xlats := rfl
@[simp] theorem State.modFabric_dies (s : State) (f : Fabric → Fabric) : (s.modFabric f).dies = s.dies := rfl
@[simp] theorem State.modFabric_dev (s : State) (f : Fabric → Fabric) : (s.modFabric f).dev = s.dev := rfl
@[simp] theorem State.modFabric_host (s : State) (f : Fabric → Fabric) : (s.modFabric f).host = s.host := rfl
@[simp] theorem State.modFabric_slots (s : State) (f : Fabric → Fabric) : (s.modFabric f).slots = s.slots := rfl
@[simp] theorem State.modFabric_boot (s : State) (f : Fabric → Fabric) : (s.modFabric f).boot = s.boot := rfl
@[simp] theorem State.modFabric_saved (s : State) (f : Fabric → Fabric) : (s.modFabric f).saved = s.saved := rfl
@[simp] theorem State.modFabric_ended (s : State) (f : Fabric → Fabric) : (s.modFabric f).ended = s.ended := rfl
@[simp] theorem State.modFabric_savedTeams (s : State) (f : Fabric → Fabric) : (s.modFabric f).savedTeams = s.savedTeams := rfl
@[simp] theorem State.modFabric_now (s : State) (f : Fabric → Fabric) : (s.modFabric f).now = s.now := rfl
@[simp] theorem State.modFabric_cur (s : State) (f : Fabric → Fabric) : (s.modFabric f).cur = s.cur := rfl
@[simp] theorem State.modFabric_notices (s : State) (f : Fabric → Fabric) : (s.modFabric f).notices = s.notices := rfl
@[simp] theorem State.modFabric_engIn (s : State) (f : Fabric → Fabric) : (s.modFabric f).engIn = s.engIn := rfl
@[simp] theorem State.modFabric_engOut (s : State) (f : Fabric → Fabric) : (s.modFabric f).engOut = s.engOut := rfl
@[simp] theorem State.modFabric_notes (s : State) (f : Fabric → Fabric) : (s.modFabric f).notes = s.notes := rfl
@[simp] theorem State.modFabric_sessions (s : State) (f : Fabric → Fabric) : (s.modFabric f).sessions = s.sessions := rfl
@[simp] theorem State.modFabric_agenda (s : State) (f : Fabric → Fabric) : (s.modFabric f).agenda = s.agenda := rfl
@[simp] theorem State.modFabric_pace (s : State) (f : Fabric → Fabric) : (s.modFabric f).pace = s.pace := rfl
@[simp] theorem State.modFabric_nextId (s : State) (f : Fabric → Fabric) : (s.modFabric f).nextId = s.nextId := rfl
@[simp] theorem State.modFabric_nextLoad (s : State) (f : Fabric → Fabric) : (s.modFabric f).nextLoad = s.nextLoad := rfl
@[simp] theorem State.modFabric_free (s : State) (f : Fabric → Fabric) : (s.modFabric f).free = s.free := rfl

-- setPort
@[simp] theorem State.setPort_groups (s : State) (n : Nat) (p : Port) : (s.setPort n p).groups = s.groups := rfl
@[simp] theorem State.setPort_teams (s : State) (n : Nat) (p : Port) : (s.setPort n p).teams = s.teams := rfl
@[simp] theorem State.setPort_launches (s : State) (n : Nat) (p : Port) : (s.setPort n p).launches = s.launches := rfl
@[simp] theorem State.setPort_parts (s : State) (n : Nat) (p : Port) : (s.setPort n p).parts = s.parts := rfl
@[simp] theorem State.setPort_cores (s : State) (n : Nat) (p : Port) : (s.setPort n p).cores = s.cores := rfl
@[simp] theorem State.setPort_xlats (s : State) (n : Nat) (p : Port) : (s.setPort n p).xlats = s.xlats := rfl
@[simp] theorem State.setPort_dies (s : State) (n : Nat) (p : Port) : (s.setPort n p).dies = s.dies := rfl
@[simp] theorem State.setPort_dev (s : State) (n : Nat) (p : Port) : (s.setPort n p).dev = s.dev := rfl
@[simp] theorem State.setPort_host (s : State) (n : Nat) (p : Port) : (s.setPort n p).host = s.host := rfl
@[simp] theorem State.setPort_slots (s : State) (n : Nat) (p : Port) : (s.setPort n p).slots = s.slots := rfl
@[simp] theorem State.setPort_boot (s : State) (n : Nat) (p : Port) : (s.setPort n p).boot = s.boot := rfl
@[simp] theorem State.setPort_saved (s : State) (n : Nat) (p : Port) : (s.setPort n p).saved = s.saved := rfl
@[simp] theorem State.setPort_ended (s : State) (n : Nat) (p : Port) : (s.setPort n p).ended = s.ended := rfl
@[simp] theorem State.setPort_savedTeams (s : State) (n : Nat) (p : Port) : (s.setPort n p).savedTeams = s.savedTeams := rfl
@[simp] theorem State.setPort_now (s : State) (n : Nat) (p : Port) : (s.setPort n p).now = s.now := rfl
@[simp] theorem State.setPort_cur (s : State) (n : Nat) (p : Port) : (s.setPort n p).cur = s.cur := rfl
@[simp] theorem State.setPort_notices (s : State) (n : Nat) (p : Port) : (s.setPort n p).notices = s.notices := rfl
@[simp] theorem State.setPort_engIn (s : State) (n : Nat) (p : Port) : (s.setPort n p).engIn = s.engIn := rfl
@[simp] theorem State.setPort_engOut (s : State) (n : Nat) (p : Port) : (s.setPort n p).engOut = s.engOut := rfl
@[simp] theorem State.setPort_notes (s : State) (n : Nat) (p : Port) : (s.setPort n p).notes = s.notes := rfl
@[simp] theorem State.setPort_sessions (s : State) (n : Nat) (p : Port) : (s.setPort n p).sessions = s.sessions := rfl
@[simp] theorem State.setPort_agenda (s : State) (n : Nat) (p : Port) : (s.setPort n p).agenda = s.agenda := rfl
@[simp] theorem State.setPort_pace (s : State) (n : Nat) (p : Port) : (s.setPort n p).pace = s.pace := rfl
@[simp] theorem State.setPort_nextId (s : State) (n : Nat) (p : Port) : (s.setPort n p).nextId = s.nextId := rfl
@[simp] theorem State.setPort_nextLoad (s : State) (n : Nat) (p : Port) : (s.setPort n p).nextLoad = s.nextLoad := rfl
@[simp] theorem State.setPort_free (s : State) (n : Nat) (p : Port) : (s.setPort n p).free = s.free := rfl

-- what the updates change
@[simp] theorem State.setGroup_groups (s : State) (g : Group) : (s.setGroup g).groups = s.groups.map fun x => if x.gid = g.gid then g else x := rfl
@[simp] theorem State.setTeam_teams (s : State) (t : Team) : (s.setTeam t).teams = s.teams.map fun x => if x.tid = t.tid then t else x := rfl
@[simp] theorem State.setLaunch_launches (s : State) (l : Launch) : (s.setLaunch l).launches = s.launches.map fun x => if x.lid = l.lid then l else x := rfl
@[simp] theorem State.setPart_parts (s : State) (p : Part) : (s.setPart p).parts = s.parts.map fun x => if x.id = p.id then p else x := rfl
@[simp] theorem State.modGroup_groups (s : State) (g : Nat) (f : Group → Group) : (s.modGroup g f).groups = s.groups.map fun x => if x.gid = g then f x else x := rfl
@[simp] theorem State.modTeam_teams (s : State) (t : Nat) (f : Team → Team) : (s.modTeam t f).teams = s.teams.map fun x => if x.tid = t then f x else x := rfl
@[simp] theorem State.modLaunch_launches (s : State) (l : Nat) (f : Launch → Launch) : (s.modLaunch l f).launches = s.launches.map fun x => if x.lid = l then f x else x := rfl
@[simp] theorem State.modPart_parts (s : State) (p : Nat) (f : Part → Part) : (s.modPart p f).parts = s.parts.map fun x => if x.id = p then f x else x := rfl
@[simp] theorem State.notify_notices (s : State) (n : Notice) : (s.notify n).notices = s.notices ++ [n] := rfl
@[simp] theorem State.modFabric_fabric (s : State) (f : Fabric → Fabric) : (s.modFabric f).fabric = f s.fabric := rfl

/-- A group that is there is found with its new contents after it has been replaced. -/
theorem State.group?_setGroup (s : State) (g : Group) (h : (s.group? g.gid).isSome) : (s.setGroup g).group? g.gid = some g := by
  have key : ∀ l : List Group, (l.find? (·.gid == g.gid)).isSome →
      (l.map fun x => if x.gid = g.gid then g else x).find? (·.gid == g.gid) = some g := by
    intro l
    induction l with
    | nil => simp
    | cons x xs ih =>
      intro hl
      by_cases hx : x.gid = g.gid
      · simp [hx]
      · have hb : (x.gid == g.gid) = false := by simpa using hx
        simp only [List.map_cons, if_neg hx, List.find?_cons, hb] at hl ⊢
        exact ih hl
  exact key s.groups h

/-- Replacing one group leaves every other as it was. -/
theorem State.group?_setGroup_ne (s : State) (g : Group) (n : Nat) (h : n ≠ g.gid) : (s.setGroup g).group? n = s.group? n := by
  have key : ∀ l : List Group, (l.map fun x => if x.gid = g.gid then g else x).find? (·.gid == n) = l.find? (·.gid == n) := by
    intro l
    induction l with
    | nil => rfl
    | cons x xs ih =>
      by_cases hx : x.gid = g.gid
      · have h1 : (g.gid == n) = false := by simpa using fun e => h e.symm
        have h2 : (x.gid == n) = false := by rw [hx]; exact h1
        simp only [List.map_cons, if_pos hx, List.find?_cons, h1, h2]
        exact ih
      · simp only [List.map_cons, if_neg hx, List.find?_cons, ih]
  exact key s.groups

/-- The group that executes is one of the device's. -/
theorem State.curGroup_mem (s : State) (g : Group) (h : s.curGroup = some g) : s.group? g.gid = some g := by
  unfold State.curGroup at h
  cases hc : s.cur with
  | none => simp [hc] at h
  | some n =>
    simp only [hc, Option.bind_some] at h
    have hn : g.gid = n := by
      have := List.find?_some h
      simpa using this
    rw [hn]
    exact h

end Sys2Proof.Machine
end

