-- ==== Sys2Proof/Laws/Ops.lean ====
section
/-! SUPPORT. What the shared operations can do: landing and waiting for tags, the issue of an instruction, retirement, register
writes, reads and writes at a home. -/

namespace Sys2Proof.Machine

open Sys2Proof

-- tags

theorem landTag_gid (g : Group) (n k : Nat) : (landTag g n k).gid = g.gid := by
  unfold landTag
  split
  · rfl
  · split <;> rfl

theorem waitTag_gid {g g' : Group} {n : Nat} (h : waitTag g n = some g') : g'.gid = g.gid := by
  unfold waitTag at h
  split at h
  · cases h; rfl
  · split at h
    · cases h; rfl
    · cases h

theorem waitTags_gid {ns : List Nat} {g g' : Group} (h : waitTags g ns = some g') : g'.gid = g.gid := by
  induction ns generalizing g with
  | nil => cases h; rfl
  | cons n ns ih =>
    simp only [waitTags] at h
    cases hw : waitTag g n with
    | none => simp [hw] at h
    | some x =>
      rw [hw] at h
      exact (ih h).trans (waitTag_gid hw)

/-- Waiting for tags changes registers and tags only. -/
theorem waitTags_frame {ns : List Nat} {g g' : Group} (h : waitTags g ns = some g') : g' = { g with regs := g'.regs, tags := g'.tags } := by
  induction ns generalizing g with
  | nil => cases h; rfl
  | cons n ns ih =>
    simp only [waitTags] at h
    cases hw : waitTag g n with
    | none => simp [hw] at h
    | some x =>
      rw [hw] at h
      rw [ih h]
      unfold waitTag at hw
      split at hw
      · cases hw; rfl
      · split at hw
        · cases hw; rfl
        · cases hw

-- the issue of an instruction

theorem Issued.found {i : Instr} {s : State} {g : Group} (h : Issued i s g) : (s.group? g.gid).isSome := by
  unfold Issued issuedGroup at h
  split at h
  · cases h
  · rename_i g0 hc
    split at h
    · rw [waitTags_gid (Option.filter_eq_some_iff.mp h).1]
      rw [State.curGroup_mem s g0 hc]; rfl
    · cases h

/-- An instruction that issues does its own part. -/
theorem issue_of {i : Instr} {s : State} {g : Group} {body : State → Group → Out} (h : Issued i s g) :
    issue i body s = .next (runBody i body s 64 g) := by
  unfold Issued issuedGroup at h
  unfold issue
  split at h
  · cases h
  · rename_i g0 hc
    split at h
    · rename_i hk
      obtain ⟨hw, hp⟩ := Option.filter_eq_some_iff.mp h
      simp_all
    · cases h

/-- The part settles as it answers, unless it stops. -/
theorem runBody_of {i : Instr} {s : State} {g : Group} {body : State → Group → Out} {o : Out} (hb : body s g = o)
    (ho : ∀ st, o ≠ .stop st) (n : Nat) : runBody i body s n g = settle s g i o := by
  cases n with
  | zero => simp [runBody, hb]
  | succ n =>
    unfold runBody
    rw [hb]
    cases o <;> simp_all

theorem issue_done {i : Instr} {s s' : State} {g g' : Group} {w : WinEntry} {body : State → Group → Out} (h : Issued i s g)
    (hb : body s g = .done s' g' w) : issue i body s = .next (s'.setGroup (retire g' i w)) := by
  rw [issue_of h, runBody_of hb (fun _ => by simp)]; rfl

theorem issue_goto {i : Instr} {s s' : State} {g g' : Group} {pc : W64} {body : State → Group → Out} (h : Issued i s g)
    (hb : body s g = .goto s' g' pc) : issue i body s = .next (s'.setGroup (retireTo g' pc)) := by
  rw [issue_of h, runBody_of hb (fun _ => by simp)]; rfl

theorem issue_halt {i : Instr} {s s' : State} {g g' : Group} {body : State → Group → Out} (h : Issued i s g)
    (hb : body s g = .halt s' g') : issue i body s = .next (s'.setGroup g') := by
  rw [issue_of h, runBody_of hb (fun _ => by simp)]; rfl

theorem issue_wait {i : Instr} {s s' : State} {g g' : Group} {body : State → Group → Out} (h : Issued i s g)
    (hb : body s g = .wait s' g') : issue i body s = .next (s'.setGroup (stall g')) := by
  rw [issue_of h, runBody_of hb (fun _ => by simp)]; rfl

/-- A stop outside an attempt. -/
theorem issue_stop {i : Instr} {s : State} {g : Group} {st : Stop} {body : State → Group → Out} (h : Issued i s g)
    (hr : g.region.state ≠ .open) (hb : body s g = .stop st) : issue i body s = .next (groupStop s g st) := by
  rw [issue_of h]
  simp [runBody, hb, hr, stopAt]

-- retirement

/-- Retirement to the next word, in the terms of statements. -/
theorem retired_of {i : Instr} {s : State} {e : Group} (w : WinEntry) (h : (s.group? e.gid).isSome) :
    Retired i s e w (s.setGroup (retire e i w)) := by
  have hg : (retire e i w).gid = e.gid := by unfold retire countRetired; split <;> rfl
  refine ⟨retire e i w, rfl, ?_, ?_, ?_⟩
  · rw [← hg]; exact State.group?_setGroup s _ (hg ▸ h)
  · intro n hn; exact State.group?_setGroup_ne s _ n (hg ▸ hn)
  · unfold retire countRetired; split <;> rfl

theorem moved_of {s : State} {e : Group} (pc : W64) (h : (s.group? e.gid).isSome) :
    Moved s e pc [] (s.setGroup (retireTo e pc)) := by
  refine ⟨retireTo e pc, rfl, State.group?_setGroup s (retireTo e pc) h, ?_, rfl⟩
  intro n hn; exact State.group?_setGroup_ne s (retireTo e pc) n hn

/-- An instruction of its own part `done` completes. -/
theorem completes_done {i : Instr} {s s' : State} {g e : Group} {w : WinEntry} {body : State → Group → Out} (h : Issued i s g)
    (hb : body s g = .done s' e w) (he : (s'.group? e.gid).isSome) : ∃ t, issue i body s = .next t ∧ Retired i s' e w t :=
  ⟨_, issue_done h hb, retired_of w he⟩

theorem completes_goto {i : Instr} {s s' : State} {g e : Group} {pc : W64} {body : State → Group → Out} (h : Issued i s g)
    (hb : body s g = .goto s' e pc) (he : (s'.group? e.gid).isSome) : ∃ t, issue i body s = .next t ∧ Moved s' e pc [] t :=
  ⟨_, issue_goto h hb, moved_of pc he⟩

-- memory under changes of groups and of what teams hold besides their scratchpads

theorem homeRead_setGroup (s : State) (g : Group) (r : Route) (a : Nat) : homeRead (s.setGroup g) r a = homeRead s r a := by
  cases r <;> rfl

theorem homePois_setGroup (s : State) (g : Group) (r : Route) (n : Nat) : homePois (s.setGroup g) r n = homePois s r n := by
  cases r <;> rfl

theorem SameMemory.refl (s : State) : SameMemory s s := ⟨fun _ _ => rfl, fun _ _ => rfl⟩

theorem SameMemory.trans {s t u : State} (h : SameMemory s t) (k : SameMemory t u) : SameMemory s u :=
  ⟨fun r a => (k.1 r a).trans (h.1 r a), fun r n => (k.2 r n).trans (h.2 r n)⟩

theorem SameMemory.setGroup (s : State) (g : Group) : SameMemory s (s.setGroup g) :=
  ⟨homeRead_setGroup s g, homePois_setGroup s g⟩

theorem find?_modTeam (l : List Team) (k n : Nat) (f : Team → Team) (hf : ∀ x, (f x).tid = x.tid) :
    (l.map fun x => if x.tid = k then f x else x).find? (·.tid == n)
      = (l.find? (·.tid == n)).map fun x => if x.tid = k then f x else x := by
  induction l with
  | nil => rfl
  | cons x xs ih =>
    have ht : (if x.tid = k then f x else x).tid = x.tid := by split <;> simp [hf]
    simp only [List.map_cons, List.find?_cons, ht]
    split <;> simp_all

theorem State.team?_modTeam (s : State) (k n : Nat) (f : Team → Team) (hf : ∀ x, (f x).tid = x.tid) :
    (s.modTeam k f).team? n = (s.team? n).map fun x => if x.tid = k then f x else x := find?_modTeam _ _ _ _ hf

/-- A change of a team that keeps its number and its scratchpad keeps every byte. -/
theorem SameMemory.modTeam (s : State) (k : Nat) (f : Team → Team) (hf : ∀ x, (f x).tid = x.tid) (hs : ∀ x, (f x).scratch = x.scratch) :
    SameMemory s (s.modTeam k f) := by
  have hteam : ∀ n, ((s.modTeam k f).team? n).map (·.scratch) = (s.team? n).map (·.scratch) := by
    intro n
    rw [State.team?_modTeam s k n f hf]
    cases s.team? n with
    | none => rfl
    | some x => simp only [Option.map_some]; split <;> simp [hs]
  constructor
  · intro r a
    cases r with
    | glob t _ _ _ _ => cases t <;> rfl
    | scratch n =>
      have h := congrArg (Option.map fun x : Store => Mem.read x.bytes a) (hteam n)
      simp only [Option.map_map, Function.comp_def] at h
      simp only [homeRead, h]
  · intro r a
    cases r with
    | glob t _ _ _ _ => cases t <;> rfl
    | scratch n =>
      have h := congrArg (Option.map fun x : Store => x.poisoned a) (hteam n)
      simp only [Option.map_map, Function.comp_def] at h
      simp only [homePois, h]

-- results

/-- What has been read early is registers alone: masks and EXM are those at the execution (R163). -/
theorem EarlyRead.onto_masks (e : EarlyRead) (r : Regs) : (e.onto r).m = r.m ∧ (e.onto r).exm = r.exm := by
  have hs : ∀ (l : List (BitVec 6)) (r : Regs),
      (l.foldl (fun r n => r.setS n (e.regs.getS n) (e.regs.getSP n)) r).m = r.m ∧
      (l.foldl (fun r n => r.setS n (e.regs.getS n) (e.regs.getSP n)) r).exm = r.exm := by
    intro l
    induction l with
    | nil => intro r; exact ⟨rfl, rfl⟩
    | cons n l ih =>
      intro r
      have h : (r.setS n (e.regs.getS n) (e.regs.getSP n)).m = r.m ∧ (r.setS n (e.regs.getS n) (e.regs.getSP n)).exm = r.exm := by
        unfold Regs.setS; split <;> exact ⟨rfl, rfl⟩
      exact ⟨(ih _).1.trans h.1, (ih _).2.trans h.2⟩
  have hv : ∀ (l : List (BitVec 7)) (r : Regs),
      (l.foldl (fun (r : Regs) n => { r with v := r.v.setIfInBounds n.toNat e.regs.v[n.toNat], vp := r.vp.setIfInBounds n.toNat e.regs.vp[n.toNat] }) r).m = r.m ∧
      (l.foldl (fun (r : Regs) n => { r with v := r.v.setIfInBounds n.toNat e.regs.v[n.toNat], vp := r.vp.setIfInBounds n.toNat e.regs.vp[n.toNat] }) r).exm = r.exm := by
    intro l
    induction l with
    | nil => intro r; exact ⟨rfl, rfl⟩
    | cons n l ih => intro r; exact ⟨(ih _).1, (ih _).2⟩
  exact ⟨(hv _ _).1.trans (hs _ _).1, (hv _ _).2.trans (hs _ _).2⟩

theorem writeS_gid (s : State) (g : Group) (d : Option SDst) (v : W64) : (writeS s g d v).2.gid = g.gid := by
  unfold writeS; split <;> rfl

theorem writeS_group? (s : State) (g : Group) (d : Option SDst) (v : W64) (n : Nat) : (writeS s g d v).1.group? n = s.group? n := by
  unfold writeS; split <;> rfl

theorem writeC_tid (clock sub gid : Nat) (n : BitVec 4) (v : W64) (t : Team) : (writeC clock sub gid n v t).tid = t.tid := by
  unfold writeC; split <;> rfl
theorem writeC_scratch (clock sub gid : Nat) (n : BitVec 4) (v : W64) (t : Team) : (writeC clock sub gid n v t).scratch = t.scratch := by
  unfold writeC; split <;> rfl

/-- A scalar result changes no byte of memory. -/
theorem SameMemory.writeS (s : State) (g : Group) (d : Option SDst) (v : W64) : SameMemory s (writeS s g d v).1 := by
  unfold Machine.writeS
  split
  · exact .refl s
  · exact .refl s
  · exact .modTeam s _ _ (writeC_tid _ _ _ _ _) (writeC_scratch _ _ _ _ _)

theorem writeVW_gid (w : Bool) (g : Group) (d : Option VReg) (m : LMask) (f : Lane → W64) : (writeVW w g d m f).1.gid = g.gid := by
  unfold writeVW writeV64 writeV32; split <;> split <;> rfl

end Sys2Proof.Machine
end

