-- ==== Sys2Proof/Laws/PerInstr.lean ====
section
/-! SUPPORT. A statement about every instruction as syntax, one lemma per constructor. -/

namespace Sys2Proof.Laws.Shape

open Sys2Proof Sys2Proof.Machine

/-- A row of the table has an encoding exactly where it is an instruction of a run, with the common header; a device step has none. -/
def Statement (i : Instr) : Prop := (encode i).isSome = (iHdr i).isSome

theorem nop (h : Hdr) : Statement (.nop h) := rfl
theorem br (h : Hdr) (ofs : BitVec 32) : Statement (.br h ofs) := rfl
theorem brc (h : Hdr) (cond : UOp) (t : BrTest) (ofs : BitVec 32) : Statement (.brc h cond t ofs) := rfl
theorem brd (h : Hdr) (c : BitVec 3) (neg : Bool) (ofs : BitVec 32) : Statement (.brd h c neg ofs) := rfl
theorem join (h : Hdr) : Statement (.join h) := rfl
theorem loop (h : Hdr) (ofs : BitVec 32) : Statement (.loop h ofs) := rfl
theorem brk (h : Hdr) (c : BitVec 3) (neg : Bool) (ofs : BitVec 32) : Statement (.brk h c neg ofs) := rfl
theorem call (h : Hdr) (link : SDst) (ofs : BitVec 32) : Statement (.call h link ofs) := rfl
theorem ret (h : Hdr) (a : UOp) : Statement (.ret h a) := rfl
theorem jmpr (h : Hdr) (a : UOp) : Statement (.jmpr h a) := rfl
theorem exit (h : Hdr) : Statement (.exit h) := rfl
theorem trap (h : Hdr) (code : BitVec 16) : Statement (.trap h code) := rfl
theorem rte (h : Hdr) : Statement (.rte h) := rfl
theorem yield (h : Hdr) : Statement (.yield h) := rfl
theorem sadd (h : Hdr) (d : Option SDst) (a b : UOp) (ty : STy) (sat : Bool) : Statement (.sadd h d a b ty sat) := rfl
theorem ssub (h : Hdr) (d : Option SDst) (a b : UOp) (ty : STy) (sat : Bool) : Statement (.ssub h d a b ty sat) := rfl
theorem smul (h : Hdr) (d : Option SDst) (a b : UOp) (ty : STy) (sat : Bool) : Statement (.smul h d a b ty sat) := rfl
theorem smulh (h : Hdr) (d : Option SDst) (a b : UOp) (ty : STy) : Statement (.smulh h d a b ty) := rfl
theorem sand (h : Hdr) (d : Option SDst) (a b : UOp) (ty : STy) : Statement (.sand h d a b ty) := rfl
theorem sor (h : Hdr) (d : Option SDst) (a b : UOp) (ty : STy) : Statement (.sor h d a b ty) := rfl
theorem sxor (h : Hdr) (d : Option SDst) (a b : UOp) (ty : STy) : Statement (.sxor h d a b ty) := rfl
theorem sshl (h : Hdr) (d : Option SDst) (a b : UOp) (ty : STy) : Statement (.sshl h d a b ty) := rfl
theorem sshr (h : Hdr) (d : Option SDst) (a b : UOp) (ty : STy) : Statement (.sshr h d a b ty) := rfl
theorem ssar (h : Hdr) (d : Option SDst) (a b : UOp) (ty : STy) : Statement (.ssar h d a b ty) := rfl
theorem smin (h : Hdr) (d : Option SDst) (a b : UOp) (ty : STy) : Statement (.smin h d a b ty) := rfl
theorem smax (h : Hdr) (d : Option SDst) (a b : UOp) (ty : STy) : Statement (.smax h d a b ty) := rfl
theorem scmp (h : Hdr) (d : Option SDst) (a b : UOp) (ty : STy) (c : Cond) : Statement (.scmp h d a b ty c) := rfl
theorem ssel (h : Hdr) (d : Option SDst) (a b c : UOp) (ty : STy) : Statement (.ssel h d a b c ty) := rfl
theorem smov (h : Hdr) (d : Option SDst) (a : UOp) (ty : STy) : Statement (.smov h d a ty) := rfl
theorem sbit (h : Hdr) (d : Option SDst) (a : UOp) (op : BitOp UOp) (ty : STy) : Statement (.sbit h d a op ty) := rfl
theorem sli (h : Hdr) (d : Option SDst) (imm : BitVec 32) : Statement (.sli h d imm) := rfl
theorem slih (h : Hdr) (d : Option SDst) (a : UOp) (imm : BitVec 32) : Statement (.slih h d a imm) := rfl
theorem rdsr (h : Hdr) (d : Option RDst) (n : SReg) : Statement (.rdsr h d n) := rfl
theorem wrsr (h : Hdr) (n : SReg) (a : OOp) : Statement (.wrsr h n a) := rfl
theorem grow (h : Hdr) (n : BitVec 8) : Statement (.grow h n) := rfl
theorem twait (h : Hdr) (set : BitVec 7) : Statement (.twait h set) := rfl
theorem clrc (h : Hdr) (bits : BitVec 16) : Statement (.clrc h bits) := rfl
theorem mmov (h : Hdr) (d a : MOp) : Statement (.mmov h d a) := rfl
theorem mlog (h : Hdr) (d a b : MOp) (tt : BitVec 4) : Statement (.mlog h d a b tt) := rfl
theorem mpopc (h : Hdr) (d : Option SDst) (a : MOp) : Statement (.mpopc h d a) := rfl
theorem mfirst (h : Hdr) (d : Option SDst) (a : MOp) : Statement (.mfirst h d a) := rfl
theorem mrd (h : Hdr) (d : Option SDst) (a : MOp) : Statement (.mrd h d a) := rfl
theorem mwr (h : Hdr) (d : MOp) (a : UOp) : Statement (.mwr h d a) := rfl
theorem mtest (h : Hdr) (d : Option SDst) (a : MOp) (b : UOp) : Statement (.mtest h d a b) := rfl
theorem vadd (h : Hdr) (d : Option VReg) (a b : OOp) (sel : BitVec 3) (ty : VTy) (sat : Bool) : Statement (.vadd h d a b sel ty sat) := rfl
theorem vsub (h : Hdr) (d : Option VReg) (a b : OOp) (sel : BitVec 3) (ty : VTy) (sat : Bool) : Statement (.vsub h d a b sel ty sat) := rfl
theorem vmul (h : Hdr) (d : Option VReg) (a b : OOp) (sel : BitVec 3) (ty : VTy) (sat : Bool) : Statement (.vmul h d a b sel ty sat) := rfl
theorem vmulh (h : Hdr) (d : Option VReg) (a b : OOp) (sel : BitVec 3) (ty : VTy) : Statement (.vmulh h d a b sel ty) := rfl
theorem vmad (h : Hdr) (d : Option VReg) (a b c : OOp) (sel : BitVec 3) (ty : VTy) (sat : Bool) : Statement (.vmad h d a b c sel ty sat) := rfl
theorem vaddc (h : Hdr) (d : Option VReg) (a b : OOp) (sel : BitVec 3) (ty : VTy) (k : BitVec 3) : Statement (.vaddc h d a b sel ty k) := rfl
theorem vand (h : Hdr) (d : Option VReg) (a b : OOp) (sel : BitVec 3) (ty : VTy) : Statement (.vand h d a b sel ty) := rfl
theorem vor (h : Hdr) (d : Option VReg) (a b : OOp) (sel : BitVec 3) (ty : VTy) : Statement (.vor h d a b sel ty) := rfl
theorem vxor (h : Hdr) (d : Option VReg) (a b : OOp) (sel : BitVec 3) (ty : VTy) : Statement (.vxor h d a b sel ty) := rfl
theorem vshl (h : Hdr) (d : Option VReg) (a b : OOp) (sel : BitVec 3) (ty : VTy) : Statement (.vshl h d a b sel ty) := rfl
theorem vshr (h : Hdr) (d : Option VReg) (a b : OOp) (sel : BitVec 3) (ty : VTy) : Statement (.vshr h d a b sel ty) := rfl
theorem vsar (h : Hdr) (d : Option VReg) (a b : OOp) (sel : BitVec 3) (ty : VTy) : Statement (.vsar h d a b sel ty) := rfl
theorem vmin (h : Hdr) (d : Option VReg) (a b : OOp) (sel : BitVec 3) (ty : VTy) : Statement (.vmin h d a b sel ty) := rfl
theorem vmax (h : Hdr) (d : Option VReg) (a b : OOp) (sel : BitVec 3) (ty : VTy) : Statement (.vmax h d a b sel ty) := rfl
theorem vabsd (h : Hdr) (d : Option VReg) (a b : OOp) (sel : BitVec 3) (ty : VTy) : Statement (.vabsd h d a b sel ty) := rfl
theorem vbit (h : Hdr) (d : Option VReg) (a : OOp) (op : BitOp OOp) (sel : BitVec 3) (ty : VTy) : Statement (.vbit h d a op sel ty) := rfl
theorem vcmp (h : Hdr) (d : BitVec 3) (a b : OOp) (sel : BitVec 3) (ty : VTy) (c : Cond) : Statement (.vcmp h d a b sel ty c) := rfl
theorem vsel (h : Hdr) (d : Option VReg) (a b : OOp) (sel : BitVec 3) (ty : VTy) (k : BitVec 3) : Statement (.vsel h d a b sel ty k) := rfl
theorem vmov (h : Hdr) (d : Option VReg) (a : OOp) (sel : BitVec 3) (ty : VTy) : Statement (.vmov h d a sel ty) := rfl
theorem vli (h : Hdr) (d : Option VReg) (imm : BitVec 32) : Statement (.vli h d imm) := rfl
theorem vidx (h : Hdr) (d : Option VReg) (a b : OOp) (sel : BitVec 3) (signed : Bool) : Statement (.vidx h d a b sel signed) := rfl
theorem vpermb (h : Hdr) (d : Option VReg) (a b : OOp) (sel : BitVec 3) : Statement (.vpermb h d a b sel) := rfl
theorem vfadd (h : Hdr) (d : Option VReg) (a b : OOp) (sel : BitVec 3) (rm : RM) : Statement (.vfadd h d a b sel rm) := rfl
theorem vfsub (h : Hdr) (d : Option VReg) (a b : OOp) (sel : BitVec 3) (rm : RM) : Statement (.vfsub h d a b sel rm) := rfl
theorem vfmul (h : Hdr) (d : Option VReg) (a b : OOp) (sel : BitVec 3) (rm : RM) : Statement (.vfmul h d a b sel rm) := rfl
theorem vfma (h : Hdr) (d : Option VReg) (a b c : OOp) (sel : BitVec 3) (rm : RM) : Statement (.vfma h d a b c sel rm) := rfl
theorem vfmin (h : Hdr) (d : Option VReg) (a b : OOp) (sel : BitVec 3) : Statement (.vfmin h d a b sel) := rfl
theorem vfmax (h : Hdr) (d : Option VReg) (a b : OOp) (sel : BitVec 3) : Statement (.vfmax h d a b sel) := rfl
theorem vfcmp (h : Hdr) (d : BitVec 3) (a b : OOp) (sel : BitVec 3) (c : FCond) : Statement (.vfcmp h d a b sel c) := rfl
theorem vfclass (h : Hdr) (d : Option VReg) (a : OOp) (sel : BitVec 3) : Statement (.vfclass h d a sel) := rfl
theorem vfrnd (h : Hdr) (d : Option VReg) (a : OOp) (sel : BitVec 3) (rm : RM) : Statement (.vfrnd h d a sel rm) := rfl
theorem vfcvt (h : Hdr) (d : Option VReg) (a : OOp) (sel : BitVec 3) (t : CvtTy) (rm : RM) : Statement (.vfcvt h d a sel t rm) := rfl
theorem vrcp (h : Hdr) (d : Option VReg) (a : OOp) (sel : BitVec 3) : Statement (.vrcp h d a sel) := rfl
theorem vrsq (h : Hdr) (d : Option VReg) (a : OOp) (sel : BitVec 3) : Statement (.vrsq h d a sel) := rfl
theorem vsqrt (h : Hdr) (d : Option VReg) (a : OOp) (sel : BitVec 3) : Statement (.vsqrt h d a sel) := rfl
theorem vexp2 (h : Hdr) (d : Option VReg) (a : OOp) (sel : BitVec 3) : Statement (.vexp2 h d a sel) := rfl
theorem vlog2 (h : Hdr) (d : Option VReg) (a : OOp) (sel : BitVec 3) : Statement (.vlog2 h d a sel) := rfl
theorem vsinpi (h : Hdr) (d : Option VReg) (a : OOp) (sel : BitVec 3) : Statement (.vsinpi h d a sel) := rfl
theorem vcospi (h : Hdr) (d : Option VReg) (a : OOp) (sel : BitVec 3) : Statement (.vcospi h d a sel) := rfl
theorem vtanh (h : Hdr) (d : Option VReg) (a : OOp) (sel : BitVec 3) : Statement (.vtanh h d a sel) := rfl
theorem vshfl (h : Hdr) (d : Option VReg) (a b : OOp) (sel : BitVec 3) (ty : NTy) (f : ShflForm) : Statement (.vshfl h d a b sel ty f) := rfl
theorem vbcast (h : Hdr) (d : Option VReg) (a : OOp) (b : UOp) (sel : BitVec 3) (ty : NTy) : Statement (.vbcast h d a b sel ty) := rfl
theorem vred (h : Hdr) (d : Option SDst) (a : OOp) (sel : BitVec 3) (ty : VTy) (op : RedOp) : Statement (.vred h d a sel ty op) := rfl
theorem vredf (h : Hdr) (d : Option SDst) (a : OOp) (sel : BitVec 3) (op : FRedOp) : Statement (.vredf h d a sel op) := rfl
theorem vscan (h : Hdr) (d : Option VReg) (a : OOp) (sel : BitVec 3) (ty : ScanTy) (op : FRedOp) (excl : Bool) : Statement (.vscan h d a sel ty op excl) := rfl
theorem vcomp (h : Hdr) (d : Option VReg) (a : OOp) (sel : BitVec 3) (ty : NTy) : Statement (.vcomp h d a sel ty) := rfl
theorem vexpd (h : Hdr) (d : Option VReg) (a : OOp) (sel : BitVec 3) (ty : NTy) : Statement (.vexpd h d a sel ty) := rfl
theorem vld (h : Hdr) (ta : BitVec 3) (d : VReg) (a : OOp) (off : BitVec 16) (sel : BitVec 3) (f : MFmt) (acq : Option Scope) (nt : Bool) : Statement (.vld h ta d a off sel f acq nt) := rfl
theorem vldIndexed (h : Hdr) (ta : BitVec 3) (d : VReg) (a b : OOp) (c : BitVec 8) (sel : BitVec 3) (f : MFmt) (acq : Option Scope) (nt : Bool) : Statement (.vldIndexed h ta d a b c sel f acq nt) := rfl
theorem vldb (h : Hdr) (ta : BitVec 3) (d : VReg) (a : UOp) (off : BitVec 16) (sel : BitVec 3) (f : MFmt) (acq : Option Scope) (nt : Bool) : Statement (.vldb h ta d a off sel f acq nt) := rfl
theorem vst (h : Hdr) (d a : OOp) (off : BitVec 16) (sel : BitVec 3) (f : MFmt) (rnd : SRnd) (rel : Option Scope) (nt : Bool) : Statement (.vst h d a off sel f rnd rel nt) := rfl
theorem vstIndexed (h : Hdr) (d a b : OOp) (c : BitVec 8) (sel : BitVec 3) (f : MFmt) (rnd : SRnd) (rel : Option Scope) (nt : Bool) : Statement (.vstIndexed h d a b c sel f rnd rel nt) := rfl
theorem vstAmax (h : Hdr) (d a : OOp) (off : BitVec 16) (sel : BitVec 3) (f : MFmt) (rnd : SRnd) (rel : Option Scope) (nt : Bool) : Statement (.vstAmax h d a off sel f rnd rel nt) := rfl
theorem vstAmaxIndexed (h : Hdr) (d a b : OOp) (c : BitVec 8) (sel : BitVec 3) (f : MFmt) (rnd : SRnd) (rel : Option Scope) (nt : Bool) : Statement (.vstAmaxIndexed h d a b c sel f rnd rel nt) := rfl
theorem vlds (h : Hdr) (ta : BitVec 3) (d : VReg) (a : OOp) (off : BitVec 16) (sel : BitVec 3) (f : MFmt) (acq : Option Scope) : Statement (.vlds h ta d a off sel f acq) := rfl
theorem vsts (h : Hdr) (d a : OOp) (off : BitVec 16) (sel : BitVec 3) (f : MFmt) (rnd : SRnd) (rel : Option Scope) : Statement (.vsts h d a off sel f rnd rel) := rfl
theorem vldp (h : Hdr) (ta : BitVec 3) (d : VReg) (a : OOp) (off : BitVec 16) (sel : BitVec 3) (f : MFmt) (nt : Bool) : Statement (.vldp h ta d a off sel f nt) := rfl
theorem vstp (h : Hdr) (d a : OOp) (off : BitVec 16) (sel : BitVec 3) (f : MFmt) (rnd : SRnd) (nt : Bool) : Statement (.vstp h d a off sel f rnd nt) := rfl
theorem sld (h : Hdr) (ta : BitVec 3) (d : BitVec 6) (a : UOp) (off : BitVec 16) (f : MFmt) (acq : Option Scope) (nt : Bool) : Statement (.sld h ta d a off f acq nt) := rfl
theorem sst (h : Hdr) (d a : UOp) (off : BitVec 16) (f : MFmt) (rel : Option Scope) (nt : Bool) : Statement (.sst h d a off f rel nt) := rfl
theorem pref (h : Hdr) (a : OOp) (off : BitVec 16) (sel : BitVec 3) (nt : Bool) : Statement (.pref h a off sel nt) := rfl
theorem cwb (h : Hdr) (addr : Option UAddr) (sc : Scope) : Statement (.cwb h addr sc) := rfl
theorem cinv (h : Hdr) (addr : Option UAddr) (sc : Scope) : Statement (.cinv h addr sc) := rfl
theorem icinv (h : Hdr) (addr : Option UAddr) (dev : Bool) : Statement (.icinv h addr dev) := rfl
theorem atom (h : Hdr) (r : Option ARet) (a b : OOp) (sel : BitVec 3) (f : AFmt) (op : AOp) (ord : AOrd) : Statement (.atom h r a b sel f op ord) := rfl
theorem acas (h : Hdr) (r : Option ARet) (a b c : OOp) (sel : BitVec 3) (f : AFmt) (ord : AOrd) : Statement (.acas h r a b c sel f ord) := rfl
theorem afadd (h : Hdr) (r : Option ARet) (a b : OOp) (sel : BitVec 3) (ord : AOrd) : Statement (.afadd h r a b sel ord) := rfl
theorem fence (h : Hdr) (ord : FOrd) (sc : Scope) (sp : Bool) : Statement (.fence h ord sc sp) := rfl
theorem bara (h : Hdr) (d : Option SDst) (a : UOp) (sc : Scope) (sp : Bool) : Statement (.bara h d a sc sp) := rfl
theorem barw (h : Hdr) (a b : UOp) (sc : Scope) (sp : Bool) : Statement (.barw h a b sc sp) := rfl
theorem bar (h : Hdr) (a : UOp) (sc : Scope) (sp : Bool) : Statement (.bar h a sc sp) := rfl
theorem qpush (h : Hdr) (d : VReg) (q : BitVec 6) (sel : BitVec 3) : Statement (.qpush h d q sel) := rfl
theorem qpop (h : Hdr) (d : VReg) (q : BitVec 6) (sel : BitVec 3) : Statement (.qpop h d q sel) := rfl
theorem qtrypush (h : Hdr) (d : VReg) (q : BitVec 6) (sel : BitVec 3) : Statement (.qtrypush h d q sel) := rfl
theorem qtrypop (h : Hdr) (d : VReg) (q : BitVec 6) (sel : BitVec 3) : Statement (.qtrypop h d q sel) := rfl
theorem sqpush (h : Hdr) (d : BitVec 6) (q : BitVec 6) : Statement (.sqpush h d q) := rfl
theorem sqpop (h : Hdr) (d : BitVec 6) (q : BitVec 6) : Statement (.sqpop h d q) := rfl
theorem qstat (h : Hdr) (d : Option SDst) (q : BitVec 6) : Statement (.qstat h d q) := rfl
theorem qinit (h : Hdr) (a b c : UOp) : Statement (.qinit h a b c) := rfl
theorem taskwait (h : Hdr) (q : BitVec 6) : Statement (.taskwait h q) := rfl
theorem taskdone (h : Hdr) (q : BitVec 6) : Statement (.taskdone h q) := rfl
theorem cpy (h : Hdr) (a : BitVec 6) (x : Xform) : Statement (.cpy h a x) := rfl
theorem bclose (h : Hdr) (d : Option SDst) (st : Strm) : Statement (.bclose h d st) := rfl
theorem bwait (h : Hdr) (a : UOp) (st : Strm) : Statement (.bwait h a st) := rfl
theorem egath (h : Hdr) (d a : UOp) (b c : OOp) (sel : BitVec 3) (seg : BitVec 3) : Statement (.egath h d a b c sel seg) := rfl
theorem escat (h : Hdr) (d a : UOp) (b : OOp) (sel : BitVec 3) : Statement (.escat h d a b sel) := rfl
theorem eswap (h : Hdr) (a b : UOp) : Statement (.eswap h a b) := rfl
theorem mma (h : Hdr) (d : BitVec 5) (a b : UOp) (ty : MmaTy) (pair : Bool) : Statement (.mma h d a b ty pair) := rfl
theorem mscale (h : Hdr) (d : BitVec 5) (a b : UOp) : Statement (.mscale h d a b) := rfl
theorem mzero (h : Hdr) (d : BitVec 5) : Statement (.mzero h d) := rfl
theorem mlda (h : Hdr) (ta : BitVec 3) (d : VReg) (a : BitVec 5) (b : UOp) (sel : BitVec 3) : Statement (.mlda h ta d a b sel) := rfl
theorem msta (h : Hdr) (a : BitVec 5) (b c : UOp) (f : MFmt) (rnd : SRnd) (nt : Bool) : Statement (.msta h a b c f rnd nt) := rfl
theorem msave (h : Hdr) (a : UOp) : Statement (.msave h a) := rfl
theorem mresume (h : Hdr) (a : UOp) : Statement (.mresume h a) := rfl
theorem txbeg (h : Hdr) (sel : BitVec 3) (ts : Bool) : Statement (.txbeg h sel ts) := rfl
theorem txend (h : Hdr) (sel : BitVec 3) : Statement (.txend h sel) := rfl
theorem txabt (h : Hdr) (sel : BitVec 3) : Statement (.txabt h sel) := rfl
theorem txstat (h : Hdr) (d : Option VReg) (sel : BitVec 3) : Statement (.txstat h d sel) := rfl
theorem specbeg (h : Hdr) (a : UOp) (b : OOp) (sel : BitVec 3) : Statement (.specbeg h a b sel) := rfl
theorem specend (h : Hdr) : Statement (.specend h) := rfl
theorem txRetry (gid : Nat) : Statement (.txRetry gid) := rfl
theorem serialTokenGrant (part : Nat) : Statement (.serialTokenGrant part) := rfl
theorem specTurn (gid : Nat) : Statement (.specTurn gid) := rfl
theorem orderNumberRetire (part : Nat) (k : Nat) : Statement (.orderNumberRetire part k) := rfl
theorem submissionPush (part page off : Nat) (data : List Byte) : Statement (.submissionPush part page off data) := rfl
theorem completionPop (part page off size : Nat) : Statement (.completionPop part page off size) := rfl
theorem qsetEnable (part pair : Nat) (v : W64) : Statement (.qsetEnable part pair v) := rfl
theorem qsetDisable (part pair : Nat) (v : W64) : Statement (.qsetDisable part pair v) := rfl
theorem queuePairRelease (part pair : Nat) : Statement (.queuePairRelease part pair) := rfl
theorem launchCheck (part : Nat) : Statement (.launchCheck part) := rfl
theorem refusalPush (part pair : Nat) : Statement (.refusalPush part pair) := rfl
theorem launchEnterTable (part pair : Nat) : Statement (.launchEnterTable part pair) := rfl
theorem clusterPlace (part : Nat) : Statement (.clusterPlace part) := rfl
theorem clusterWaitTimeout (part lid : Nat) : Statement (.clusterWaitTimeout part lid) := rfl
theorem groupEviction (gid : Nat) : Statement (.groupEviction gid) := rfl
theorem tagDrainTimeout (gid : Nat) : Statement (.tagDrainTimeout gid) := rfl
theorem lateSectorReturn (gid k : Nat) : Statement (.lateSectorReturn gid k) := rfl
theorem groupReadmit (gid : Nat) : Statement (.groupReadmit gid) := rfl
theorem growEvict (core sub : Nat) : Statement (.growEvict core sub) := rfl
theorem growStarvationTimeout (core sub : Nat) : Statement (.growStarvationTimeout core sub) := rfl
theorem yieldExpire (gid : Nat) : Statement (.yieldExpire gid) := rfl
theorem watchdog (gid : Nat) : Statement (.watchdog gid) := rfl
theorem runFetch (gid : Nat) : Statement (.runFetch gid) := rfl
theorem icacheFill (core line : Nat) : Statement (.icacheFill core line) := rfl
theorem runSelect (core sub : Nat) : Statement (.runSelect core sub) := rfl
theorem pageRequestSend (part : Nat) : Statement (.pageRequestSend part) := rfl
theorem pageResponse (part : Nat) (page : Nat) (code : PriCode) : Statement (.pageResponse part page code) := rfl
theorem priReset (part : Nat) : Statement (.priReset part) := rfl
theorem atsInvalidate (part : Nat) (page npages : Nat) : Statement (.atsInvalidate part page npages) := rfl
theorem atsInvalidateComplete (part : Nat) : Statement (.atsInvalidateComplete part) := rfl
theorem pageWalk (sector : Nat) (page : Nat) : Statement (.pageWalk sector page) := rfl
theorem sectorReturn (gid k : Nat) : Statement (.sectorReturn gid k) := rfl
theorem storeApply (gid : Nat) : Statement (.storeApply gid) := rfl
theorem lineFill (part line : Nat) : Statement (.lineFill part line) := rfl
theorem atomicHomeApply (gid : Nat) : Statement (.atomicHomeApply gid) := rfl
theorem queueHomeOp (gid : Nat) : Statement (.queueHomeOp gid) := rfl
theorem waiterNotify (k : Nat) : Statement (.waiterNotify k) := rfl
theorem parkRepoll (gid : Nat) : Statement (.parkRepoll gid) := rfl
theorem coreWake (core : Nat) : Statement (.coreWake core) := rfl
theorem taskDispatch (part : Nat) (q : Nat) : Statement (.taskDispatch part q) := rfl
theorem copyComplete (core op : Nat) : Statement (.copyComplete core op) := rfl
theorem ringPublish (core op : Nat) : Statement (.ringPublish core op) := rfl
theorem matrixCommandStart (core : Nat) : Statement (.matrixCommandStart core) := rfl
theorem kblockComplete (core : Nat) : Statement (.kblockComplete core) := rfl
theorem matrixCommandComplete (core : Nat) : Statement (.matrixCommandComplete core) := rfl
theorem pairClaim (core : Nat) : Statement (.pairClaim core) := rfl
theorem gatherComplete (core op : Nat) : Statement (.gatherComplete core op) := rfl
theorem scatterReadComplete (core op : Nat) : Statement (.scatterReadComplete core op) := rfl
theorem gatherBatchApply (core op : Nat) : Statement (.gatherBatchApply core op) := rfl
theorem descriptorRelease (part : Nat) (k : Nat) : Statement (.descriptorRelease part k) := rfl
theorem releaseRecordPush (part pair : Nat) : Statement (.releaseRecordPush part pair) := rfl
theorem groupEnd (gid : Nat) : Statement (.groupEnd gid) := rfl
theorem teamEnd (tid : Nat) : Statement (.teamEnd tid) := rfl
theorem launchComplete (lid : Nat) : Statement (.launchComplete lid) := rfl
theorem tokenVisit (die : Nat) : Statement (.tokenVisit die) := rfl
theorem powerSample (die : Nat) (milliwatt : Nat) : Statement (.powerSample die milliwatt) := rfl
theorem powerCapExceeded (die : Nat) : Statement (.powerCapExceeded die) := rfl
theorem clockHalve (die : Nat) : Statement (.clockHalve die) := rfl
theorem clockRestore (die : Nat) : Statement (.clockRestore die) := rfl
theorem tokenRestore (die : Nat) : Statement (.tokenRestore die) := rfl
theorem heatMark (core : Nat) (centi : Nat) : Statement (.heatMark core centi) := rfl
theorem heatMarkClear (core : Nat) : Statement (.heatMarkClear core) := rfl
theorem droopMark (core : Nat) : Statement (.droopMark core) := rfl
theorem droopMarkClear (core : Nat) : Statement (.droopMarkClear core) := rfl
theorem bootRecordVerify (rec : List Byte) (sigOk : Bool) (fw : List Byte) : Statement (.bootRecordVerify rec sigOk fw) := rfl
theorem bootRecordLoad (rec : List Byte) (sigOk : Bool) (fw : List Byte) : Statement (.bootRecordLoad rec sigOk fw) := rfl
theorem tierReached : Statement (.tierReached) := rfl
theorem partitionCreate (p : Nat) (sectors groups : List Nat) : Statement (.partitionCreate p sectors groups) := rfl
theorem partitionDestroy (p : Nat) : Statement (.partitionDestroy p) := rfl
theorem getVersion (fn : Nat) : Statement (.getVersion fn) := rfl
theorem getCapabilities (fn : Nat) : Statement (.getCapabilities fn) := rfl
theorem negotiateAlgorithms (fn : Nat) : Statement (.negotiateAlgorithms fn) := rfl
theorem getDigests (fn : Nat) : Statement (.getDigests fn) := rfl
theorem getCertificate (fn : Nat) : Statement (.getCertificate fn) := rfl
theorem challenge (fn : Nat) (nonce : List Byte) : Statement (.challenge fn nonce) := rfl
theorem getMeasurements (fn : Nat) (index : Nat) : Statement (.getMeasurements fn index) := rfl
theorem keyExchange (fn : Nat) : Statement (.keyExchange fn) := rfl
theorem finish (fn : Nat) : Statement (.finish fn) := rfl
theorem endSession (fn : Nat) : Statement (.endSession fn) := rfl
theorem keyloadLoad (fn : Nat) (secured : Bool) (rec : List Byte) : Statement (.keyloadLoad fn secured rec) := rfl
theorem keyloadErase (fn : Nat) (secured : Bool) (rec : List Byte) : Statement (.keyloadErase fn secured rec) := rfl
theorem keyEraseFinish (slot : Nat) : Statement (.keyEraseFinish slot) := rfl
theorem ptrootWrite (part : Nat) (v : W64) : Statement (.ptrootWrite part v) := rfl
theorem tlbInvalidateAll (part : Nat) : Statement (.tlbInvalidateAll part) := rfl
theorem tlbInvalidateRange (part : Nat) (npages : Nat) : Statement (.tlbInvalidateRange part npages) := rfl
theorem tlbInvalidateDone (part : Nat) : Statement (.tlbInvalidateDone part) := rfl
theorem flushAll (part : Nat) : Statement (.flushAll part) := rfl
theorem flushRange (part : Nat) (npages : Nat) : Statement (.flushRange part npages) := rfl
theorem flushDone (part : Nat) : Statement (.flushDone part) := rfl
theorem faberrClear (part : Nat) (v : W64) : Statement (.faberrClear part v) := rfl
theorem portAssign (port : Nat) (v : W64) : Statement (.portAssign port v) := rfl
theorem registerWrite (sp : BarSpace) (off : Nat) (v : W64) : Statement (.registerWrite sp off v) := rfl
theorem egressEnqueue (port : Nat) (p : Pkt) : Statement (.egressEnqueue port p) := rfl
theorem egressSend (port : Nat) : Statement (.egressSend port) := rfl
theorem transitForward (port : Nat) (p : Pkt) : Statement (.transitForward port p) := rfl
theorem wr (port : Nat) (p : Pkt) : Statement (.wr port p) := rfl
theorem wrb (port : Nat) (p : Pkt) : Statement (.wrb port p) := rfl
theorem rd (port : Nat) (p : Pkt) : Statement (.rd port p) := rfl
theorem rdrsp (port : Nat) (p : Pkt) : Statement (.rdrsp port p) := rfl
theorem atReq (port : Nat) (p : Pkt) : Statement (.atReq port p) := rfl
theorem atrsp (port : Nat) (p : Pkt) : Statement (.atrsp port p) := rfl
theorem err (port : Nat) (p : Pkt) : Statement (.err port p) := rfl
theorem ack (port : Nat) (p : Pkt) : Statement (.ack port p) := rfl
theorem rreq (port : Nat) (p : Pkt) : Statement (.rreq port p) := rfl
theorem qop (port : Nat) (p : Pkt) : Statement (.qop port p) := rfl
theorem qrsp (port : Nat) (p : Pkt) : Statement (.qrsp port p) := rfl
theorem ctok (port : Nat) (p : Pkt) : Statement (.ctok port p) := rfl
theorem fill (port : Nat) (p : Pkt) : Statement (.fill port p) := rfl
theorem trimmedHeader (port : Nat) (p : Pkt) : Statement (.trimmedHeader port p) := rfl
theorem packetApply (sid : StreamId) (seq : Nat) : Statement (.packetApply sid seq) := rfl
theorem rreqSend (dev : Nat) : Statement (.rreqSend dev) := rfl
theorem ackSend (sid : StreamId) : Statement (.ackSend sid) := rfl
theorem retransmitTimeout (sid : StreamId) (seq : Nat) : Statement (.retransmitTimeout sid seq) := rfl
theorem registerEccError (gid : Nat) (r : EccReg) : Statement (.registerEccError gid r) := rfl
theorem coreFence (core : Nat) : Statement (.coreFence core) := rfl
theorem memoryEccError (m : EccMem) : Statement (.memoryEccError m) := rfl
theorem channelFence (die ch : Nat) (untrained : Bool) : Statement (.channelFence die ch untrained) := rfl
theorem partitionFail (part : Nat) (slice : Nat) : Statement (.partitionFail part slice) := rfl
theorem correctableError (part : Nat) : Statement (.correctableError part) := rfl

end Sys2Proof.Laws.Shape
end

