-- ==== Sys2Proof/Tests/Slice0.lean ====
section
/-! SUPPORT. Tests of the model: what WellFormed refuses, words that the spec writes out, small steps whose outcome the spec gives, and for each
statement states and operands that meet its hypotheses. -/

namespace Sys2Proof.Tests

open Sys2Proof Sys2Proof.Machine

set_option Elab.async false

/-- A header without E, and one with it. -/
abbrev H : Hdr := ⟨false, 0⟩
abbrev HE : Hdr := ⟨true, 0⟩
abbrev S (n : BitVec 6) : UOp := .s n
abbrev V (n : BitVec 7) : OOp := .v n
abbrev RN : SRnd := .det .rn

-- WellFormed: one ill-formed term for each check (R54 to R71)

theorem test_wf_ends_run : [Instr.br H 0, .join H, .exit H, .trap H 0, .rte H, .yield H, .brc H (S 1) .nz 0, .brd H 0 false 0, .brk H 0 false 0,
    .call H (.s 1) 0, .ret H (S 1), .jmpr H (S 1), .txend H 0, .txabt H 0, .specend H].all (fun i => !i.wf) = true := by decide
theorem test_wf_no_literal : [Instr.brc HE (.lit 1) .nz 0, .slih H none (.lit 1) 0, .wrsr H .fpflags (.u (.lit 1))].all (fun i => !i.wf) = true := by
  decide
theorem test_wf_one_literal : [Instr.sadd H none (.lit 1) (.lit 2) .i64 false, .ssel H none (.lit 1) (S 1) (.lit 2) .i64,
    .vmad H none (V 0) (.u (.lit 1)) (.u (.lit 3)) 0 .i32 false].all (fun i => !i.wf) = true := by decide
theorem test_wf_special_registers : [Instr.rdsr H (some (.v 1)) .cycles, .rdsr H (some (.s (.s 1))) .lane, .wrsr H .cycles (.u (S 1)),
    .wrsr H .xpc (V 1)].all (fun i => !i.wf) = true := by decide
theorem test_wf_grow : [Instr.grow H 47, .grow H 49, .grow H 0, .grow H 129].all (fun i => !i.wf) = true := by decide
theorem test_wf_odd_pairs : [Instr.vadd H (some 1) (V 0) (V 2) 0 .n64 false, .vadd H (some 0) (V 1) (V 2) 0 .i64 false, .vmad H (some 0) (V 2) (V 4) (V 7) 0 .n64 false,
    .vbit H (some 0) (V 2) (.bfx (V 3) (V 4)) 0 .n64, .vcmp H 0 (V 1) (V 2) 0 .i64 .eq, .vmov H (some 1) (V 2) 0 .n64,
    .vfcvt H (some 1) (V 2) 0 (.fromF .i64) .rn, .vfcvt H (some 1) (V 3) 0 (.toF .i64) .rn, .vshfl H (some 1) (V 2) (V 3) 0 .n64 .idx,
    .vcomp H (some 2) (V 3) 0 .n64, .vred H none (V 1) 0 .n64 .add].all (fun i => !i.wf) = true := by decide
theorem test_wf_tags : [Instr.vld H 0 1 (V 2) 0 0 .n32 none false, .vldIndexed H 0 1 (V 2) (V 3) 0 0 .n32 none false, .vldb H 0 1 (S 1) 0 0 .n32 none false,
    .vlds H 0 1 (V 1) 0 0 .n32 none, .vldp H 0 1 (V 1) 0 0 .n32 false, .sld H 0 1 (S 1) 0 .n32 none false, .mlda H 0 1 0 (S 1) 0,
    .atom H (some ⟨1, 0⟩) (V 2) (V 3) 0 .n32 .add .plain].all (fun i => !i.wf) = true := by decide
theorem test_wf_memory_forms : [Instr.vld H 1 1 (V 2) 0 0 .n64 none false, .vld H 1 1 (V 3) 0 0 .n32 none false, .vst H (V 1) (V 2) 0 0 .n32 (.det .rz) none false,
    .vst H (V 1) (V 3) 0 0 .n32 RN none false, .vstAmax H (V 1) (V 2) 0 0 .n16 RN none false, .vlds H 1 1 (V 1) 0 0 .n32 (some .die),
    .vsts H (V 1) (V 1) 0 0 .n32 RN (some .sys), .vldp H 1 1 (V 1) 0 0 .f4 false, .vstp H (V 1) (V 1) 0 0 .f4 RN false, .sld H 1 1 (S 1) 0 .f16 none false,
    .sst H (S 1) (S 2) 0 .bf16 none false, .pref H (V 1) 0 0 false].all (fun i => !i.wf) = true := by decide
theorem test_wf_sync_forms : [Instr.fence H .acq .die true, .bara H none (S 1) .sys true, .barw H (S 1) (S 2) .dev true, .bar H (S 1) .die true,
    .atom H none (V 1) (V 2) 0 .n32 .add .plain, .acas H none (V 2) (V 3) (V 4) 0 .n64 .plain, .afadd H (some ⟨1, 0⟩) (V 2) (V 3) 0 .plain].all
    (fun i => !i.wf) = true := by decide
theorem test_wf_engine_forms : [Instr.cpy H 0 .lin, .cpy H 59 .lin, .egath H (S 1) (S 2) (V 1) (V 2) 0 0, .msta H 0 (S 1) (S 2) .n16 RN false,
    .msta H 0 (S 1) (S 2) .e8 RN false, .msta H 0 (S 1) (S 2) .n32 (.det .rz) false].all (fun i => !i.wf) = true := by decide
theorem test_wf_accepts : [Instr.cpy H 1 .lin, .cpy H 58 .lin, .grow H 48, .grow H 128, .vadd H (some 126) (V 0) (V 2) 0 .n64 true,
    .fence H .ar .cl true, .rdsr H (some (.v 1)) .lane, .vst H (V 1) (V 2) 0 0 .f4 .sr none false, .br HE 0].all (·.wf) = true := by decide

-- decoding: words the spec writes out

/-- The words decode to the instruction, and its encoding is the words. -/
def reads (ws : List W64) (i : Instr) : Bool :=
  (match decodeWords ws with
  | .ok x => decide (x.1 = i) && x.2 == ws.length
  | .error _ => false) && decide (encode i = some ws)

theorem test_decode_control :
    reads [0x028000FFFFFFFC00] (.br HE (-4)) && reads [0x0380C4FFFFFFF604] (.brc HE (.win 4) .gtz (-10)) && reads [0x0480010000000A00] (.brd HE 1 false 10) &&
    reads [0x0580000000000000] (.join HE) && reads [0x0680000000000600] (.loop HE 6) && reads [0x0780020000000200] (.brk HE 2 false 2) &&
    reads [0x0980009F00000000] (.ret HE (S 31)) && reads [0x0B80000000000000] (.exit HE) && reads [0x0C8000000000002A] (.trap HE 0x2A) &&
    reads [0x0D80000000000000] (.rte HE) = true := by decide
theorem test_decode_scalar :
    reads [0x1000838182000640] (.sadd H (some (.s 3)) (S 1) (S 2) .n64 true) && reads [0x200087003FC00000] (.sli H (some (.s 7)) 0x3FC00000) &&
    reads [0x2040000089ABCDEF] (.sli H none 0x89ABCDEF) && reads [0x210089C001234567] (.slih H (some (.s 9)) (.win 0) 0x01234567) &&
    reads [0x14009595C0000400] (.sand H (some (.s 21)) (S 21) (.win 0) .i64) &&
    reads [0x10008A8AF0000400, 0x100] (.sadd H (some (.s 10)) (S 10) (.lit 0x100) .i64 false) = true := by decide
theorem test_decode_special :
    reads [0x2200820000000020] (.rdsr H (some (.s (.s 2))) .cycles) && reads [0x2300008000000008] (.wrsr H .fpflags (.u (S 0))) &&
    reads [0x250000000000000A] (.twait H 0b101) && reads [0x2400000000000060] (.grow H 96) && reads [0x2600000000000008] (.clrc H 8) &&
    reads [0x2300009500000019] (.wrsr H .xexm (.u (S 21))) = true := by decide
theorem test_decode_masks :
    reads [0x2900030102000004] (.mlog H (.m 3) (.m 1) (.m 2) 4) && reads [0x2A00840800000000] (.mpopc H (some (.s 4)) .exm) &&
    reads [0x2D00088100000000] (.mwr H .exm (S 1)) && reads [0x2800080100000000] (.mmov H .exm (.m 1)) = true := by decide
theorem test_decode_vector :
    reads [0x3000030102000040] (.vadd H (some 3) (V 1) (V 2) 0 .i32 true) && reads [0x3400080204066600] (.vmad H (some 8) (V 2) (V 4) (V 6) 3 .n64 false) &&
    reads [0x3500040206000603] (.vaddc H (some 4) (V 2) (V 6) 0 .n64 3) && reads [0x3F00050182830004] (.vbit H (some 5) (V 1) (.bfx (.u (S 2)) (.u (S 3))) 0 .i32) &&
    reads [0x40000202DC000004] (.vcmp H 2 (V 2) .lane 0 .i32 .gt) && reads [0x4100060102000004] (.vsel H (some 6) (V 1) (V 2) 0 .i32 4) &&
    reads [0x430006003FA80000] (.vli H (some 6) 0x3FA80000) && reads [0x4500070185000200] (.vpermb H (some 7) (V 1) (.u (S 5)) 0) &&
    reads [0x440003D8F0002200, 4] (.vidx H (some 3) (.u (.k .zero)) (.u (.lit 4)) 1 false) = true := by decide
theorem test_decode_float :
    reads [0x53000708090A4C40] (.vfma H (some 7) (V 8) (V 9) (V 10) 2 .rz) && reads [0x5600050101000C06] (.vfcmp H 5 (V 1) (V 1) 0 .un) &&
    reads [0x5700020100000C00] (.vfclass H (some 2) (V 1) 0) && reads [0x5900060100000446] (.vfcvt H (some 6) (V 1) 0 (.fromF .i64) .rz) &&
    reads [0x5900030400000C03] (.vfcvt H (some 3) (V 4) 0 (.toF .n64) .rn) && reads [0x6200030100002C00] (.vsqrt H (some 3) (V 1) 1) &&
    reads [0x5941000400000C00] (.vfcvt ⟨false, 1⟩ none (V 4) 0 (.toF .i32) .rn) && reads [0x6600120500000C00] (.vcospi H (some 18) (V 5) 0) = true := by decide
theorem test_decode_cross_lane :
    reads [0x70000504F0000201, 1] (.vshfl H (some 5) (V 4) (.u (.lit 1)) 0 .n32 .xor) && reads [0x7100020183000200] (.vbcast H (some 2) (V 1) (S 3) 0 .n32) &&
    reads [0x7200830400000602] (.vred H (some (.s 3)) (V 4) 0 .n64 .max) && reads [0x7300880600000C00] (.vredf H (some (.s 8)) (V 6) 0 .add) &&
    reads [0x7400090100000020] (.vscan H (some 9) (V 1) 0 .i32 .add true) && reads [0x7500020100002200] (.vcomp H (some 2) (V 1) 1 .n32) &&
    reads [0x76000A0200002200] (.vexpd H (some 10) (V 2) 1 .n32) = true := by decide
theorem test_decode_memory :
    reads [0x8018060200080D50] (.vld H 3 6 (V 2) 8 0 .bf16 (some .dev) false) && reads [0x8300068402002A04] (.vstIndexed H (V 6) (.u (S 4)) (V 2) 0 1 .f16 .sr none false) &&
    reads [0x8501018102100E00] (.vstAmaxIndexed ⟨false, 1⟩ (V 1) (.u (S 1)) (V 2) 16 0 .f8e4 RN none false) &&
    reads [0x8610090100400400] (.vlds H 2 9 (V 1) 0x40 0 .n32 none) && reads [0x87000D2440000400] (.vsts H (V 13) (V 36) 0x4000 0 .n32 RN none) &&
    reads [0x8900048000080600] (.vstp H (V 4) (.u (S 0)) 8 0 .n64 RN false) && reads [0x8A10888100000600] (.sld H 2 8 (S 1) 0 .n64 none false) &&
    reads [0x8B008889000007A0] (.sst H (S 8) (S 9) 0 .n64 (some .sys) false) && reads [0x8C08018100000400] (.vldb H 1 1 (S 1) 0 0 .n32 none false) &&
    reads [0x8D00000200000408] (.pref H (V 2) 0 0 true) && reads [0x8E00000000000541] (.cwb H none .dev) && reads [0x8F00008300000580] (.cinv H (some ⟨S 3, 0⟩) .sys) &&
    reads [0x9000008800000540] (.icinv H (some ⟨S 8, 0⟩) true) = true := by decide
theorem test_decode_sync :
    reads [0xA00400120600A605] (.atom ⟨false, 4⟩ none (V 18) (V 6) 5 .n64 .min .plain) && reads [0xA300000000000160] (.fence H .rel .dev false) &&
    reads [0xA3000000000000B1] (.fence H .ar .tm true) && reads [0xA400828900000140] (.bara H (some (.s 2)) (S 9) .dev false) &&
    reads [0xA500008982000140] (.barw H (S 9) (S 2) .dev false) && reads [0xA600008500000081] (.bar H (S 5) .tm true) = true := by decide
theorem test_decode_queue :
    reads [0xB700008485860000] (.qinit H (S 4) (S 5) (S 6)) && reads [0xB800000700000000] (.taskwait H 7) && reads [0xB900000700000000] (.taskdone H 7) = true := by
  decide
theorem test_decode_engines :
    reads [0xC000008A00000001] (.cpy H 10 .t2) && reads [0xC000009400000000] (.cpy H 20 .lin) && reads [0xC100880000000001] (.bclose H (some (.s 8)) .matrix) &&
    reads [0xC200008800000001] (.bwait H (S 8) .matrix) && reads [0xC300888902034001] (.egath H (S 8) (S 9) (V 2) (V 3) 2 1) &&
    reads [0xC4008A8902000000] (.escat H (S 10) (S 9) (V 2) 0) && reads [0xC50000898C000000] (.eswap H (S 9) (S 12)) = true := by decide
theorem test_decode_matrix :
    reads [0xD000028A8B001001] (.mma H 2 (S 10) (S 11) .bf16 true) && reads [0xD100028A8C001800] (.mscale H 2 (S 10) (S 12)) &&
    reads [0xD200030000000000] (.mzero H 3) && reads [0xD31008028D000000] (.mlda H 2 8 2 (S 13) 0) && reads [0xD40000028E8F0C04] (.msta H 2 (S 14) (S 15) .bf16 .sr false) &&
    reads [0xD600009000000000] (.msave H (S 16)) && reads [0xD500009000000000] (.mresume H (S 16)) = true := by decide
theorem test_decode_regions : reads [0xE000000000004000] (.txbeg H 2 false) = true := by decide

/-- Words that R66, R70 and R71 call illegal, at the edges of the reserved opcodes; the field errors of R71. -/
theorem test_decode_reserved : [0x00, 0x0F, 0x27, 0x2F, 0x46, 0x4F, 0x5A, 0x5F, 0x68, 0x6F, 0x77, 0x7F, 0x91, 0x9F, 0xA7, 0xAF, 0xBA, 0xBF, 0xC6, 0xCF, 0xD7, 0xDF, 0xE6, 0xFF].all
    (fun o => match decodeWords [BitVec.ofNat 64 (o * 2 ^ 56)] with
      | .error .ill => true
      | _ => false) = true := by decide

-- a device with one group about to execute

/-- A leaf entry for a 64 KiB page of the vault of sector 0, HW-coherent, readable, writable and executable. -/
def vaultLeaf (k : Nat) : W64 := BitVec.ofNat 64 (0x10000000020F + k * 2 ^ 20)

/-- Page tables at 0x10000 in host memory: six such pages from 0x10000 on. -/
def tables : Mem :=
  Mem.writeList (Mem.writeList (Mem.writeList [] 0x10000 (natLe 8 0x200001)) 0x20000 (natLe 8 0x300001)) 0x30008
    ((List.range 6).flatMap fun k => natLe 8 (vaultLeaf k).toNat)

/-- A device whose group 1 executes `i`: a handler at the window's start, 4096 private bytes per lane, two vault pages at 0x10000. -/
def device (i : Instr) : State :=
  let s := placeWords State.reset ((encode i).getD [])
  { s with
    cur := some 1, nextId := 100
    host := { s.host with bytes := tables }
    parts := s.parts.map fun p => { p with ptroot := 0x10001 }
    launches := s.launches.map fun l => { l with
      handler := some codeWindow, priv := 4096
      caps := [(0xE07FFEFF00001000, 0), (0xE000000000010000, 0)] } }

/-- A partition without sectors. -/
def noPart : Part := Part.create 0 [] [] (List.replicate 64 0)

/-- Its group. -/
def grp (s : State) : Group := (s.groups.head?).getD (startGroup (wordLaunch noPart) (startTeam (wordLaunch noPart) 1 0 0 0 0 []) 1 0 0 0 0 0)
def part (s : State) : Part := (s.part? 0).getD noPart
def team (s : State) : Team := (s.team? 1).getD (startTeam (wordLaunch noPart) 1 0 0 0 0 [])
def launch (s : State) : Launch := (s.launch? 1).getD (wordLaunch noPart)

/-- The device with its group changed. -/
def withG (f : Group → Group) (s : State) : State := s.setGroup (f (grp s))
def withR (f : Regs → Regs) : State → State := withG fun g => { g with regs := f g.regs }
/-- Scalar register `n` holds `x`. -/
def sreg (n : BitVec 6) (x : W64) : State → State := withR fun r => r.setS n x false
/-- Lane L of vector register `n` holds `f L`. -/
def vreg (n : VReg) (f : Lane → W32) : State → State := withR fun r => { r with v := r.v.setIfInBounds n.toNat (Vector.ofFn f) }
def mreg (n : BitVec 3) (x : LMask) : State → State := withR fun r => r.setM n x
/-- The group executes in an OPEN attempt with all lanes live. -/
def inOpen : State → State := withG fun g => { g with region := { Region.reset with state := .open, rlanes := g.regs.exm, alive := g.regs.exm, rfmask := g.regs.exm } }

/-- What group 1 is after `i`. -/
def after (i : Instr) (s : State) : Option Group :=
  match exec i s with
  | .next t => t.group? 1
  | _ => none

-- single steps, with values the spec gives

/-- R174. -/
theorem test_sadd_wraps : (after (.sadd H (some (.s 3)) (S 1) (S 2) .i64 false) (sreg 1 0xFFFFFFFFFFFFFFFF (sreg 2 1 (device (.sadd H (some (.s 3)) (S 1) (S 2) .i64 false))))).map
    (fun g => (g.regs.getS 3, g.pc - BitVec.ofNat 64 codeWindow, g.win.length)) = some (0, 8, 1) := by decide
theorem test_sadd_saturates : (after (.sadd H (some (.s 3)) (S 1) (S 2) .n64 true)
    (sreg 1 0xFFFFFFFFFFFFFFFF (sreg 2 2 (device (.sadd H (some (.s 3)) (S 1) (S 2) .n64 true))))).map (fun g => g.regs.getS 3) = some 0xFFFFFFFFFFFFFFFF := by decide
/-- R176's example: SMULH.N64 s4, s1, s1. -/
theorem test_smulh : (after (.smulh H (some (.s 4)) (S 1) (S 1) .n64) (sreg 1 0xFFFFFFFFFFFFFFFF (device (.smulh H (some (.s 4)) (S 1) (S 1) .n64)))).map
    (fun g => g.regs.getS 4) = some 0xFFFFFFFFFFFFFFFE := by decide
/-- R179's example: the SLI value is sign-extended; SLIH keeps its low half. -/
theorem test_sli : (after (.sli H none 0x89ABCDEF) (device (.sli H none 0x89ABCDEF))).map (fun g => g.win) = some [.scalar 0xFFFFFFFF89ABCDEF false] := by decide
theorem test_slih : (after (.slih H (some (.s 9)) (.win 0) 0x01234567)
    (withG (fun g => { g with win := [.scalar 0xFFFFFFFF89ABCDEF false], runPos := 1 }) (device (.slih H (some (.s 9)) (.win 0) 0x01234567)))).map
    (fun g => g.regs.getS 9) = some 0x0123456789ABCDEF := by decide
/-- R33: s0 discards what is written. -/
theorem test_s0_reads_zero : (after (.sli H (some (.s 0)) 5) (device (.sli H (some (.s 0)) 5))).map (fun g => g.regs.getS 0) = some 0 := by decide
/-- R207: VADD.SAT.I32 of the largest number and 1, in the active lanes only. -/
theorem test_vadd_saturates : (after (.vadd H (some 3) (V 1) (V 2) 1 .i32 true)
    (mreg 1 0b10 (vreg 1 (fun _ => 0x7FFFFFFF) (vreg 2 (fun _ => 1) (device (.vadd H (some 3) (V 1) (V 2) 1 .i32 true)))))).map
    (fun g => (g.regs.getV 3 0, g.regs.getV 3 1)) = some (0, 0x7FFFFFFF) := by decide +kernel
/-- R230's example: lanes 0, 2 and 3 hold 5, 7 and 1 and get 0, 5 and 12. -/
theorem test_vscan : (after (.vscan H (some 9) (V 1) 1 .i32 .add true)
    (mreg 1 0b1101 (vreg 1 (fun l => if l = 0 then 5 else if l = 2 then 7 else 1) (device (.vscan H (some 9) (V 1) 1 .i32 .add true))))).map
    (fun g => (g.regs.getV 9 0, g.regs.getV 9 2, g.regs.getV 9 3)) = some (0, 5, 12) := by decide +kernel
/-- R78, R88: 1 + 2^-24 is halfway between two data, and rounds to the even one. -/
theorem test_fadd_ties_even : (fAdd .rn 0x3F800000 0x33800000).1 = 0x3F800000 ∧ (fAdd .rn 0x3F800001 0x33800000).1 = 0x3F800002 := by decide +kernel
/-- R420 and R419: TRAP saves the address after it; RTE goes back there. -/
theorem test_trap : (after (.trap HE 0x2A) (device (.trap HE 0x2A))).map
    (fun g => (g.trap.xpc - BitVec.ofNat 64 codeWindow, g.trap.tcode, g.sr.cause, g.trap.inh, g.pc - BitVec.ofNat 64 codeWindow)) = some (8, 0x2A, 0x1000, true, 0) := by decide +kernel
theorem test_rte : (after (.rte HE) (withG (fun g => { g with trap := { g.trap with inh := true, xpc := 0x48, xexm := 5 } }) (device (.rte HE)))).map
    (fun g => (g.pc, g.regs.exm, g.trap.inh)) = some (0x48, 5, false) := by decide +kernel

-- states and operands that meet the hypotheses of the statements

theorem hyp_DecodeOfEncode : Instr.wf (.vadd H (some 126) (V 0) (V 2) 7 .n64 true) = true ∧
    (encode (.vadd H (some 126) (V 0) (V 2) 7 .n64 true)).isSome = true := by decide
theorem hyp_EncodeOfDecode : decodeWords [0x10008A8AF0000400, 0x100] = .ok (.sadd H (some (.s 10)) (S 10) (.lit 0x100) .i64 false, 2) := by rfl
abbrev nop : Instr := .nop H
/-- The oldest entry of its group's reorder buffer. -/
def headOf (s : State) : RobEnt := ((grp s).rob.head?).getD ⟨[], none, false, 0, 0, false, none, []⟩
theorem hyp_StepRunsDecoded : RunsNext (device nop) (grp (tick (device nop))) (headOf (device nop)) ∧ decodeWords (headOf (device nop)).words = .ok (nop, 1) := by
  refine ⟨⟨by rfl, by rfl, by rfl, by rfl, by rfl, by rfl⟩, by rfl⟩
/-- A fetched run of which nothing has been delivered. -/
def fetchedRun : State := withG (fun g => { g with rob := [], buf := [0x0000000000000000, 0x0080000000000000], bufRun := 0 }) (device nop)
theorem hyp_StepDelivers : (tick fetchedRun).agenda = [] ∧
    (acts (tick fetchedRun))[((tick fetchedRun).choose (acts (tick fetchedRun)).length).1]? = some (.deliver 1) ∧
    ((tick fetchedRun).group? 1).isSome = true ∧ (grp (tick fetchedRun)).buf = [0x0000000000000000, 0x0080000000000000] ∧ hasLiteral 0x0000000000000000 = false := by
  refine ⟨by rfl, by rfl, by rfl, by rfl, by decide⟩
theorem hyp_StepRunsAgenda : ({ State.reset with agenda := [some .tierReached] } : State).agenda = [some .tierReached] ∧ Instr.isEvent .tierReached = true := by
  decide

-- stops

/-- Words that no instruction has. -/
def junk (ws : List W64) : State := { placeWords State.reset ws with cur := some 1 }
theorem hyp_UndecodableWordStops : RunsNext (junk [0]) (grp (tick (junk [0]))) (headOf (junk [0])) ∧ (headOf (junk [0])).words.head? = some 0 ∧
    decodeWords (headOf (junk [0])).words = .error .ill ∧ (grp (tick (junk [0]))).region.state ≠ .open := by
  refine ⟨⟨by rfl, by rfl, by rfl, by rfl, by rfl, by rfl⟩, by rfl, by rfl, by decide⟩

/-- The hypotheses that clauses of IssueLimitsStop share. -/
def limits (i : Instr) (s : State) : Bool :=
  !Instr.isEvent i && s.curGroup.isSome && (s.launch? 1).isSome && (s.team? 1).isSome && decide ((grp s).region.state ≠ .open)
theorem hyp_IssueLimitsStop_ill :
    (let i := Instr.grow H 47; limits i (device i) && !i.wf) = true ∧
    (let i := Instr.txbeg H 0 false; let s := withG (fun g => { g with runPos := 1 }) (device i); limits i s && iBegins i && (grp s).runPos != 0) = true ∧
    (let s := withG (fun g => { g with runPos := 23 }) (device nop); limits nop s && (grp s).runPos == 23 && !iE nop) = true ∧
    (let i := Instr.mzero H 0; let s := device i
     let s := { s with launches := s.launches.map fun l => { l with startTier := 1 } }
     limits i s && iEngine i && decide ((launch s).startTier ≤ 1)) = true := by decide
theorem hyp_IssueLimitsStop_illop :
    (let i := Instr.vmov H (some 127) (V 0) 0 .n32; let s := withG (fun g => { g with sr := { g.sr with budget := 112 } }) (device i)
     limits i s && i.wf && (iVds i).any fun r => decide ((grp s).sr.budget ≤ r.toNat)) = true ∧
    (let i := Instr.smov H none (.win 0) .i64; limits i (device i) && i.wf && (iWins i).any fun r => !winOk (grp (device i)).win r) = true ∧
    (let i := Instr.mzero H 4; limits i (device i) && i.wf && (iTiles i).any fun n => decide ((team (device i)).ntiles ≤ n)) = true ∧
    (let s := withG (fun g => { g with runPos := 23 }) (device (.br HE 0)); limits (.br HE 0) s && (grp s).runPos == 23 && iE (.br HE 0)) = true := by decide +kernel

/-- A load of one register whose delivery has landed nowhere yet. -/
def pendingTag (await : Nat) : TagSt := ⟨[5], none, 1, await, [], [], false, false⟩
def tagged (n await : Nat) : State → State := withG fun g => { g with tags := g.tags.setIfInBounds n (some (pendingTag await)) }
theorem hyp_ConsumedTagWaits : (let i := Instr.nop ⟨false, 7⟩; let s := tagged 7 1 (device i)
    !Instr.isEvent i && s.curGroup.isSome && decide (issueStop s (grp s) i = none) && decide ((grp s).region.state ≠ .open) && iTC i != 0 &&
    decide ((grp s).tags[7]?.join = some (pendingTag 1)) && (pendingTag 1).await != 0) = true := by decide +kernel

theorem hyp_StopEntersHandler : ((device nop).launch? (grp (device nop)).lid).isSome = true ∧ (launch (device nop)).handler = some codeWindow ∧
    (grp (device nop)).trap.inh = false := by decide
theorem hyp_StopKillsTeam : ((junk []).group? (grp (junk [])).gid).isSome = true ∧ ((junk []).team? (grp (junk [])).tid).isSome = true ∧
    handlerOf (junk []) (grp (junk [])) = none := by decide
theorem hyp_StopKillsTeam_inHandler : (let s := withG (fun g => { g with trap := { g.trap with inh := true } }) (device nop)
    (s.group? 1).isSome && (s.team? (grp s).tid).isSome && (grp s).trap.inh) = true := by decide
theorem hyp_TrapEntersHandler : Issued (.trap HE 0xFFFF) (device (.trap HE 0xFFFF)) (grp (device (.trap HE 0xFFFF))) ∧
    (grp (device (.trap HE 0xFFFF))).region.state ≠ .open ∧ (launch (device (.trap HE 0xFFFF))).handler = some codeWindow ∧
    (grp (device (.trap HE 0xFFFF))).trap.inh = false := by
  refine ⟨by rfl, by decide, by rfl, by rfl⟩
def inHandler : State := withG (fun g => { g with trap := { g.trap with inh := true } }) (device (.rte HE))
theorem hyp_HandlerReturns_words : (0x0D80000000000000#64).extractLsb' 56 8 = 0x0D ∧ (0x0DFFFFFFFFFFFFFF#64).extractLsb' 56 8 = 0x0D := by decide
theorem hyp_BitOperations_words : (0x1F00000000000005#64).extractLsb' 56 8 = 0x1F ∧ 5 ≤ ((0x1F00000000000005#64).extractLsb' 0 6).toNat ∧
    ((0x1F00000001000003#64).extractLsb' 0 6).toNat < 4 ∧ (0x1F00000001000003#64).extractLsb' 16 16 ≠ 0 := by decide
theorem hyp_HandlerReturns : (Issued (.rte HE) inHandler (grp inHandler) ∧ (grp inHandler).trap.inh = true) ∧
    Issued (.rte HE) (device (.rte HE)) (grp (device (.rte HE))) ∧ (grp (device (.rte HE))).region.state ≠ .open ∧
    (grp (device (.rte HE))).trap.inh = false := by
  refine ⟨⟨by rfl, by rfl⟩, by rfl, by decide, by rfl⟩

-- registers, masks, control

/-- It issues. -/
abbrev runs (i : Instr) (s : State) : Prop := Issued i s (grp s)

abbrev add1 : Instr := .sadd H (some (.s 3)) (S 1) (S 2) .n64 true
theorem hyp_ScalarResults : runs add1 (device add1) ∧ poisonU (srcOf (device add1) (grp (device add1))) (iUs add1) = false ∧
    (scalarRule (fun u => (rdU (srcOf (device add1) (grp (device add1))) u).1) (rdM (grp (device add1)).regs) add1).isSome = true := by
  refine ⟨by rfl, by decide +kernel, by decide +kernel⟩
theorem hyp_ReadSpecialRegister : (runs (.rdsr H none .xctx) (device (.rdsr H none .xctx)) ∧ SReg.perLane .xctx = false) ∧
    runs (.rdsr H (some (.v 127)) .srseed) (device (.rdsr H (some (.v 127)) .srseed)) ∧ SReg.perLane .srseed = true := by
  refine ⟨⟨by rfl, by rfl⟩, by rfl, by rfl⟩
theorem hyp_WriteSpecialRegister :
    (let i := Instr.wrsr H .xctx (.u (S 63)); runs i (device i) ∧ poisonU (srcOf (device i) (grp (device i))) [S 63] = false) ∧
    (let i := Instr.wrsr H .srseed .lane; runs i (device i) ∧ poisonLanes (srcOf (device i) (grp (device i))) [(false, .lane)] (grp (device i)).regs.exm = 0) := by
  refine ⟨⟨by rfl, by decide +kernel⟩, by rfl, by decide +kernel⟩
theorem hyp_ClrcTwaitNop : runs (.clrc H 0xFFFF) (device (.clrc H 0xFFFF)) ∧ runs nop (device nop) ∧
    (let i := Instr.twait H 0x40; runs i (tagged 7 0 (device i)) ∧ ((grp (tagged 7 0 (device i))).tags[7]?.join.map (·.await)) = some 0) ∧
    (let i := Instr.twait H 0x40; runs i (tagged 7 1 (device i)) ∧ ((grp (tagged 7 1 (device i))).tags[7]?.join.map (·.await)) = some 1) := by
  refine ⟨by rfl, by rfl, ⟨by rfl, by decide⟩, by rfl, by decide⟩
/-- GROW above the ceiling, at the budget, below it, and above it with no register free. -/
theorem hyp_GrowSetsBudget :
    (let i := Instr.grow H 128; let s := device i; let s := { s with launches := s.launches.map fun l => { l with growCeil := 112 } }
     runs i s ∧ (launch s).growCeil < 128 ∧ (grp s).region.state ≠ .open) ∧
    (let i := Instr.grow H 128; let s := withG (fun g => { g with sr := { g.sr with budget := 112 } }) (device i)
     runs i s ∧ 128 ≤ (launch s).growCeil ∧ (grp s).sr.budget < 128 ∧ 128 - (grp s).sr.budget ≤ freeRegs s (grp s).core (grp s).sub) ∧
    (let i := Instr.grow H 48; runs i (device i) ∧ 48 < (grp (device i)).sr.budget ∧ tagTop (grp (device i)) ≤ 48) ∧
    (let i := Instr.grow H 128; let s := withG (fun g => { g with sr := { g.sr with budget := 48 } }) (device i)
     let s := { s with groups := s.groups ++ (List.range 4).map fun k => { grp s with gid := 10 + k, slot := 1 + k, sr := { (grp s).sr with budget := 112 } } }
     runs i s ∧ 128 ≤ (launch s).growCeil ∧ (grp s).sr.budget < 128 ∧ freeRegs s (grp s).core (grp s).sub < 128 - (grp s).sr.budget) := by
  refine ⟨⟨by rfl, by decide, by decide⟩, ⟨by rfl, by decide, by decide, by decide⟩, ⟨by rfl, by decide, by decide⟩, by rfl, by decide, by decide, by decide⟩
theorem hyp_UniformBranches :
    runs (.br HE (-1)) (device (.br HE (-1))) ∧ runs (.call HE (.c 15) 1) (device (.call HE (.c 15) 1)) ∧
    (let i := Instr.brc HE (S 1) .ltz 0; runs i (device i) ∧ poisonU (srcOf (device i) (grp (device i))) [S 1] = false) ∧
    (let i := Instr.ret HE (S 1); runs i (sreg 1 8 (device i)) ∧ (rdU (srcOf (sreg 1 8 (device i)) (grp (sreg 1 8 (device i)))) (S 1)).1.toNat % 8 = 0) ∧
    (let i := Instr.jmpr HE (S 1); runs i (sreg 1 4 (device i)) ∧ (rdU (srcOf (sreg 1 4 (device i)) (grp (sreg 1 4 (device i)))) (S 1)).1.toNat % 8 ≠ 0 ∧
      (grp (sreg 1 4 (device i))).region.state ≠ .open) := by
  refine ⟨by rfl, by rfl, ⟨by rfl, by decide +kernel⟩, ⟨by rfl, by decide +kernel⟩, by rfl, by decide +kernel, by decide +kernel⟩
theorem hyp_YieldWaits : runs (.yield HE) (device (.yield HE)) := by rfl

/-- A group with `n` waymarks, the innermost `w`, the others loops. -/
def marked (n : Nat) (w : Waymark) : State → State := withG fun g => { g with wmHw := (w :: List.replicate (n - 1) ⟨true, false, 0, 0, 3⟩).take n, wmDepth := n }
abbrev branchMark : Waymark := ⟨false, false, 0x100, 2, 3⟩
/-- A push onto an empty stack, and one that spills: the slots lie in the private area at the vault page. -/
def withPriv : State → State := withG fun g => { g with sr := { g.sr with privbase := 0x20000 } }
theorem hyp_WaymarkPushes :
    (let i := Instr.brd HE 1 true 4; let s := withPriv (device i); runs i s ∧ CanPush s (grp s)) ∧
    (let i := Instr.loop HE 4; let s := withPriv (marked 16 branchMark (device i)); runs i s ∧ CanPush s (grp s) ∧ (spillOf s (grp s)).length = 1) := by
  refine ⟨⟨by rfl, by decide +kernel, by rfl, fun _ => by rfl⟩, by rfl, ⟨by decide +kernel, by rfl, fun _ => by rfl⟩, by decide +kernel⟩
theorem hyp_JoinWaymark :
    (let s := device (.join HE); runs (.join HE) s ∧ (grp s).wmDepth = 0 ∧ (grp s).region.state ≠ .open) ∧
    (let s := marked 1 branchMark (device (.join HE)); runs (.join HE) s ∧ (grp s).wmHw = [branchMark] ∧ 0 < (grp s).wmDepth ∧ branchMark.loop = false ∧
      branchMark.phase = false ∧ branchMark.pmask ≠ 0 ∧ (grp s).region.state ≠ .open) ∧
    (let w : Waymark := ⟨false, true, 0x100, 2, 3⟩; let s := marked 1 w (device (.join HE)); runs (.join HE) s ∧ (grp s).wmHw = [w] ∧ w.phase = true ∧ (grp s).wmDepth = 1) := by
  refine ⟨⟨by rfl, by rfl, by decide⟩, ⟨by rfl, by rfl, by decide, by rfl, by rfl, by decide, by decide⟩, by rfl, by rfl, by rfl, by rfl⟩
theorem hyp_BreakLoop : let i := Instr.brk HE 0 true 2; let s := marked 2 branchMark (device i)
    runs i s ∧ (grp s).wmHw[1]? = some ⟨true, false, 0, 0, 3⟩ ∧ (∀ j x, j < 1 → (grp s).wmHw[j]? = some x → x.loop = false) ∧ (grp s).region.state ≠ .open := by
  refine ⟨by rfl, by rfl, fun j x hj h => ?_, by decide⟩
  obtain rfl : j = 0 := by omega
  cases h; rfl
theorem hyp_ExitLanes :
    (let s := withG (fun g => { g with regs := { g.regs with exm := 1 } }) (marked 1 branchMark (device (.exit HE)))
     runs (.exit HE) s ∧ (grp s).wmDepth = (grp s).wmHw.length ∧ ∃ w ∈ (grp s).wmHw, w.pmask &&& ~~~(grp s).regs.exm ≠ 0) ∧
    (let s := device (.exit HE); runs (.exit HE) s ∧ (grp s).wmDepth = (grp s).wmHw.length ∧ (grp s).wmHw = []) := by
  refine ⟨⟨by rfl, by rfl, by decide⟩, by rfl, by rfl, by rfl⟩

abbrev vadd1 : Instr := .vadd H (some 126) (V 0) (V 124) 7 .i64 true
theorem hyp_VectorIntegerResults : let s := device vadd1; runs vadd1 s ∧ poisonLanes (srcOf s (grp s)) (iOs vadd1) (active (grp s).regs 7) = 0 ∧
    (vectorRule (fun w o l => (rdW w (srcOf s (grp s)) o l).1) (active (grp s).regs) (fun k => (grp s).regs.m[k.toNat]) vadd1).isSome = true := by
  refine ⟨by rfl, by decide +kernel, by decide +kernel⟩
theorem hyp_VectorDestinations : (126#7 : VReg).getLsbD 0 = false := by decide
theorem hyp_BitOperations :
    (let i := Instr.sbit H none (S 1) (.bfx (S 2) (S 3)) .i64; runs i (device i) ∧ poisonU (srcOf (device i) (grp (device i))) (iUs i) = false) ∧
    (let i := Instr.vbit H none (V 0) .clz 0 .n32; runs i (device i) ∧
      poisonLanes (srcOf (device i) (grp (device i))) (iOs i) (active (grp (device i)).regs 0) = 0) := by
  refine ⟨⟨by rfl, by decide +kernel⟩, by rfl, by decide +kernel⟩
theorem hyp_MaskInstructions :
    runs (.mmov H .exm (.m 7)) (device (.mmov H .exm (.m 7))) ∧ runs (.mlog H (.m 7) .exm (.m 0) 15) (device (.mlog H (.m 7) .exm (.m 0) 15)) ∧
    (let i := Instr.mwr H (.m 0) (S 1); runs i (device i) ∧ poisonU (srcOf (device i) (grp (device i))) [S 1] = false) ∧
    (let i := Instr.vcmp H 7 (V 0) (V 2) 0 .n64 .ge; runs i (device i) ∧ poisonLanes (srcOf (device i) (grp (device i))) [(true, V 0), (true, V 2)] (active (grp (device i)).regs 0) = 0) ∧
    (let i := Instr.vfcmp H 0 (V 0) (V 2) 0 .or; runs i (device i) ∧ poisonLanes (srcOf (device i) (grp (device i))) [(false, V 0), (false, V 2)] (active (grp (device i)).regs 0) = 0) ∧
    (let i := Instr.vaddc H none (V 0) (V 2) 0 .i32 7; runs i (device i) ∧ poisonLanes (srcOf (device i) (grp (device i))) [(false, V 0), (false, V 2)] (active (grp (device i)).regs 0) = 0) := by
  refine ⟨by rfl, by rfl, ⟨by rfl, by decide +kernel⟩, ⟨by rfl, by decide +kernel⟩, ⟨by rfl, by decide +kernel⟩, by rfl, by decide +kernel⟩
abbrev fma1 : Instr := .vfma H (some 1) (V 0) (V 1) (V 2) 0 .rd
theorem hyp_FloatResults : let s := device fma1; runs fma1 s ∧ poisonLanes (srcOf s (grp s)) (iOs fma1) (active (grp s).regs 0) = 0 ∧
    (floatRule (fun w o l => (rdW w (srcOf s (grp s)) o l).1) fma1).isSome = true := by
  refine ⟨by rfl, by decide +kernel, by decide +kernel⟩
/-- The largest finite datum, the smallest, and -0. -/
theorem hyp_ArithmeticRoundsOnce : f32 0x7F7FFFFF = .fin false ((2 ^ 24 - 1) * 2 ^ 253) ∧ f32 1 = .fin false 1 ∧ f32 0x80000000 = .fin true 0 := by decide
/-- A NaN, infinities, a finite datum below 0, the edges of the saturations. -/
theorem hyp_FloatFixed : (f32 0x7FC00000).isNan = true ∧ (f32 0x3F800000).isNan = false ∧ f32 0xFF800000 = .inf true ∧ f32 0x7F800000 = .inf false ∧
    (f32 0x80000001).isNeg = true ∧ f32 0x00200000 = .fin false (2 ^ 21) ∧ f32 0x43000000 = .fin false (128 * 2 ^ 149) ∧ f32 0xC3170000 = .fin true (151 * 2 ^ 149) ∧
    f32 0x41200000 = .fin false (10 * 2 ^ 149) := by decide
abbrev shfl1 : Instr := .vshfl H (some 126) (V 0) (V 1) 0 .n64 .down
theorem hyp_CrossLaneMoves : let s := device shfl1; runs shfl1 s ∧
    ∃ d w wr f bad, crossRule (srcOf s (grp s)) (active (grp s).regs) shfl1 = some (d, w, wr, f, bad) ∧ ∀ l, wr l = true → bad l = false := by
  refine ⟨by rfl, _, _, _, _, _, rfl, fun l _ => ?_⟩
  revert l; decide +kernel
theorem hyp_Reductions :
    (let i := Instr.vred H none (V 126) 7 .i64 .min; runs i (device i) ∧ poisonLanes (srcOf (device i) (grp (device i))) [(true, V 126)] (active (grp (device i)).regs 7) = 0) ∧
    (let i := Instr.vredf H none (V 127) 0 .max; runs i (device i) ∧ poisonLanes (srcOf (device i) (grp (device i))) [(false, V 127)] (active (grp (device i)).regs 0) = 0) ∧
    (let i := Instr.vscan H none (V 127) 0 .f32 .add false; runs i (device i) ∧
      poisonLanes (srcOf (device i) (grp (device i))) [(false, V 127)] (active (grp (device i)).regs 0) = 0) := by
  refine ⟨⟨by rfl, by decide +kernel⟩, ⟨by rfl, by decide +kernel⟩, by rfl, by decide +kernel⟩

/-- Scalar register 1 and all of vector register 1 marked poisoned. -/
def spoiled : State → State := withR fun r => { r with sp := 2, vp := r.vp.setIfInBounds 1 0xFFFFFFFFFFFFFFFF }
theorem hyp_PoisonedUniformStops :
    (let s := spoiled (device add1); runs add1 s ∧ (grp s).region.state ≠ .open ∧ poisonU (srcOf s (grp s)) (iUs add1) = true ∧
      (scalarRule (fun u => (rdU (srcOf s (grp s)) u).1) (rdM (grp s).regs) add1).isSome = true) ∧
    (let i := Instr.jmpr HE (S 1); let s := spoiled (device i); runs i s ∧ poisonU (srcOf s (grp s)) (iUs i) = true) := by
  refine ⟨⟨by rfl, by decide, by decide +kernel, by decide +kernel⟩, by rfl, by decide +kernel⟩
theorem hyp_PoisonedElementStops : let i := Instr.vmov H (some 2) (V 1) 0 .n32; let s := spoiled (device i)
    runs i s ∧ (grp s).region.state ≠ .open ∧ poisonLanes (srcOf s (grp s)) (iOs i) (active (grp s).regs 0) ≠ 0 ∧
    (vectorRule (fun w o l => (rdW w (srcOf s (grp s)) o l).1) (active (grp s).regs) (fun k => (grp s).regs.m[k.toNat]) i).map (·.2.1) = some 0 := by
  refine ⟨by rfl, by decide, by decide +kernel, by rfl⟩
theorem hyp_AttemptBreakers : let i := Instr.trap HE 1; let s := inOpen (device i)
    Instr.isEvent i = false ∧ s.curGroup = some (grp s) ∧ issueStop s (grp s) i = none ∧ (grp s).region.state = .open ∧ iTxBreaks i = true ∧
    (grp s).region.liveLanes ≠ 0 := by
  refine ⟨by decide, by rfl, by rfl, by rfl, by decide, by decide⟩

-- memory

/-- The lanes' places all pass, and meet a condition. -/
theorem places_ok {P : Route → Nat → Bool} {ls : List Lane} {refs : Lane → List Place}
    (h : (ls.all fun l => (refs l).all fun y => match y.2.2.2 with | .ok r a => P r a | _ => false) = true) :
    ∀ l ∈ ls, ∀ y ∈ refs l, ∃ r a, y.2.2.2 = .ok r a ∧ P r a = true := by
  intro l hl y hy
  have h1 := List.all_eq_true.1 (List.all_eq_true.1 h l hl) y hy
  split at h1
  · exact ⟨_, _, ‹_›, h1⟩
  · cases h1

/-- Two lanes active, and s1 the address of the first vault page. -/
def atPage (i : Instr) : State := withR (fun r => { (r.setS 1 0x10000 false) with exm := 3 }) (device i)
/-- What a load asks of the places it reads. -/
def readable (s : State) (r : Route) (_ : Nat) : Bool := !writesBack r && !isRemote r && !scratchAway s r
/-- No copy is dirty. -/
theorem clean_ok {s : State} {g : Group} (h : ((s.core g.core).l1.all fun x => x.dirty == 0) = true)
    (h' : ((s.part? g.part).map fun p => p.hostCopies.all fun x => x.dirty == 0) = some true) : CleanCopies s g := by
  refine ⟨fun x hx => by simpa using List.all_eq_true.1 h x hx, fun p hp x hx => ?_⟩
  rw [hp] at h'
  simpa using List.all_eq_true.1 (Option.some.inj h') x hx

/-- The hypotheses of VectorLoads, for a load that has places. -/
def loadHyps (i : Instr) (s : State) : Prop :=
  ∃ s1 g1 ta d sel f gl refs, loadHead i = some (ta, d) ∧ accessRule (srcOf s (grp s)) s (grp s) i = some (sel, f, gl, refs) ∧ Issued i s (grp s) ∧
    (grp s).region.state ≠ .open ∧ poisonLanes (srcOf s (grp s)) (iOs i) (active (grp s).regs sel) = 0 ∧ poisonU (srcOf s (grp s)) (iUs i) = false ∧
    (∀ p ∈ (grp s).pages, p.2 = some .success) ∧
    (∀ l ∈ lanesOf (active (grp s).regs sel), ∀ y ∈ refs l, ∃ r a, y.2.2.2 = .ok r a ∧ readable s r a = true) ∧
    orderBefore (translated s (grp s) gl (active (grp s).regs sel) refs) (grp s) (placesOf (active (grp s).regs sel) refs) = some (s1, g1) ∧
    canRequest s1 g1 3 (farSectors (placesOf (active (grp s).regs sel) refs)) = true ∧ CleanCopies s1 g1 ∧ Quiet s (grp s)
theorem hyp_VectorLoads_global : loadHyps (.vld H 7 126 (.u (S 1)) 8 0 .n64 none false) (atPage (.vld H 7 126 (.u (S 1)) 8 0 .n64 none false)) :=
  ⟨_, _, _, _, _, _, _, _, rfl, rfl, by rfl, by decide, by decide +kernel, by decide +kernel, by decide, places_ok (by decide +kernel), rfl, by decide +kernel,
    clean_ok (by decide +kernel) (by decide +kernel), by rfl, by rfl, by decide⟩
theorem hyp_VectorLoads_block : loadHyps (.vldb H 1 2 (S 1) 0 0 .f4 none false) (atPage (.vldb H 1 2 (S 1) 0 0 .f4 none false)) :=
  ⟨_, _, _, _, _, _, _, _, rfl, rfl, by rfl, by decide, by decide +kernel, by decide +kernel, by decide, places_ok (by decide +kernel), rfl, by decide +kernel,
    clean_ok (by decide +kernel) (by decide +kernel), by rfl, by rfl, by decide⟩
theorem hyp_VectorLoads_scratch : loadHyps (.vlds H 1 2 .lane 0xFFFC 1 .n32 none) (mreg 1 0x10 (device (.vlds H 1 2 .lane 0xFFFC 1 .n32 none))) :=
  ⟨_, _, _, _, _, _, _, _, rfl, rfl, by rfl, by decide, by decide +kernel, by decide +kernel, by decide, places_ok (by decide +kernel), rfl, by decide +kernel,
    clean_ok (by decide +kernel) (by decide +kernel), by rfl, by rfl, by decide⟩
theorem hyp_VectorLoads_private : loadHyps (.vldp H 1 2 (.u (S 0)) 4088 0 .n64 false) (withPriv (atPage (.vldp H 1 2 (.u (S 0)) 4088 0 .n64 false))) :=
  ⟨_, _, _, _, _, _, _, _, rfl, rfl, by rfl, by decide, by decide +kernel, by decide +kernel, by decide, places_ok (by decide +kernel), rfl, by decide +kernel,
    clean_ok (by decide +kernel) (by decide +kernel), by rfl, by rfl, by decide⟩
theorem hyp_ScalarLoad : let i := Instr.sld H 7 63 (S 1) 0xFFFC .n16 none false; let s := sreg 1 0x10004 (device i)
    ∃ s1 g1 r pa, Issued i s (grp s) ∧ (grp s).region.state ≠ .open ∧ poisonU (srcOf s (grp s)) [S 1] = false ∧ (∀ p ∈ (grp s).pages, p.2 = some .success) ∧
      checkGlobal s (grp s) ((rdU (srcOf s (grp s)) (S 1)).1 + (0xFFFC#16).signExtend 64).toNat 2 ⟨true, false, false⟩ = .ok r pa ∧
      writesBack r = false ∧ isRemote r = false ∧ orderBefore (touchPage s (grp s).part (grp s).core 0x10000) (grp s) [(r, pa, 2)] = some (s1, g1) ∧
      ((rdU (srcOf s (grp s)) (S 1)).1 + (0xFFFC#16).signExtend 64).toNat = 0x10000 ∧ CleanCopies s1 g1 ∧ Quiet s (grp s) :=
  ⟨_, _, .glob .vault .hw .clear 0 0, 0x10000000000, by rfl, by decide, by decide +kernel, by decide, by rfl, by rfl, by rfl, rfl, by decide +kernel,
    clean_ok (by decide +kernel) (by decide +kernel), by rfl, by rfl, by decide⟩
/-- A page of another device. -/
theorem hyp_ScalarLoad_remote : isRemote (.glob .remote .hw .clear 0 3) = true ∧
    canRequest (device nop) (grp (device nop)) 3 [(.glob .remote .hw .clear 0 3, 8)] = true := by decide +kernel

/-- The hypotheses of VectorStores. -/
def storeHyps (i : Instr) (s : State) : Prop :=
  ∃ s1 g1 d rnd rel nt amax sel f gl refs, storeHead i = some (d, rnd, rel, nt, amax) ∧ accessRule (srcOf s (grp s)) s (grp s) i = some (sel, f, gl, refs) ∧
    Issued i s (grp s) ∧ (grp s).region.state ≠ .open ∧ poisonLanes (srcOf s (grp s)) (iOs i) (active (grp s).regs sel) = 0 ∧
    (∀ p ∈ (grp s).pages, p.2 = some .success) ∧ active (grp s).regs sel ≠ 0 ∧
    (∀ l ∈ lanesOf (active (grp s).regs sel), ∀ y ∈ refs l, ∃ r a, y.2.2.2 = .ok r a ∧ true = true) ∧
    orderBefore (translated s (grp s) gl (active (grp s).regs sel) refs) (grp s) [] = some (s1, g1) ∧ stbufFull s1 g1 = false ∧ Quiet s (grp s) ∧
    stbufFull s (grp s) = false
theorem hyp_VectorStores_amax :
    storeHyps (.vstAmax H (V 1) (.u (S 1)) 0 0 .f8e5 .sr none false) (atPage (.vstAmax H (V 1) (.u (S 1)) 0 0 .f8e5 .sr none false)) :=
  ⟨_, _, _, _, _, _, _, _, _, _, _, rfl, rfl, by rfl, by decide, by decide +kernel, by decide, by decide, places_ok (P := fun _ _ => true) (by decide +kernel), rfl,
    by decide +kernel, ⟨by rfl, by rfl, by decide⟩, by decide +kernel⟩
theorem hyp_VectorStores_nibbles : storeHyps (.vsts H (V 1) (.u (S 0)) 0 0 .f4 RN (some .tm)) (atPage (.vsts H (V 1) (.u (S 0)) 0 0 .f4 RN (some .tm))) :=
  ⟨_, _, _, _, _, _, _, _, _, _, _, rfl, rfl, by rfl, by decide, by decide +kernel, by decide, by decide, places_ok (P := fun _ _ => true) (by decide +kernel), rfl,
    by decide +kernel, ⟨by rfl, by rfl, by decide⟩, by decide +kernel⟩
theorem hyp_ScalarStore : let i := Instr.sst H (S 2) (S 1) 0xFFF8 .n64 (some .sys) true; let s := sreg 1 0x10008 (device i)
    ∃ s1 g1 r pa, Issued i s (grp s) ∧ (grp s).region.state ≠ .open ∧ poisonU (srcOf s (grp s)) [S 2, S 1] = false ∧ (∀ p ∈ (grp s).pages, p.2 = some .success) ∧
      checkGlobal s (grp s) ((rdU (srcOf s (grp s)) (S 1)).1 + (0xFFF8#16).signExtend 64).toNat 8 ⟨false, true, false⟩ = .ok r pa ∧
      orderBefore (touchPage s (grp s).part (grp s).core 0x10000) (grp s) [] = some (s1, g1) ∧ stbufFull s1 g1 = false ∧
      ((rdU (srcOf s (grp s)) (S 1)).1 + (0xFFF8#16).signExtend 64).toNat = 0x10000 ∧ Quiet s (grp s) ∧ stbufFull s (grp s) = false :=
  ⟨_, _, .glob .vault .hw .clear 0 0, 0x10000000000, by rfl, by decide, by decide +kernel, by decide, by rfl, rfl, by decide +kernel, by decide +kernel,
    ⟨by rfl, by rfl, by decide⟩, by decide +kernel⟩
/-- A misaligned lane, and a page that no table maps. -/
theorem hyp_FailedAccessStops : let i := Instr.vld H 1 2 (.u (S 1)) 1 0 .n32 none false; let s := atPage i
    ∃ refs, (loadHead i).isSome = true ∧ accessRule (srcOf s (grp s)) s (grp s) i = some (0, .n32, true, refs) ∧ Issued i s (grp s) ∧ (grp s).region.state ≠ .open ∧
      poisonLanes (srcOf s (grp s)) (iOs i) (active (grp s).regs 0) = 0 ∧ poisonU (srcOf s (grp s)) (iUs i) = false ∧ (grp s).pages = [] ∧ (grp s).served = false ∧
      ∃ l ∈ lanesOf (active (grp s).regs 0), ∃ y ∈ refs l, ∃ c, y.2.2.2 = .fault c := by
  refine ⟨_, by rfl, rfl, by rfl, by decide, by decide +kernel, by rfl, by rfl, by rfl, 0, by decide, _, by exact List.mem_singleton.2 rfl, .align, by rfl⟩
theorem hyp_StoreReadsBack : Store.wf ⟨[(0x10, 5)], [0], [], false⟩ = true := by decide
def scratchWr (a : Nat) : ByteWr := ⟨.scratch 1, a, 0xFF, 7⟩
/-- A store of one byte at the last address of a scratchpad. -/
def oneStore : State := withG (fun g => { g with stbuf := [.store [scratchWr 131071] [(.scratch 1, 4095)] none false] }) (device nop)
theorem hyp_StoreApplied : oneStore.group? (grp oneStore).gid = some (grp oneStore) ∧
    (grp oneStore).stbuf = [.store [scratchWr 131071] [(.scratch 1, 4095)] none false] ∧ (∀ w ∈ [scratchWr 131071], w.route = .scratch 1) ∧ writesBack (.scratch 1) = false ∧
    isRemote (.scratch 1) = false ∧ routeTier (.scratch 1) ≠ some .host ∧ scratchAway oneStore (.scratch 1) = false ∧ RouteOk oneStore (.scratch 1) ∧
    CleanCopies oneStore (grp oneStore) := by
  refine ⟨by rfl, by rfl, by decide, by rfl, by rfl, by decide, by rfl, ⟨_, rfl, by rfl⟩, clean_ok (by decide +kernel) (by decide +kernel)⟩
theorem hyp_CacheInstructions_pref :
    let i := Instr.pref H (.u (S 1)) 0 0 true; let s := withR (fun r => { r with exm := 1 }) (atPage i)
    ∃ s1 g1 r pa, runs i s ∧ orderBefore s (grp s) [] = some (s1, g1) ∧ (rd64 (srcOf s (grp s)) (.u (S 1)) 0).2 = false ∧ inL1 r = true ∧ CleanCopies s1 g1 ∧
      active (grp s).regs 0 = laneBit 0 ∧ checkLane s1 g1 0 ((rd64 (srcOf s (grp s)) (.u (S 1)) 0).1 + 0).toNat 4 ⟨true, false, false⟩ = .ok r pa :=
  ⟨_, _, .glob .vault .hw .clear 0 0, 0x10000000000, by rfl, rfl, by rfl, by rfl, clean_ok (by decide +kernel) (by decide +kernel), by decide, by rfl⟩
/-- The whole cache, and one line. -/
theorem hyp_CacheInstructions_maintenance :
    (∃ s1 g1, runs (.cwb H none .cl) (device (.cwb H none .cl)) ∧ drainAll (device (.cwb H none .cl)) (grp (device (.cwb H none .cl))) = some (s1, g1) ∧
      acqPending s1 g1 = false) ∧
    (let i := Instr.cinv H (some ⟨S 1, 0⟩) .tm; let s := atPage i
     ∃ s1 g1 r pa, runs i s ∧ poisonU (srcOf s (grp s)) [S 1] = false ∧ (∀ p ∈ (grp s).pages, p.2 = some .success) ∧
      xlat s (grp s) 0x10000 ⟨true, false, false⟩ = .ok r pa ∧ drainAll (touchPage s (grp s).part (grp s).core 0x10000) (grp s) = some (s1, g1) ∧
      acqPending s1 g1 = false ∧ Quiet s (grp s) ∧ ((rdU (srcOf s (grp s)) (S 1)).1 + (0#16).signExtend 64).toNat = 0x10000) ∧
    (let i := Instr.icinv H (some ⟨S 1, 0⟩) true; let s := atPage i
     ∃ s1 g1 r pa, runs i s ∧ orderBefore s (grp s) [] = some (s1, g1) ∧ poisonU (srcOf s (grp s)) [S 1] = false ∧ xlatCode s (grp s) 0x10000 = .ok r pa ∧
      ((s1.part? 0).map fun p => p.sectors.contains (15 / 16)) = some true) := by
  refine ⟨⟨_, _, by rfl, rfl, by decide +kernel⟩, ⟨_, _, .glob .vault .hw .clear 0 0, 0x10000000000, by rfl, by decide +kernel, by decide, by rfl, rfl, by decide +kernel,
    ⟨by rfl, by rfl, by decide⟩, by decide +kernel⟩, _, _, .glob .vault .hw .clear 0 0, 0x10000000000, by rfl, rfl, by decide +kernel, by rfl, by decide +kernel⟩

-- atomics, fences, barriers, queues

/-- Bytes in the scratchpad of the team, and in the vault at its first frame. -/
def scratchBytes (a : Nat) (bs : List Byte) (s : State) : State :=
  { s with teams := s.teams.map fun t => { t with scratch := { t.scratch with bytes := Mem.writeList t.scratch.bytes a bs } } }
def vaultBytes (a : Nat) (bs : List Byte) (s : State) : State := { s with dev := { s.dev with bytes := Mem.writeList s.dev.bytes (0x10000000000 + a) bs } }
abbrev vault : Route := .glob .vault .hw .clear 0 0
theorem vault_ok {s : State} (h : s.dev.wf = true) : RouteOk s vault := h

/-- The hypotheses of AtomicsJoinBuffer. -/
def atomHyps (i : Instr) (s : State) : Prop :=
  ∃ s1 g1 f wide ord sel a b c ret, atomHead i = some (f, wide, ord, sel, a, b, c, ret) ∧ Issued i s (grp s) ∧ (grp s).region.state ≠ .open ∧
    poisonLanes (srcOf s (grp s)) (iOs i) (active (grp s).regs sel) = 0 ∧ (∀ p ∈ (grp s).pages, p.2 = some .success) ∧ active (grp s).regs sel ≠ 0 ∧
    (∀ l ∈ lanesOf (active (grp s).regs sel), ∃ r pa, atomPlace s (grp s) wide l (rd64 (srcOf s (grp s)) a l).1 = .ok r pa ∧
      (routeTier r = some .host → f = .cas ∨ ∃ x, f = .op .add x ∨ f = .op .xchg x)) ∧
    orderBefore (touchPages s (grp s).part (grp s).core ((lanesOf (active (grp s).regs sel)).filterMap fun l =>
      let ea := (rd64 (srcOf s (grp s)) a l).1.toNat
      if ea / 2 ^ 32 = 0x007FFEFF then none else some ea)) (grp s) [] = some (s1, g1) ∧ stbufFull s1 g1 = false ∧ Quiet s (grp s) ∧ stbufFull s (grp s) = false
theorem hyp_AtomicsJoinBuffer : let i := Instr.atom H (some ⟨126, 7⟩) (.u (S 1)) (V 2) 0 .i64 .inc (.ar .sys); atomHyps i (atPage i) := by
  refine ⟨_, _, _, _, _, _, _, _, _, _, rfl, by rfl, by decide, by decide +kernel, by decide, by decide, fun l _ => ⟨vault, 0x10000000000, by revert l; decide +kernel, by decide⟩, rfl, by decide +kernel,
    ⟨by rfl, by rfl, by decide⟩, by decide +kernel⟩
theorem hyp_AtomicsJoinBuffer_cas : let i := Instr.acas H none (.u (S 1)) (V 2) (V 3) 0 .n32 .plain; atomHyps i (atPage i) := by
  refine ⟨_, _, _, _, _, _, _, _, _, _, rfl, by rfl, by decide, by decide +kernel, by decide, by decide, fun l _ => ⟨vault, 0x10000000000, by revert l; decide +kernel, by decide⟩, rfl, by decide +kernel,
    ⟨by rfl, by rfl, by decide⟩, by decide +kernel⟩
abbrev incs : List AtomLane := [⟨0, vault, 0x10000000000, 5, 0⟩, ⟨63, vault, 0x10000000000, 5, 0⟩]
def oneAtomic : State := tagged 1 1 (withG (fun g => { g with stbuf := [.atomic incs (.op .inc false) false (some ⟨5, 1⟩) .plain] }) (device nop))
theorem hyp_AtomicApplied : oneAtomic.group? (grp oneAtomic).gid = some (grp oneAtomic) ∧
    (grp oneAtomic).stbuf = [.atomic incs (.op .inc false) false (some ⟨5, 1⟩) .plain] ∧ (∀ y ∈ incs, y.route = vault) ∧
    (∀ y ∈ incs, y.b.toNat < 2 ^ 32 ∧ y.c.toNat < 2 ^ 32) ∧ (grp oneAtomic).tags[1] = some (pendingTag 1) ∧ isRemote vault = false ∧
    scratchAway oneAtomic vault = false ∧ RouteOk oneAtomic vault ∧ CleanCopies oneAtomic (grp oneAtomic) ∧
    (oneAtomic.core 0).l1 = [] ∧ releaseHeld oneAtomic (grp oneAtomic) (scopeOf .plain) = false := by
  refine ⟨by rfl, by rfl, by decide, by decide, by rfl, by rfl, by rfl, vault_ok (by decide +kernel), clean_ok (by decide +kernel) (by decide +kernel), by rfl, by decide +kernel⟩
/-- A fence with nothing before it, and one with a remote read unanswered. -/
def awaiting (s : State) : State := s.modFabric fun f => { f with reqs := [⟨0, ⟨⟨0, 0, 0⟩, ⟨1, 0, 0⟩, 3⟩, 1, 1, .n32, [], none, false, 0, none, none, 0, 0⟩] }
theorem hyp_FenceCompletes : let i := Instr.fence H .ar .sys false
    (runs i (device i) ∧ (fenceDone (device i) (grp (device i)) .ar .sys false).isSome = true) ∧
    runs i (awaiting (device i)) ∧ fenceDone (awaiting (device i)) (grp (awaiting (device i))) .ar .sys false = none := by
  refine ⟨⟨by rfl, by rfl⟩, by rfl, by rfl⟩
theorem hyp_FenceCompletes_quiet : Quiet (device (.fence H .rel .tm true)) (grp (device (.fence H .rel .tm true))) := ⟨by rfl, by rfl, by decide⟩

/-- A barrier of two at scratchpad address 0x40 with `n` arrived. -/
def barrier (n : Nat) (s : State) : State := sreg 1 0x40 (scratchBytes 0x40 (natLe 8 (2 * 2 ^ 32 + n)) s)
/-- What BarrierOperations asks of every barrier. -/
def barHyps (s : State) : Prop :=
  (∀ p ∈ (grp s).pages, p.2 = some .success) ∧ barAt s (grp s) (rdU (srcOf s (grp s)) (S 1)).1 true = .ok (.scratch 1) 0x40 ∧ isRemote (.scratch 1) = false ∧
    RouteOk s (.scratch 1) ∧ scratchAway s (.scratch 1) = false ∧
    (let v := leNat ((List.range 8).map fun k => homeRead s (.scratch 1) (0x40 + k))
     v / 2 ^ 56 % 2 ^ 7 = 0 ∧ v / 2 ^ 24 % 2 ^ 8 = 0 ∧ v % 2 ^ 24 < v / 2 ^ 32 % 2 ^ 24) ∧
    acqPending s (grp s) = false ∧ (orderBefore (barSeen s (grp s) 0x40 true) (grp s) [(.scratch 1, 0x40, 8)]).isSome = true ∧ Quiet s (grp s)
theorem hyp_BarrierOperations_bara : let i := Instr.bara H (some (.s 2)) (S 1) .tm true; let s := barrier 1 (device i)
    barHyps s ∧ runs i s ∧ poisonU (srcOf s (grp s)) [S 1] = false ∧ (performAll s (grp s) false).isSome = true := by
  refine ⟨⟨by decide, by rfl, by rfl, ⟨_, rfl, by decide +kernel⟩, by rfl, by decide +kernel, by decide +kernel, by decide +kernel, by rfl, by rfl, by decide⟩, by rfl, by rfl, by rfl⟩
/-- The last to arrive. -/
theorem hyp_BarriersRetire : let s := barrier 1 (device (.bar H (S 1) .tm true)); barHyps s ∧ (grp s).barTok = none ∧
    (let v := leNat ((List.range 8).map fun k => homeRead s (.scratch 1) (0x40 + k)); v % 2 ^ 24 + 1 = v / 2 ^ 32 % 2 ^ 24) := by
  refine ⟨⟨by decide, by rfl, by rfl, ⟨_, rfl, by decide +kernel⟩, by rfl, by decide +kernel, by decide +kernel, by decide +kernel, by rfl, by rfl, by decide⟩, by rfl, by decide +kernel⟩
theorem hyp_BarrierOperations_barw : let i := Instr.barw H (S 1) (S 2) .tm true
    (let s := sreg 2 1 (barrier 0 (device i)); barHyps s ∧ runs i s ∧ poisonU (srcOf s (grp s)) [S 1, S 2] = false ∧
      (leNat ((List.range 8).map fun k => homeRead s (.scratch 1) (0x40 + k))).testBit 63 ≠ (rdU (srcOf s (grp s)) (S 2)).1.getLsbD 0) ∧
    (let s := barrier 0 (device i); barHyps s ∧ runs i s ∧
      (leNat ((List.range 8).map fun k => homeRead s (.scratch 1) (0x40 + k))).testBit 63 = (rdU (srcOf s (grp s)) (S 2)).1.getLsbD 0) := by
  refine ⟨⟨⟨by decide, by rfl, by rfl, ⟨_, rfl, by decide +kernel⟩, by rfl, by decide +kernel, by decide +kernel, by decide +kernel, by rfl, by rfl, by decide⟩, by rfl, by rfl, by decide +kernel⟩,
    ⟨by decide, by rfl, by rfl, ⟨_, rfl, by decide +kernel⟩, by rfl, by decide +kernel, by decide +kernel, by decide +kernel, by rfl, by rfl, by decide⟩, by rfl, by decide +kernel⟩
theorem hyp_BarrierOperations_bar : let i := Instr.bar H (S 1) .tm true
    (let s := barrier 0 (device i); barHyps s ∧ runs i s ∧ (grp s).barTok = none ∧ (performAll s (grp s) false).isSome = true) ∧
    (let s := withG (fun g => { g with barTok := some true }) (barrier 0 (device i)); barHyps s ∧ runs i s ∧ (grp s).barTok = some true ∧
      (leNat ((List.range 8).map fun k => homeRead s (.scratch 1) (0x40 + k))).testBit 63 ≠ true) := by
  refine ⟨⟨⟨by decide, by rfl, by rfl, ⟨_, rfl, by decide +kernel⟩, by rfl, by decide +kernel, by decide +kernel, by decide +kernel, by rfl, by rfl, by decide⟩, by rfl, by rfl, by rfl⟩,
    ⟨by decide, by rfl, by rfl, ⟨_, rfl, by decide +kernel⟩, by rfl, by decide +kernel, by decide +kernel, by decide +kernel, by rfl, by rfl, by decide⟩, by rfl, by rfl, by decide +kernel⟩

/-- A queue of `n` 8-byte elements, or tasks, of 16 slots at scratchpad address 0x1000, which capability 0 names. -/
def qblk (n : Nat) (task : Bool) : QBlk := ⟨if task then 5 else 3, 4, 2, true, false, false, task, 0, n, 0, n, 16 - n, 0x007FFEFF00002000⟩
def queue (n : Nat) (task : Bool) (s : State) : State := withR (fun r => { r with exm := 3 }) (scratchBytes 0x1000 (qBytes (qblk n task)) s)
abbrev qat : QAt := ⟨0x007FFEFF00001000, true, .scratch 1, 0x1000, 64⟩
/-- What QueuePushes and QueuePops ask of a queue. -/
def qHyps (s : State) (b : QBlk) : Prop :=
  qBad s qat.route qat.pa = false ∧ b = qBlkOf (qRead s qat.route qat.pa) ∧ b.owner = (grp s).part % 32 ∧ (grp s).spoilt = false ∧ RouteOk s qat.route
theorem hyp_QueuePushes : let i := Instr.qpush H 4 0 0; let s := queue 14 false (device i)
    pushForm i = some (false, false, 4, 0, 0) ∧ runs i s ∧ qLanes (grp s) false 0 = [0, 1] ∧ (∀ k, withQueue 0 (fun push _ => push) 2 s (grp s) k = k s qat) ∧
    sendReady s (grp s) true = some (s, grp s) ∧ qHyps s (qblk 14 false) ∧ elemStops (grp s) (qblk 14 false) false 4 2 = none ∧ 2 ≤ (qblk 14 false).space ∧
    (qblk 14 false).resv = (qblk 14 false).tail ∧ pushHasPois (grp s) false 4 8 (listMask [0, 1]) = false ∧
    slotsFrom s (grp s) qat (qblk 14 false) needW 14 2 = .ok [(.scratch 1, 0x2070), (.scratch 1, 0x2078)] ∧
    Apart qat 8 [(.scratch 1, 0x2070), (.scratch 1, 0x2078)] := by
  refine ⟨rfl, by rfl, by decide +kernel, fun _ => by rfl, by rfl, ⟨by decide +kernel, by decide +kernel, by rfl, by rfl, _, rfl, by decide +kernel⟩, by rfl, by decide, by rfl, by decide +kernel,
    by rfl, by decide, by decide⟩
theorem hyp_QueuePushes_try : let i := Instr.qtrypush H 4 0 0; let s := queue 15 false (device i)
    pushForm i = some (false, true, 4, 0, 0) ∧ runs i s ∧ (∀ k, withQueue 0 (fun push _ => push) 0 s (grp s) k = k s qat) ∧ qHyps s (qblk 15 false) ∧
    min 2 (min qat.allow (qblk 15 false).space) = 1 ∧ slotsFrom s (grp s) qat (qblk 15 false) needW 15 1 = .ok [(.scratch 1, 0x2078)] := by
  refine ⟨rfl, by rfl, fun _ => by rfl, ⟨by decide +kernel, by decide +kernel, by rfl, by rfl, _, rfl, by decide +kernel⟩, by decide, by rfl⟩
theorem hyp_QueuePushes_parks : let i := Instr.sqpush H 4 0; let s := queue 16 false (device i)
    pushForm i = some (true, false, 4, 0, 0) ∧ runs i s ∧ (∀ k, withQueue 0 (fun push _ => push) 0 s (grp s) k = k s qat) ∧ qHyps s (qblk 16 false) ∧
    elemStops (grp s) (qblk 16 false) true 4 1 = none ∧ (qblk 16 false).space < 1 := by
  refine ⟨rfl, by rfl, fun _ => by rfl, ⟨by decide +kernel, by decide +kernel, by rfl, by rfl, _, rfl, by decide +kernel⟩, by rfl, by decide⟩
theorem hyp_QueuePops : let i := Instr.qpop H 4 0 0; let s := queue 2 false (device i)
    popForm i = some (false, false, 4, 0, 0) ∧ runs i s ∧ qLanes (grp s) false 0 = [0, 1] ∧ (∀ k, withQueue 0 (fun _ pop => pop) 0 s (grp s) k = k s qat) ∧ qHyps s (qblk 2 false) ∧
    (qblk 2 false).task = false ∧ elemStops (grp s) (qblk 2 false) false 4 2 = none ∧ 2 ≤ (qblk 2 false).count ∧ (grp s).sr.budget ≤ 128 ∧
    slotsFrom s (grp s) qat (qblk 2 false) needR 0 2 = .ok [(.scratch 1, 0x2000), (.scratch 1, 0x2008)] := by
  refine ⟨rfl, by rfl, by decide +kernel, fun _ => by rfl, ⟨by decide +kernel, by decide +kernel, by rfl, by rfl, _, rfl, by decide +kernel⟩, by rfl, by rfl, by decide, by decide, by rfl⟩
theorem hyp_QueuePops_parks : let i := Instr.sqpop H 4 0; let s := queue 0 false (device i)
    popForm i = some (true, false, 4, 0, 0) ∧ runs i s ∧ (∀ k, withQueue 0 (fun _ pop => pop) 0 s (grp s) k = k s qat) ∧ qHyps s (qblk 0 false) ∧
    elemStops (grp s) (qblk 0 false) true 4 1 = none ∧ (qblk 0 false).count < 1 := by
  refine ⟨rfl, by rfl, fun _ => by rfl, ⟨by decide +kernel, by decide +kernel, by rfl, by rfl, _, rfl, by decide +kernel⟩, by rfl, by decide⟩
theorem hyp_QueueObjects_qstat : let i := Instr.qstat H none 0; let s := queue 16 false (device i)
    runs i s ∧ (∀ k, withQueue 0 (fun push pop => push || pop) 0 s (grp s) k = k s qat) ∧ qBad s qat.route qat.pa = false ∧ (qBlkOf (qRead s qat.route qat.pa)).owner = 0 := by
  refine ⟨by rfl, fun _ => by rfl, by decide +kernel, by decide +kernel⟩
theorem hyp_QueueObjects_qinit : let i := Instr.qinit H (S 1) (S 2) (S 3)
    let b : W64 := 0x192C000000
    let s := sreg 1 0x10040 (sreg 2 b (sreg 3 0x10080 (device i)))
    runs i s ∧ poisonU (srcOf s (grp s)) [S 1, S 2, S 3] = false ∧ qinitIll s (grp s) 0x10040 b 0x10080 = false ∧
    xlat s (grp s) 0x10040 ⟨false, true, false⟩ = .ok vault 0x10000000040 ∧ (orderBefore s (grp s) [(vault, 0x10000000040, 64)]).isSome = true ∧ s.dev.wf = true ∧ Quiet s (grp s) := by
  refine ⟨by rfl, by rfl, by decide +kernel, by rfl, by rfl, by decide +kernel, by rfl, by rfl, by decide⟩
/-- A task entry, and the group it has been given to, parked at the queue. -/
def given : State :=
  let s := withG (fun g => { g with wait := .parked (.scratch 1) 0x1000 true }) (queue 0 true (device (.taskwait H 0)))
  { s with parts := s.parts.map fun p => { p with tasks := [⟨.scratch 1, 0x1000, 1, [⟨0, [1, 2, 3, 4], false, some 1⟩], []⟩] } }
theorem hyp_QueueObjects_taskwait : (runs (.taskwait H 0) given ∧ (grp given).task = none ∧ (grp given).wait = .parked (.scratch 1) 0x1000 true ∧
    (((given.part? (grp given).part).bind fun p => (p.tasks.find? fun y => samePlace y.route (.scratch 1) && y.addr == 0x1000).bind fun y =>
      y.ents.find? fun z => z.given == some (grp given).gid).map (·.num)) = some 0) ∧
    (let s := queue 0 true (device (.taskwait H 0)); runs (.taskwait H 0) s ∧ (grp s).wait = .none ∧ (∀ k, withQueue 0 (fun _ pop => pop) 0 s (grp s) k = k s qat) ∧
      qBad s qat.route qat.pa = false ∧ (qBlkOf (qRead s qat.route qat.pa)).task = true) := by
  refine ⟨⟨by rfl, by rfl, by rfl, by decide +kernel⟩, by rfl, by rfl, fun _ => by rfl, by decide +kernel, by decide +kernel⟩
theorem hyp_QueueObjects_taskdone : let i := Instr.taskdone H 0; let s := withG (fun g => { g with task := some (.scratch 1, 0x1000, 0) }) (queue 0 true (device i))
    runs i s ∧ (grp s).task = some (qat.route, qat.pa, 0) ∧ (∀ k, withQueue 0 (fun _ pop => pop) 0 s (grp s) k = k s qat) ∧ sendReady s (grp s) true = some (s, grp s) ∧
    (grp s).spoilt = false ∧ qBad s qat.route qat.pa = false ∧ (qBlkOf (qRead s qat.route qat.pa)).owner = 0 ∧ (qBlkOf (qRead s qat.route qat.pa)).task = true := by
  refine ⟨by rfl, by rfl, fun _ => by rfl, by rfl, by rfl, by decide +kernel, by decide +kernel, by decide +kernel⟩
/-- A task queue without BLOCK whose table has an entry to give. -/
def polled : State :=
  let b : QBlk := { qblk 0 true with block := false }
  let s := withR (fun r => { r with exm := 3 }) (scratchBytes 0x1000 (qBytes b) (device (.taskwait H 0)))
  { s with parts := s.parts.map fun p => { p with tasks := [⟨.scratch 1, 0x1000, 1, [⟨0, [1, 2, 3, 4], false, none⟩], []⟩] } }
theorem hyp_QueuesRetire :
    (let s := queue 14 false (device (.qpush H 4 0 0)); Quiet s (grp s) ∧ (grp s).spoilt = false ∧ (grp s).wait = .none ∧ Reaches s s (grp s) 0 (fun p _ => p) 2 qat) ∧
    (Quiet polled (grp polled) ∧ Reaches polled polled (grp polled) 0 (fun _ p => p) 0 qat ∧ runs (.taskwait H 0) polled ∧ (grp polled).task = none ∧
      qBad polled qat.route qat.pa = false ∧ ((qBlkOf (qRead polled qat.route qat.pa)).task, (qBlkOf (qRead polled qat.route qat.pa)).block,
        (qBlkOf (qRead polled qat.route qat.pa)).count) = (true, false, 0) ∧
      ((taskTab? polled (grp polled).part qat.route qat.pa).bind fun y => readyTask [] y.ents).isSome = true) := by
  refine ⟨⟨⟨by rfl, by rfl, by decide⟩, by rfl, by rfl, fun _ => by rfl⟩, ⟨by rfl, by rfl, by decide⟩, fun _ => by rfl, by rfl, by rfl, by decide +kernel, by decide +kernel,
    by decide +kernel⟩

-- engines

theorem hyp_BatchesAndCopies_streams :
    runs (.bclose H none .gather) (device (.bclose H none .gather)) ∧
    (let i := Instr.bwait H (S 1) .copy
     let ok := fun (s : State) => runs i s ∧ poisonU (srcOf s (grp s)) [S 1] = false ∧ ∀ y ∈ (grp s).copyS.ops, min (rdU (srcOf s (grp s)) (S 1)).1.toNat (grp s).copyS.closed < y.2
     (let s := sreg 1 3 (withG (fun g => { g with copyS := ⟨2, [(9, 3)], []⟩ }) (device i)); ok s) ∧
     (let s := sreg 1 2 (withG (fun g => { g with copyS := ⟨2, [], [⟨7, 2, 8, 0x100⟩]⟩ }) (device i)); ok s ∧ handlerOf s (grp s) ≠ none ∧ (grp s).trap.inh = false ∧
       (grp s).copyS.fails.filter (fun y => decide (y.batch ≤ 2)) = [⟨7, 2, 8, 0x100⟩])) := by
  refine ⟨by rfl, ⟨by rfl, by rfl, by decide +kernel⟩, ⟨by rfl, by rfl, by decide +kernel⟩, by decide, by rfl, by decide⟩
/-- A ring's block, as a test of data. -/
def ringIs (x : RingRes) (off : Nat) (b : QBlk) : Bool :=
  match x with
  | .ok o c => o == off && decide (c = b)
  | _ => false
theorem ring_is {x : RingRes} {off : Nat} {b : QBlk} (h : ringIs x off b = true) : x = .ok off b := by
  cases x <;> simp_all [ringIs]
def chkOk : MChk → Bool
  | .ok => true
  | _ => false
theorem chk_ok {x : MChk} (h : chkOk x = true) : x = .ok := by cases x <;> simp_all [chkOk]
/-- A copy of 32 bytes within the scratchpad, or into a ring. -/
def copyRegs (dst w4 : W64) : State → State :=
  withR fun r => ((((((r.setS 10 0 false).setS 11 dst false).setS 12 0x100000008 false).setS 13 0 false).setS 14 w4 false).setS 15 0 false)
abbrev cpy1 : Instr := .cpy H 10 .lin
def copyHyps (s : State) (spans : List (Option Nat × Nat × Nat)) : Prop :=
  let desc := ((List.range 6).map fun k => (10#6 : BitVec 6) + BitVec.ofNat 6 k).map (grp s).regs.getS
  let c := copyD desc
  runs cpy1 s ∧ (∀ n ∈ (List.range 6).map fun k => (10#6 : BitVec 6) + BitVec.ofNat 6 k, (grp s).regs.getSP n = false) ∧ (performAll s (grp s) true).isSome = true ∧
    copyIll .lin c desc = false ∧ copyAlign .lin c = none ∧ copySpan s (grp s) c.ssp c.src (srcRows .lin c) (srcRowBytes .lin c) c.sstride = some (some 1, 0, 7) ∧
    xTable .lin = false ∧ (s.core (grp s).core).locks.length + 0 + 2 ≤ 32 ∧
    ((∃ ds, c.dring = false ∧ copySpan s (grp s) c.dsp c.dst (dstShape .lin c).1 (dstShape .lin c).2 c.dstride = some ds ∧ spans = [ds]) ∨
      ∃ off b, c.dring = true ∧ (grp s).spoilt = false ∧ ringOf s (grp s).part (grp s).tid (c.dst.toNat % 65536) = .ok off b ∧ 0 ≤ c.dstride ∧
        ringExtent .lin c ≤ b.esz ∧ b.space ≠ 0 ∧ RouteOk s (.scratch (grp s).tid) ∧ spans = [])
theorem hyp_BatchesAndCopies_copy : copyHyps (copyRegs 0x100 (3 * 2 ^ 60) (device cpy1)) [(some 1, 0x100, 0x107)] := by
  refine ⟨by rfl, by decide +kernel, by rfl, by decide +kernel, by decide +kernel, by decide +kernel, by rfl, by decide +kernel, .inl ⟨_, by decide +kernel, by decide +kernel, rfl⟩⟩
theorem hyp_BatchesAndCopies_ring : copyHyps (copyRegs 0x40 (5 * 2 ^ 59) (queue 15 false (device cpy1))) [] := by
  refine ⟨by rfl, by decide +kernel, by rfl, by decide +kernel, by decide +kernel, by decide +kernel, by rfl, by decide +kernel, .inr ⟨0x1000, qblk 15 false, by decide +kernel, by rfl, ring_is (by decide +kernel), by decide +kernel, by decide +kernel, by decide, ⟨_, rfl, by decide +kernel⟩, rfl⟩⟩

/-- Rings for the tiles of an MMA.F4 and its scales. -/
def ringBlk (eszlog caplog n slots : Nat) : QBlk := ⟨eszlog, caplog, 2, false, false, false, false, 0, n, 0, n, 2 ^ caplog - n, 0x007FFEFF00000000 + slots⟩
def rings (s : State) : State :=
  scratchBytes 0x1000 (qBytes (ringBlk 11 0 1 0x2000)) (scratchBytes 0x1040 (qBytes (ringBlk 12 1 1 0x4000)) (scratchBytes 0x1080 (qBytes (ringBlk 9 0 1 0x6000)) s))
abbrev shape44 : W64 := 0x0000000100040004
abbrev CmdVals := Option (Nat × Nat) × BitVec 8 × BitVec 5 × BitVec 13 × W64 × W64 × W64
def cmdIs (x : Option (Bool × MChk × CmdVals)) (sys : Bool) (r : CmdVals) : Bool :=
  match x with
  | some (a, .ok, y) => a == sys && decide (y = r)
  | _ => false
theorem cmd_is {x : Option (Bool × MChk × CmdVals)} {sys : Bool} {r : CmdVals} (h : cmdIs x sys r = true) : x = some (sys, .ok, r) := by
  unfold cmdIs at h
  split at h <;> simp_all
/-- The hypotheses of MatrixCommands for an instruction, with what it pushes. -/
def cmdHyps (i : Instr) (s : State) (sys : Bool) (r : CmdVals) : Prop :=
  cmdRule (srcOf s (grp s)) s (team s) i = some (sys, .ok, r) ∧ runs i s ∧ poisonU (srcOf s (grp s)) (iUs i) = false ∧ (grp s).f4 = none ∧
    (if sys then performAll s (grp s) true else drainAll s (grp s)) = some (s, grp s) ∧ Quiet s (grp s) ∧
    ((s.core (grp s).core).cmds.map cmdEntries).sum + (if r.2.1 = 0xD0 ∧ r.2.2.2.1.extractLsb' 9 4 = MmaTy.f4.code then 2 else 1) ≤ 64 ∧
    (r.1.isSome → (s.core (grp s).core).locks.length < 32)
theorem hyp_MatrixCommands_mma : let i := Instr.mma H 3 (S 1) (S 2) .f4 false
    cmdHyps i (sreg 1 shape44 (sreg 2 0x00410040 (rings (device i)))) true (none, 0xD0, 3, MmaTy.f4.code ++ 0#8 ++ 0#1, shape44, 0x00410040, 0) := by
  refine ⟨cmd_is (by decide +kernel), by rfl, by rfl, by rfl, by rfl, ⟨by rfl, by rfl, by decide⟩, by decide, by decide⟩
theorem hyp_MatrixCommands_mzero : cmdHyps (.mzero H 3) (device (.mzero H 3)) false (none, 0xD2, 3, 0, 0, 0, 0) := by
  refine ⟨cmd_is (by decide +kernel), by rfl, by rfl, by rfl, by rfl, ⟨by rfl, by rfl, by decide⟩, by decide, by decide⟩
theorem hyp_MatrixCommands_mlda : let i := Instr.mlda H 7 127 3 (S 1) 0
    cmdHyps i (sreg 1 0x1FF7F (device i)) false (none, 0xD3, 3, 0, 0, 0x1FF7F, 0) := by
  refine ⟨cmd_is (by decide +kernel), by rfl, by rfl, by rfl, by rfl, ⟨by rfl, by rfl, by decide⟩, by decide, by decide⟩
theorem hyp_MatrixCommands_msta : let i := Instr.msta H 0 (S 1) (S 2) .bf16 .sr false
    let c : W64 := 0x0080010000000200
    cmdHyps i (sreg 1 0x10000 (sreg 2 c (device i))) true (some (0x10000, 0x1FFFF), 0xD4, 0, MFmt.bf16.code ++ 0#5 ++ 0#1 ++ SRnd.sr.code, 0, 0x10000, c) := by
  refine ⟨cmd_is (by decide +kernel), by rfl, by rfl, by rfl, by rfl, ⟨by rfl, by rfl, by decide⟩, by decide, by decide⟩
theorem hyp_MatrixCommands_msave : let i := Instr.msave H (S 1)
    cmdHyps i (sreg 1 0x10000 (device i)) true (some (0x10000, 0xCFFFF), 0xD6, 0, 0, 0x10000, 0, 0) := by
  refine ⟨cmd_is (by decide +kernel), by rfl, by rfl, by rfl, by rfl, ⟨by rfl, by rfl, by decide⟩, by decide, by decide⟩
/-- MSCALE with the MMA.F4 it completes at the end of the queue. -/
def f4Cmd (g : Group) : Cmd := cmdOf g 0xD0 3 (MmaTy.f4.code ++ 0#8 ++ 0#1) shape44 0x00410040 0 50
def mscaling (i : Instr) : State :=
  let s := withG (fun g => { g with f4 := some (3, shape44, false) }) (sreg 1 shape44 (sreg 2 0x42 (rings (device i))))
  s.setCore 0 { CoreSt.reset with cmds := [f4Cmd (grp s)] }
theorem hyp_MatrixCommands_mscale : let i := Instr.mscale H 3 (S 1) (S 2); let s := mscaling i
    runs i s ∧ poisonU (srcOf s (grp s)) [S 1, S 2] = false ∧ (grp s).f4 = some (3, (rdU (srcOf s (grp s)) (S 1)).1, false) ∧ performAll s (grp s) true = some (s, grp s) ∧ Quiet s (grp s) ∧
    mscaleChk s (team s) 3 shape44 0x42 = .ok ∧ (s.core 0).cmds = [] ++ f4Cmd (grp s) :: [] ∧ (f4Cmd (grp s)).gid = (grp s).gid ∧ (f4Cmd (grp s)).isF4 = true ∧
    (f4Cmd (grp s)).scale = none := by
  refine ⟨by rfl, by rfl, by rfl, by rfl, ⟨by rfl, by rfl, by decide⟩, chk_ok (by decide +kernel), by decide +kernel, by decide +kernel, by decide +kernel, by rfl⟩

/-- A handle at 0x10000 and its descriptor at 0x10040: 4 rows of 8 FP32 elements at 0x20000. -/
def descBytes : List Byte := natLe 8 0x4454474500000001 ++ natLe 8 (4 * 2 ^ 32 + 8 * 2 ^ 16 + 2 * 2 ^ 12) ++ natLe 8 0 ++ natLe 8 0 ++ natLe 8 0x20000 ++ natLe 8 (32 * 2 ^ 32) ++ natLe 16 0
def table (s : State) : State := vaultBytes 0x40 descBytes (vaultBytes 0 (natLe 8 0x10040) (sreg 1 0x10000 (sreg 2 0x400 (sreg 3 0x10040 s))))
theorem with_desc {hva : W64} {s : State} {g : Group} {h d : Route × Nat} {cur : W64} {bs : List Byte} (k : Route × Nat → W64 → Route × Nat → List Byte → Out)
    (h1 : hva.toNat % 64 = 0) (h2 : (judge s g [recPlace s g hva] needR true).isNone = true) (h3 : (recPlace s g hva).res.place = some h)
    (h4 : handleCur s h = cur) (h5 : cur.toNat % 64 = 0) (h6 : (judge s g [recPlace s g cur] needR true).isNone = true)
    (h7 : (recPlace s g cur).res.place = some d) (hh : isRemote h.1 = false) (hd : isRemote d.1 = false) (h8 : homeBytes s d.1 d.2 64 = bs) (h9 : descBad bs = false) : withDesc hva s g k = k h cur d bs := by
  subst h4 h8
  rw [Option.isNone_iff_eq_none] at h2 h6
  simp [withDesc, withCur, withRec, recRead, hh, hd, h1, h2, h3, h5, h6, h7, h9]
theorem hyp_GatherCommands_egath : let i := Instr.egath H (S 2) (S 1) .lane (.u (.k .one)) 0 1; let s := table (device i)
    runs i s ∧ poisonU (srcOf s (grp s)) [S 2, S 1] = false ∧ poisonLanes (srcOf s (grp s)) (iOs i) (active (grp s).regs 0) = 0 ∧ active (grp s).regs 0 ≠ 0 ∧
    (performAll s (grp s) true).isSome = true ∧ (∀ k, withDesc (rdU (srcOf s (grp s)) (S 1)).1 s (grp s) k = k (vault, 0x10000000000) 0x10040 (vault, 0x10000000040) descBytes) ∧
    (grp s).recStep = none ∧ isRemote vault = false ∧ (s.core 0).locks.length < 32 ∧ RouteOk s vault ∧ scratchSpan s (grp s) 0x400 0x400 (0x400 + 1 * 4 * 8 - 1) = some (1, 0x400, 0x41F) ∧ Quiet s (grp s) := by
  refine ⟨by rfl, by rfl, by decide +kernel, by decide, by rfl,
    fun k => with_desc k (by decide +kernel) (by decide +kernel) (by decide +kernel) (by decide +kernel) (by decide) (by decide +kernel) (by decide +kernel)
      (by rfl) (by rfl) (by decide +kernel) (by decide), by rfl, by rfl, by decide, vault_ok (by decide +kernel), by decide +kernel, by rfl, by rfl, by decide⟩
theorem hyp_GatherCommands_eswap : let i := Instr.eswap H (S 1) (S 3); let s := table (device i)
    runs i s ∧ poisonU (srcOf s (grp s)) [S 1, S 3] = false ∧ (performAll s (grp s) true).isSome = true ∧ (recPlace s (grp s) 0x10000).res = .ok vault 0x10000000000 ∧
    (recPlace s (grp s) 0x10040).res = .ok vault 0x10000000040 ∧ descBad (homeBytes s vault 0x10000000040 64) = false ∧ RouteOk s vault ∧ homeNat s vault 0x10000000000 8 = 0x10040 ∧ Quiet s (grp s) := by
  refine ⟨by rfl, by rfl, by rfl, by rfl, by rfl, by decide +kernel, vault_ok (by decide +kernel), by decide +kernel, by rfl, by rfl, by decide⟩

-- regions

/-- A group in the wait between two attempts, in an OPEN one, and in an irrevocable one, of a speculation domain at 0x10000 whose NEXT is 7. -/
def region (f : Region → Region) : State → State := withG fun g => { g with region := f { Region.reset with rpc := g.pc, rfmask := g.regs.exm, rlanes := 1, alive := 1, order := Vector.replicate 64 7 } }
def domain (s : State) : State := vaultBytes 0 (natLe 8 0x5344010000000000 ++ natLe 8 7) (sreg 1 0x10000 s)
theorem hyp_RegionsBegin_txbeg : let i := Instr.txbeg H 0 true
    (runs i (device i) ∧ (performAll (device i) (grp (device i)) false).isSome = true ∧ (grp (device i)).region.state = .none) ∧
    (let s := region (fun r => { r with state := .wait, alone := some 63 }) (device i)
     runs i s ∧ (performAll s (grp s) false).isSome = true ∧ (grp s).region.state = .wait ∧ (grp s).pc = (grp s).region.rpc) := by
  refine ⟨⟨by rfl, by rfl, by rfl⟩, by rfl, by rfl, by rfl, by rfl⟩
theorem hyp_RegionsBegin_specbeg : let i := Instr.specbeg H (S 1) (V 2) 1; let s := mreg 1 1 (vreg 2 (fun _ => 0x80000006) (domain (device i)))
    runs i s ∧ performAll s (grp s) false = some (s, grp s) ∧ (grp s).region.state = .none ∧ poisonU (srcOf s (grp s)) [S 1] = false ∧
    poisonLanes (srcOf s (grp s)) [(false, V 2)] (active (grp s).regs 1) = 0 ∧ (∀ p ∈ (grp s).pages, p.2 = some .success) ∧
    (domElem s (grp s) (rdU (srcOf s (grp s)) (S 1)).1).res = .ok vault 0x10000000000 ∧ domBad (homeBytes s vault 0x10000000000 64) = false ∧
    (∀ l : Lane, (active (grp s).regs 1).getLsbD l.val = true → ((rd32 (srcOf s (grp s)) (V 2) l).1.toNat + 2 ^ 32 - homeNat s vault 0x10000000008 4) % 2 ^ 32 < 2 ^ 31) := by
  refine ⟨by rfl, by rfl, by rfl, by rfl, by decide +kernel, by decide, by rfl, by decide +kernel, by decide +kernel⟩
theorem hyp_RegionsBegin_others : (let i := Instr.txabt HE 0; runs i (inOpen (device i)) ∧ (grp (inOpen (device i))).region.state = .open) ∧
    runs (.txstat H (some 127) 0) (device (.txstat H (some 127) 0)) := by
  refine ⟨⟨by rfl, by rfl⟩, by rfl⟩
/-- An attempt that wrote one byte of the vault in lane 0 and read one of its sectors. -/
def wrote (s : State) : State :=
  region (fun r => { r with state := .open, wlog := [⟨0, ⟨vault, 0x10000000000, 0xFF, 5⟩, false, false⟩], rlog := [⟨0, vault, 0x8000000000 / 32, List.replicate 32 0, false⟩] }) s
theorem hyp_RegionsEnd_txend : let i := Instr.txend HE 0; let s := wrote (device i)
    runs i s ∧ (grp s).region.state = .open ∧ (grp s).region.spec = false ∧ (grp s).wmDepth = (grp s).region.rdepth ∧ (grp s).region.pend = 0 ∧
    (waitTags (grp s) (attTags (grp s))).bind (fun y => performAll s y false) = some (s, grp s) ∧ (s.parts.all fun p => p.txLocks.isEmpty) = true ∧ (grp s).region.alive &&& ~~~((grp s).region.done ||| (grp s).region.left ||| (grp s).region.pend) = 1 ∧
    1 &&& ~~~active (grp s).regs 0 = 0 ∧ validLane s (grp s).part (grp s).region 0 = true ∧ (∀ w ∈ (grp s).region.wlog, w.wr.route = vault ∧ w.lane < 64) ∧
    writesBack vault = false ∧ isRemote vault = false ∧ RouteOk s vault := by
  refine ⟨by rfl, by rfl, by rfl, by rfl, by rfl, by rfl, by rfl, by decide, by decide, by decide +kernel, by decide, by rfl, by rfl, vault_ok (by decide +kernel)⟩
theorem hyp_RegionsEnd_specend : let i := Instr.specend HE
    let s := domain (region (fun r => { r with state := .open, spec := true, domRoute := some (vault, 0x10000000000) }) (device i))
    runs i s ∧ (grp s).region.state = .open ∧ (grp s).region.spec = true ∧ (grp s).region.domRoute = some (vault, 0x10000000000) ∧ (grp s).wmDepth = (grp s).region.rdepth ∧
    (grp s).region.pend = 0 ∧ (grp s).region.gone = 0 ∧ (waitTags (grp s) (attTags (grp s))).bind (fun y => performAll s y false) = some (s, grp s) ∧
    (grp s).region.alive &&& ~~~((grp s).region.done ||| (grp s).region.left ||| (grp s).region.pend) = laneBit 0 ∧ homeNat s vault 0x10000000008 4 = ((grp s).region.order[0]).toNat ∧
    validLane s (grp s).part (grp s).region 0 = true ∧ (grp s).region.wlog = [] ∧ RouteOk s vault := by
  refine ⟨by rfl, by rfl, by rfl, by rfl, by rfl, by rfl, by rfl, by rfl, by decide, by decide +kernel, by decide, by rfl, vault_ok (by decide +kernel)⟩
theorem hyp_RegionsEnd_irrevocable :
    (let i := Instr.txend HE 0; let s := region (fun r => { r with state := .irrev, alone := some 63 }) (device i)
     runs i s ∧ (grp s).region.state = .irrev ∧ (grp s).region.spec = false ∧ (grp s).wmDepth = (grp s).region.rdepth ∧ (grp s).region.pend = 0 ∧
      (grp s).region.alone = some 63 ∧ (performAll s (grp s) false).isSome = true) ∧
    (let i := Instr.specend HE; let s := domain (region (fun r => { r with state := .irrev, alone := some 0, spec := true, domRoute := some (vault, 0x10000000000) }) (device i))
     runs i s ∧ (grp s).region.spec = true ∧ (grp s).region.domRoute = some (vault, 0x10000000000) ∧ (grp s).region.alone = some 0 ∧
      performAll s (grp s) false = some (s, grp s) ∧ RouteOk s vault) := by
  refine ⟨⟨by rfl, by rfl, by rfl, by rfl, by rfl, by rfl, by rfl⟩, by rfl, by rfl, by rfl, by rfl, by rfl, vault_ok (by decide +kernel)⟩
theorem hyp_EnginesRetire : let s := copyRegs 0x100 (3 * 2 ^ 60) (device cpy1); Quiet s (grp s) ∧ (s.team? (grp s).tid).isSome = true ∧
    (s.core (grp s).core).locks.length + 3 ≤ 32 ∧ ((s.core (grp s).core).cmds.map cmdEntries).sum + 2 ≤ 64 := by
  refine ⟨⟨by rfl, by rfl, by decide⟩, by rfl, by decide, by decide⟩
theorem hyp_RegionsRetire : let s := wrote (device (.txend HE 0)); Quiet s (grp s) ∧ attTags (grp s) = [] ∧ active (grp s).regs 1 &&& 0 = 0 ∧
    (grp s).region.alive &&& ~~~((grp s).region.done ||| (grp s).region.left) = laneBit 0 ∧
    (let s := withR (fun r => { r with exm := 1 }) s; active (grp s).regs 0 = laneBit 0 ∧ validLane s (grp s).part (grp s).region 0 = true) := by
  refine ⟨⟨by rfl, by rfl, by decide⟩, by rfl, by decide, by decide, by decide, by decide +kernel⟩

-- device steps: runs, deliveries and waits

/-- The device with nothing of its group's run fetched, whose code begins with `ws`. -/
def unfetched (ws : List W64) : State :=
  let s := placeWords State.reset ws
  s.setGroup { grp s with rob := [], fetched := false, delivering := false, bufRun := 0, begun := false }
def codeRoute (s : State) : Route := ((nextFetch s (grp s)).2.place.map (·.1)).getD vault
def codePa (s : State) : Nat := ((nextFetch s (grp s)).2.place.map (·.2)).getD 0
def withCode (s : State) : State :=
  s.setCore 0 { CoreSt.reset with icache := [⟨codeRoute s, codePa s / 128, (List.range 128).map fun k => homeRead s (codeRoute s) (codePa s / 128 * 128 + k)⟩] }
theorem x_place {x : XRes} {r : Route} {a : Nat} (h : x.place = some (r, a)) : x = .ok r a := by
  cases x <;> simp_all [XRes.place]
abbrev nopE : W64 := ((encode (.nop HE)).getD []).headD 0
theorem hyp_RunSteps_fetch : let s := withCode (unfetched [nopE]); let g := grp s
    s.group? g.gid = some g ∧ wantsRun g = true ∧ g.buf = [] ∧ g.bufRun < 24 ∧
    (nextFetch s g).2 = .ok (codeRoute s) (codePa s) ∧ failedPage g ((nextFetch s g).1.toNat / 65536) = false ∧ (codeLine s g.core (codeRoute s) (codePa s / 128)).isSome = true ∧
    (codeLine s g.core (codeRoute s) (codePa s / 128)).map (fun l => BitVec.ofNat 64 (leNat ((l.data.drop (codePa s % 128)).take 8))) = some nopE ∧
    hasLiteral nopE = false ∧ nopE.getLsbD 55 = true := by
  refine ⟨by rfl, by rfl, by rfl, by decide, x_place (by decide +kernel), by decide +kernel, by decide +kernel, by decide +kernel, by decide +kernel, by decide +kernel⟩
def badPc : State := let s := unfetched []; s.setGroup { grp s with pc := 0x0080000000000000 }
def isFault (x : XRes) : Option Cause :=
  match x with
  | .fault c => some c
  | _ => none
theorem hyp_RunSteps_fault : (grp badPc).fetched = false ∧ badPc.group? (grp badPc).gid = some (grp badPc) ∧ wantsRun (grp badPc) = true ∧ isFault (nextFetch badPc (grp badPc)).2 ≠ none := by
  decide +kernel
theorem hyp_RunSteps_fill : let s := unfetched [nopE]
    (s.groups.filter (·.core == 0)).findSome? (fun g => ((missedLine s g).filter fun x => x.2 == codePa s / 128).map fun x => (g.part, x)) =
      some (0, codeRoute s, codePa s / 128) ∧ isRemote (codeRoute s) = false := by
  decide +kernel
def readyHyps (s : State) : Bool :=
  groupReady s (grp s) && s.groups.all fun x => !x.delivering && decide (x = grp s)
theorem hyp_RunSteps_select : readyHyps (let s := fetchedRun; s.setGroup { grp s with delivering := false }) = true := by decide +kernel
def landing : State := withG (fun g => { g with tags := g.tags.setIfInBounds 7 (some
  { pendingTag 0 with regs := [5, 6], sects := [.vec [⟨5, 0, 1, false⟩, ⟨5, 63, 2, true⟩, ⟨6, 0, 3, false⟩]], deadV := [6] }) }) (device nop)
theorem hyp_RunSteps_return : (deliveries (grp landing))[0]? = some (7, 0) ∧
    ((grp landing).tags[7]?.join.bind fun x => x.sects[0]?) = some (.vec [⟨5, 0, 1, false⟩, ⟨5, 63, 2, true⟩, ⟨6, 0, 3, false⟩]) ∧
    [(⟨5, 0, 1, false⟩ : VElem), ⟨5, 63, 2, true⟩, ⟨6, 0, 3, false⟩].Pairwise (fun a b => a.reg ≠ b.reg ∨ a.lane ≠ b.lane) := by
  refine ⟨by decide +kernel, by decide +kernel, by decide⟩
theorem hyp_RunSteps_waits :
    (let s := withG (fun g => { g with wait := .yielded 9, sr := { g.sr with clk2 := 9 } }) (device nop)
     s.group? (grp s).gid = some (grp s) ∧ (grp s).wait = .yielded 9 ∧ 9 ≤ (grp s).sr.clk2) ∧
    (let i := Instr.twait HE 1; let s := withG (fun g => { g with waitFrom := some 0, sr := { g.sr with clk2 := 2 ^ 31 } }) (device i)
     s.group? (grp s).gid = some (grp s) ∧ headInstr (grp s) = some i ∧ (grp s).waitFrom = some 0 ∧ (grp s).wait = .none ∧ 0 + 2 ^ 31 ≤ (grp s).sr.clk2 ∧
      (grp s).region.state ≠ .open) := by
  refine ⟨⟨by rfl, by rfl, by decide⟩, by rfl, by rfl, by rfl, by rfl, by decide, by decide⟩

/-- The group is parked on the queue or barrier at scratchpad address 0x1000. -/
def parkedAt (b : Bool) : State → State := withG fun g => { g with wait := .parked (.scratch 1) 0x1000 b, delivering := false }
def asleep : State := (parkedAt true (device nop)).setCore 0 { CoreSt.reset with asleep := true }
theorem hyp_WaitSteps_notify : (let s := { parkedAt false (device nop) with notes := [(0, 0, .scratch 1, 0x1000)] }
    s.notes[0]? = some ((part s).id, (grp s).core, .scratch 1, 0x1000) ∧ (grp s).wait = .parked (.scratch 1) 0x1000 false ∧ s.group? (grp s).gid = some (grp s) ∧
    s.part? (part s).id = some (part s)) ∧ (asleep.core 0).asleep = true ∧ coreNotified asleep 0 = true := by
  refine ⟨⟨by rfl, by rfl, by rfl, by rfl⟩, by rfl, by rfl⟩
theorem hyp_WaitSteps_reexecute : let i := Instr.qpush HE 4 0 0
    headInstr (grp (parkedAt true (device i))) = some i ∧
    (let s := parkedAt true (device i); firstParked s (grp s) = true ∧ coreAwake s (grp s).core = true) ∧
    (let s := withG (fun g => { g with sr := { g.sr with clk2 := g.parkedClk + 2048 } }) (parkedAt false (device i))
     (grp s).wait = .parked (.scratch 1) 0x1000 false ∧ gateParked s (grp s) = false ∧ clocksStopped s (grp s).core = false ∧
      (grp s).parkedClk + 2048 ≤ (grp s).sr.clk2) := by
  refine ⟨by rfl, ⟨by rfl, by rfl⟩, by rfl, by rfl, by rfl, by decide⟩
def turning : State := withG (fun g => { g with wait := .parked vault 0x10000000000 false })
  (domain (region (fun r => { r with state := .open, spec := true, domRoute := some (vault, 0x10000000000) }) (device (.specend HE))))
theorem hyp_WaitSteps_turn : headInstr (grp turning) = some (.specend HE) ∧ (grp turning).wait = .parked vault 0x10000000000 false ∧ turnReady turning (grp turning) = true ∧
    coreAwake turning (grp turning).core = true := by
  refine ⟨by rfl, by rfl, by decide +kernel⟩
theorem hyp_WaitSteps_retry :
    (let s := withG (fun g => { g with wait := .retry }) (region (fun r => { r with state := .wait, pend := 3, due := r.due.set 1 7 }) (device nop))
     (grp s).wait = .retry ∧ (grp s).region.spec = false ∧ (grp s).region.alone = none ∧ (grp s).region.pend &&& (grp s).region.irr = 0 ∧
      (grp s).region.pend.getLsbD 0 = true ∧ (∀ l : Lane, (grp s).region.pend.getLsbD l.val = true → (grp s).region.due[(0 : Lane)] ≤ (grp s).region.due[l.val]) ∧
      (grp s).region.due[(0 : Lane)] ≤ (grp s).sr.clk2) ∧
    (let s := withG (fun g => { g with wait := .retry }) (region (fun r => { r with state := .wait, pend := laneBit 63, alone := some 63 }) (device nop))
     let s := s.modPart 0 fun p => { p with serialHolder := some 1 }
     (grp s).wait = .retry ∧ (grp s).region.alone = some (63 : Lane).val ∧ (grp s).part = (part s).id ∧ (part s).serialHolder = some (grp s).gid) := by
  refine ⟨⟨by rfl, by rfl, by rfl, by rfl, by rfl, by decide +kernel, by decide⟩, by rfl, by rfl, by rfl, by rfl⟩
def numbered : State := (domain (device nop)).modPart 0 fun p => { p with orders := [(vault, 0x10000000000, 7)] }
/-- A task queue with one entry and a group that waits. -/
def tasking (s : State) : State := s.modPart 0 fun p => { p with tasks := [⟨.scratch 1, 0x1000, 1, (List.range 256).map fun k => ⟨k, [0, 0, 0, 0], false, none⟩, [1]⟩] }
theorem hyp_WaitSteps_homes :
    (let p : Part := { part (device nop) with serialQueue := [1] }; p.serialHolder = none ∧ p.serialQueue = 1 :: []) ∧
    ((part numbered).orders[0]? = some (vault, 0x10000000000, 7) ∧ homeNat numbered vault (0x10000000000 + 8) 4 = (7 : W32).toNat ∧ RouteOk numbered vault) ∧
    (let s := tasking (queue 0 true (device nop)); ∃ tt w e, (part s).tasks = [tt] ∧ tt.waiters = [w] ∧ readyTask [] tt.ents = some e ∧ 256 ≤ tt.ents.length ∧
      qBad s tt.route tt.addr = false) ∧
    (let p := part (device nop); Tab.wf none p.lines = true ∧ Tab.wf 0 p.floors = true ∧ p.sectors ≠ [] ∧ Tab.get none p.lines 5 = none) := by
  refine ⟨⟨by rfl, by rfl⟩, ⟨by rfl, by decide +kernel, vault_ok (by decide +kernel)⟩, ⟨_, 1, ⟨0, [0, 0, 0, 0], false, none⟩, rfl, rfl, by decide +kernel, by decide +kernel, by decide +kernel⟩, by rfl, by rfl, by decide, by rfl⟩

-- device steps: eviction, launches, translation, registers

/-- A second group of the team on the same sub-core, in slot 1. -/
def two (f : Group → Group) (s : State) : State :=
  { s with groups := s.groups ++ [f { grp s with gid := 2, idx := 4, slot := 1, born := 5, delivering := false, buf := [], fetched := false }] }
def leaving : State := withG (fun g => { g with evict := some false }) (two id (device nop))
theorem hyp_EvictionSteps_leave : leaving.group? (grp leaving).gid = some (grp leaving) ∧ leaving.part? (grp leaving).part = some (part leaving) ∧
    (grp leaving).tags = Vector.replicate 8 none ∧ (grp leaving).evict = some false ∧ (grp leaving).exiting = false ∧ mustFinish leaving (grp leaving) = false ∧
    (grp leaving).region.state ≠ .open ∧ (grp leaving).merge = [] ∧ (∃ x ∈ leaving.groups, x.tid = (grp leaving).tid ∧ x.gid ≠ (grp leaving).gid) ∧
    (let g := { grp leaving with drainFrom := some 0, sr := { (grp leaving).sr with clk2 := 4000 } }; ∃ n, g.drainFrom = some n ∧ n + 4000 ≤ g.sr.clk2) := by
  refine ⟨by rfl, by rfl, by rfl, by rfl, by rfl, by rfl, by decide, by rfl, ⟨_, .tail _ (.head _), by rfl, by decide⟩, 0, by rfl, by decide⟩
def savedUnit (s : State) : Saved := ⟨{ grp s with gid := 2, idx := 4, slot := 8, delivering := false, buf := [], fetched := false, wait := .grow 64 }, true, 4⟩
theorem hyp_EvictionSteps_return : let s := { device nop with saved := [savedUnit (device nop)] }; let x := savedUnit (device nop)
    s.saved.find? (·.g.gid == x.g.gid) = some x ∧ nextReturn s x.g.core = some x ∧ s.team? x.g.tid = some (team s) ∧ (team s).resident = true ∧ s.group? x.g.gid = none := by
  refine ⟨by rfl, by rfl, by rfl, by rfl, by rfl⟩
/-- Two groups of 192 registers that want 208 and 384. -/
def growing : State :=
  let s := withG (fun g => { g with wait := .grow 208, sr := { g.sr with budget := 192 } }) (device nop)
  two (fun g => { g with wait := .grow 384, waitFrom := none }) s
theorem hyp_EvictionSteps_grow : let mates := growing.groups.filter fun x => x.core == 0 && x.sub == 0 && decide (x.slot < 8)
    mates.length = 2 ∧ (∀ x ∈ mates, x.gid = 2 ∨ x.born < 5) ∧ (∀ x ∈ mates, (∃ n, x.wait = .grow n) ∧ x.evict = none ∧ growFits growing x = false) := by
  refine ⟨by decide +kernel, by decide +kernel, ?_⟩
  rintro x hx
  rw [show (growing.groups.filter fun x => x.core == 0 && x.sub == 0 && decide (x.slot < 8)) = growing.groups from by rfl] at hx
  rcases hx with _ | ⟨_, _ | ⟨_, h⟩⟩
  · exact ⟨⟨208, by rfl⟩, by rfl, by rfl⟩
  · exact ⟨⟨384, by rfl⟩, by rfl, by rfl⟩
  · exact absurd h (by rintro ⟨⟩)
def starved : State := withG (fun g => { g with wait := .grow 208, waitFrom := some 0, sr := { g.sr with clk2 := 20000 } }) growing
theorem hyp_EvictionSteps_starve : let o := grp starved; let mates := starved.groups.filter fun x => x.core == 0 && x.sub == 0 && decide (x.slot < 8)
    o.gid ≠ 2 ∧ starved.group? o.gid = some o ∧ mates = starved.groups ∧ (∀ x ∈ mates, x.gid = o.gid ∨ o.born < x.born) ∧ o.wait = .grow 208 ∧
    o.waitFrom.getD o.sr.clk2 + 20000 ≤ o.sr.clk2 := by
  refine ⟨by decide, by rfl, by rfl, by decide +kernel, by rfl, by decide⟩

/-- The device whose pair 7 is `q`, with two empty queues in its frames. -/
def withPair (q : QPair) : State :=
  let s := (device nop).modPart 0 fun p => modPair p 7 fun _ => q
  PairQ.com.init (PairQ.sub.init s 0 q) 0 q
def openPair : QPair := { QPair.reset with en := true, sqlog := 1, cqlog := 1, frames := [0x1000010] }
/-- The same with `k` records of zeros counted in a queue of it. -/
def counted (c : PairQ) (k : Nat) (q : QPair) (s : State) : State := qWrite s 0 pairRoute (c.block q) ((c.blk s q).pushed k)
/-- Its blocks are not there. -/
def noBlocks : State := (device nop).modPart 0 fun p => modPair p 7 fun _ => openPair
/-- Byte k of the named dwords of a record. -/
def record (ds : List Nat) : List Byte := ds.flatMap fun x => natLe 8 x
theorem fits {s : State} {q : QPair} (h : (decide (s.dev.wf = true ∧ q.frames.Nodup ∧ pairFrames q ≤ q.frames.length) && [PairQ.sub, PairQ.com].all fun k =>
    !k.bad s q && decide ((k.blk s q).cap = k.cap q)) = true) : PairFits s q := by
  simp only [Bool.and_eq_true, decide_eq_true_eq, List.all_cons, List.all_nil, Bool.not_eq_true'] at h
  obtain ⟨⟨a, b, c⟩, x, y, -⟩ := h
  exact ⟨a, b, c, fun k => by
    cases k
    · exact x
    · exact y⟩
theorem hyp_QueuePairSteps :
    (let s := device nop; s.part? (part s).id = some (part s) ∧ (qpair (part s) 7).en = false ∧ (qpair (part s) 7).frames = []) ∧
    (let s := noBlocks; (qpair (part s) 7).en = true ∧ ∀ k : PairQ, k.bad s (qpair (part s) 7) = true) ∧
    (let s := withPair openPair; (qpair (part s) 7).en = true ∧ PairFits s (qpair (part s) 7) ∧ PairQ.com.len s (qpair (part s) 7) = 0 ∧
      (PairQ.sub.blk s (qpair (part s) 7)).count < PairQ.sub.cap (qpair (part s) 7)) ∧
    (let s := counted .sub 32 openPair (withPair openPair); PairQ.sub.bad s (qpair (part s) 7) = false ∧
      PairQ.sub.cap (qpair (part s) 7) ≤ (PairQ.sub.blk s (qpair (part s) 7)).count) ∧
    (let s := counted .com 1 openPair (withPair openPair); (qpair (part s) 7).en = true ∧ PairFits s (qpair (part s) 7) ∧ PairQ.com.len s (qpair (part s) 7) ≠ 0) := by
  refine ⟨⟨by rfl, by rfl, by rfl⟩, ⟨by rfl, fun k => by cases k <;> decide +kernel⟩, ⟨by decide +kernel, fits (by decide +kernel), by decide +kernel, by decide +kernel⟩,
    ⟨by decide +kernel, by decide +kernel⟩, by decide +kernel, fits (by decide +kernel), by decide +kernel⟩
theorem hyp_QueuePairSteps_frames : let p := part (device nop)
    (128 * 2 ^ (15 + 4) + 32 * 2 ^ (15 + 4) + 128 + 65535) / 65536 ≤ (freeFrames (device nop) { p with sectors := [0] }).length ∧ p.id < 32 ∧
    (device nop).dev.wf = true := by decide +kernel
def refusedHead (s : State) : State := s.modPart 0 fun p => modPair p 7 fun q => { q with head := some (.refused 3 11) }
theorem hyp_QueuePairSteps_refusal :
    (let s := refusedHead (counted .sub 1 openPair (withPair openPair)); (qpair (part s) 7).head = some (.refused 3 11) ∧ (qpair (part s) 7).en = true ∧
      PairFits s (qpair (part s) 7) ∧ PairQ.com.len s (qpair (part s) 7) < PairQ.com.cap (qpair (part s) 7) ∧ (PairQ.sub.blk s (qpair (part s) 7)).count ≠ 0) ∧
    (let s := refusedHead (counted .com 32 openPair (withPair openPair)); (qpair (part s) 7).head = some (.refused 3 11) ∧ (qpair (part s) 7).en = true ∧
      PairFits s (qpair (part s) 7) ∧ PairQ.com.cap (qpair (part s) 7) ≤ PairQ.com.len s (qpair (part s) 7)) := by
  refine ⟨⟨by decide +kernel, by decide +kernel, fits (by decide +kernel), by decide +kernel, by decide +kernel⟩, by decide +kernel, by decide +kernel, fits (by decide +kernel), by decide +kernel⟩
/-- A record with one team of one group, whose object is nowhere. -/
def lostObject : List Byte := record [0x70000000000000, 0, 0x000100010001 + 2 ^ 58, 0, 0, 0, 0, 0, 0, 0, 0, 0, 0, 0, 0, 0]
def submitted (r : List Byte) : State := ((PairQ.sub.push (withPair openPair) 0 openPair r).1)
theorem hyp_QueuePairSteps_check :
    (let s := submitted (List.replicate 128 0)
     headPair s (part s) = some 7 ∧ (part s).table.length < 64 ∧ (qpair (part s) 7).head = none ∧ (part s).failed = false ∧
      recordBad (PairQ.sub.head s (qpair (part s) 7)) = true) ∧
    (let s := submitted lostObject
     headPair s (part s) = some 7 ∧ PairQ.sub.head s (qpair (part s) 7) = lostObject ∧ recordBad lostObject = false ∧
      (match readObject { s with nextId := s.nextId + 1 } (part s) (blankLaunch (part s) 7 lostObject (allLoads s 0)) lostObject s.nextId [] with
        | .bad => true
        | _ => false) = true) ∧
    (let s := (submitted lostObject).modPart 0 fun p => { p with failed := true }
     headPair s (part s) = some 7 ∧ (qpair (part s) 7).head = none ∧ (part s).failed = true) := by
  refine ⟨⟨by decide +kernel, by decide +kernel, by decide +kernel, by decide +kernel, by decide +kernel⟩,
    ⟨by decide +kernel, by decide +kernel, by decide +kernel, by decide +kernel⟩, by decide +kernel, by decide +kernel, by decide +kernel⟩
def heldDesc : Release := ⟨0x10040, vault, 0x10000000040, 7, 3, 1⟩
theorem hyp_QueuePairSteps_records :
    (let s := (withPair openPair).modPart 0 fun p => { p with releases := [heldDesc] }
     (part s).releases.find? (·.pair == 7) = some heldDesc ∧ (qpair (part s) 7).en = true ∧ PairFits s (qpair (part s) 7) ∧
      PairQ.com.len s (qpair (part s) 7) < PairQ.com.cap (qpair (part s) 7)) ∧
    (let s := (withPair openPair).setLaunch { launch (device nop) with pair := 7, results := [(0, 16, 8)] }
     s.launch? (launch s).lid = some (launch s) ∧ (launch s).part = (part s).id ∧ (launch s).pair = 7 ∧ gridTeams (launch s).grid ≤ (launch s).results.length ∧
      PairFits s (qpair (part s) 7)) := by
  refine ⟨⟨by decide +kernel, by decide +kernel, fits (by decide +kernel), by decide +kernel⟩, by decide +kernel, by decide +kernel, by decide +kernel,
    by decide +kernel, fits (by decide +kernel)⟩

/-- A checked launch of one image page, at the head of pair 7. -/
def readyLaunch : Launch := { launch (device nop) with lid := 0, imageBase := 65536, imageLen := 65536, image := [(0, 7), (65535, 9)], frames := [] }
def readyHead : State := (counted .sub 1 openPair (withPair openPair)).modPart 0 fun p => modPair p 7 fun q => { q with head := some (.ready readyLaunch) }
def readyFrames : List Nat := imageFrames readyHead (part readyHead) ((readyHead.launches.filter (·.part == (part readyHead).id)).flatMap (·.frames))
  (hbmFrames (part readyHead) - storeFrames (part readyHead)) (readyLaunch.imageLen / 65536)
theorem hyp_LaunchSteps_enter : (qpair (part readyHead) 7).head = some (.ready readyLaunch) ∧
    (part readyHead).table.length < 64 ∧ headPair readyHead (part readyHead) = some 7 ∧ 0 < readyLaunch.imageBase ∧ readyHead.launch? readyHead.nextId = none ∧
    imagePlace { readyHead with launches := tableLaunches readyHead (part readyHead) } readyLaunch.imageBase readyLaunch.imageLen ≠ none ∧
    readyFrames.length = readyLaunch.imageLen / 65536 ∧ readyLaunch.imageLen % 65536 = 0 ∧
    readyHead.dev.wf = true ∧ readyFrames.Nodup ∧ Mem.wf readyLaunch.image = true ∧ (∀ f ∈ readyFrames, f ∉ (qpair (part readyHead) 7).frames) ∧
    (∀ c ∈ readyLaunch.image, c.1 < readyLaunch.imageLen) := by
  decide +kernel
/-- A launch of 2 teams in clusters of one whose second cluster waits. -/
def waiting : State := { (device nop) with
  boot := { (device nop).boot with tier := 3 }
  parts := (device nop).parts.map fun p => { p with table := [1], sectors := [0] }
  launches := [{ launch (device nop) with team := 1, clw := 1, clh := 1, grid := (2, 1, 1), nextCluster := 1, waitSince := some 0 }], now := 34000000 }
theorem hyp_LaunchSteps_place : (part waiting).failed = false ∧ waiting.launch? (launch waiting).lid = some (launch waiting) ∧ (launch waiting).resident = false ∧
    readyLaunches waiting (part waiting) = [launch waiting] ∧ (chooseRect waiting (part waiting) (launch waiting)).isSome = true ∧
    (∀ x ∈ waiting.teams, x.tid < waiting.nextId) ∧ 0 < (launch waiting).grid.1 ∧ 0 < (launch waiting).grid.2.1 ∧ (launch waiting).part = (part waiting).id ∧
    (launch waiting).waitSince = some 0 ∧ 0 + 34000000 ≤ waiting.now := by
  refine ⟨by rfl, by rfl, by rfl, by decide +kernel, by decide +kernel, by decide, by decide, by decide, by rfl, by rfl, by decide⟩
theorem hyp_LaunchSteps_end :
    (let s := withG (fun g => { g with exiting := true }) (device nop)
     s.group? (grp s).gid = some (grp s) ∧ (grp s).exiting = true ∧ (grp s).stbuf = [] ∧ reqPending s (grp s) = false ∧ (grp s).remWr = [] ∧
      (grp s).tags = Vector.replicate 8 none ∧ (grp s).region.spec = false ∧ (grp s).task = none ∧ (grp s).merge = [] ∧
      ∀ o ∈ (s.core (grp s).core).gathers, o.scatter = true → o.gid ≠ (grp s).gid) ∧
    (let s := { device nop with groups := [], teams := [{ team (device nop) with live := [], killCause := some 8 }] }
     s.team? (team s).tid = some (team s) ∧ (team s).ended = false ∧ (team s).live = [] ∧ teamBusy s (team s) = false ∧ (team s).lid = (launch s).lid ∧
      s.launch? (launch s).lid = some (launch s) ∧ (team s).part = (part s).id) ∧
    (let r : OldDesc := ⟨vault, 0x10000000040, 0x10040, 3, false⟩
     let s := (vaultBytes 0x70 (natLe 8 (2 ^ 32)) (device nop)).modPart 0 fun p => { p with retired := [r] }
     let l := (part s).retired.filter (·.due) ++ (((part s).retired.filter fun r => !r.due && refDue s r).map fun r => { r with due := true }) ++
       (part s).retired.filter fun r => !r.due && !refDue s r
     l[0]? = some { r with due := true } ∧ rowsLeft s (part s).id r.descVa = false ∧ l.take 0 = []) := by
  refine ⟨⟨by rfl, by rfl, by rfl, by rfl, by rfl, by rfl, by rfl, by rfl, by rfl, by decide +kernel⟩, ⟨by rfl, by rfl, by rfl, by rfl, by rfl, by rfl, by rfl⟩,
    by decide +kernel, by decide +kernel, by rfl⟩

/-- Page tables in host memory: a root at frame 1 whose first entry names a table at frame 2, which has a 512 MiB leaf for page 0 and an absent entry beside it. -/
def slotTables (s : State) : State :=
  { s with host := { s.host with bytes := Mem.writeList (Mem.writeList s.host.bytes 0x10000 (natLe 8 0x200001)) 0x20000 (natLe 8 0x10000000021F) } }.modPart 0 fun p =>
    { p with ptroot := 0x10001 }
/-- The same, where the partition owns sector 0, whose translation cache holds page 5 or nothing. -/
def sectored (held : Bool) : State :=
  let s := (slotTables (device nop)).modPart 0 fun p => { p with sectors := [0] }
  if held then { s with xlats := [(0, { s.sectorTlb 0 with ents := [⟨0, 5, 0x10000000021F, true⟩] })] } else s
theorem hyp_PageSteps_walk : walk (sectored true) (part (sectored true)) (5 * 65536) = .leaf 0x10000000021F true ∧
    walk (sectored false) (part (sectored false)) (5 * 65536) = .leaf 0x10000000021F true ∧ inWindow (5 * 65536) = false ∧
    ((sectored true).parts.find? fun x => x.sectors.contains 0) = some (part (sectored true)) ∧
    ((sectored true).sectorTlb 0).ents.any (·.isFor (part (sectored true)).id 5) = true ∧
    ((sectored false).parts.find? fun x => x.sectors.contains 0) = some (part (sectored false)) ∧
    ((sectored false).sectorTlb 0).ents.any (·.isFor (part (sectored false)).id 5) = false ∧
    walk (sectored false) (part (sectored false)) (8192 * 65536) = .absent := by decide +kernel
theorem hyp_PageSteps_idle : mayRequest (part (device nop)) = false := by decide +kernel
/-- Page 5 has been asked for and page 6 not yet; the group waits for page 5, for a fetch or for data. -/
def paging (f : Bool) : State := withG (fun g => { g with wait := .stopover f, pages := [(5, none)] }) ((device nop).modPart 0 fun p => { p with
  reqs := [⟨5, true, false, false, true⟩, ⟨6, true, false, false, false⟩], atsBusy := true, priAlloc := 2 })
theorem hyp_PageSteps_service : ∀ f, let r : PageReq := ⟨5, true, false, false, true⟩
    let s := paging f
    s.part? (part s).id = some (part s) ∧ (part s).reqs.find? (fun x => !x.sent) = some { r with page := 6, sent := false } ∧
    ((part s).reqs.filter (·.sent)).length < (part s).priAlloc ∧ r ∈ (part s).reqs ∧ r.page = 5 ∧ r.sent = true ∧ s.group? (grp s).gid = some (grp s) ∧
    (grp s).part = (part s).id ∧ (grp s).merge = [] ∧ (grp s).wait = .stopover f ∧ (∀ w ∈ (grp s).pages, w.2.isSome = true ∨ ∃ r ∈ (part s).reqs, r.page = w.1) ∧
    (part s).atsBusy = true ∧ (∀ g ∈ s.allGroups, g.part = (part s).id → hostPending g = false) := by
  decide +kernel

/-- An L1 line of the vault with one dirty byte, in the only core that has state; an invalidation and a flush of everything are busy. -/
def dirtyLine : L1Line := ⟨.vault, 0x200000000, .sw, .clear, 0, List.replicate 128 7, 1, 0, false⟩
def flushing : State := { (device nop).modPart 0 fun p => { p with flBusy := true, flAll := true, tlbiBusy := true, tlbiAll := true } with
  cores := [(0, { CoreSt.reset with l1 := [dirtyLine] })] }
theorem hyp_RegisterSteps : flushing.part? (part flushing).id = some (part flushing) ∧ (part flushing).tlbiBusy = true ∧ unperformed flushing (part flushing).id = false ∧
    (part flushing).tlbiAll = true ∧ (part flushing).flBusy = true ∧ flushing.cores = [(0, { CoreSt.reset with l1 := [dirtyLine] })] ∧ (part flushing).hostCopies = [] ∧
    dirtyLine.part = (part flushing).id ∧ flushes (part flushing) (flushFrames flushing (part flushing)) dirtyLine.tier dirtyLine.line = true ∧
    chanFenced flushing dirtyLine.tier (dirtyLine.line * 128) = false ∧ dirtyLine.data.length = 128 ∧ flushing.dev.wf = true ∧ Tab.wf 0 flushing.fabric.routes = true ∧
    portExists 39 = true ∧ portExists 0 = true := by
  refine ⟨by rfl, by rfl, by rfl, by rfl, by rfl, by rfl, by rfl, by rfl, by rfl, by rfl, by decide +kernel, by decide +kernel, by decide +kernel, by decide, by decide⟩

-- early reads and stopped clocks

/-- Entries as delivered from the words of instructions. -/
def ents (l : List Instr) : List RobEnt := l.map fun i => ⟨(encode i).getD [], none, false, 0, 0, false, none, []⟩
/-- R35, R163: behind an instruction that writes c3, SMOV of c3 reads nothing early; SMOV of c4 may. -/
theorem test_early_read_waits_for_its_register :
    (let g := { grp (device nop) with tags := Vector.replicate 8 none }
     let older := ents [.smov ⟨false, 1⟩ (some (.c 3)) (.k .one) .n64]
     (ents [.smov H (some (.s 2)) (.c 3) .n64, .smov H (some (.s 2)) (.c 4) .n64]).map (earlyOk g older)) = [false, true] := by decide +kernel
/-- R358: a group that is not parked any more has a running clock. -/
theorem test_clocks_run_for_a_stopped_group :
    clocksStopped asleep 0 = true ∧ clocksStopped (withG (fun g => { g with wait := .none }) asleep) 0 = false := by decide +kernel

-- device steps: engines

theorem fresh_ok {s : State} {core : Nat} (h : (s.core core).dtlb = [] ∧ s.sectorTlb (core / 16) = ⟨[], []⟩) : XlatFresh s core := by
  intro p hp va
  rw [h.1, h.2]
  exact ⟨by simp, rfl⟩
/-- What EngSpan asks of a vault page, where no translation is held and every copy is clean. -/
def spanOk (s : State) (x : ECtx) (need : Need) (va n : Nat) (pa : Nat) : Bool :=
  s.dev.wf && (s.core x.core).dtlb.isEmpty && s.xlats.isEmpty && (s.core x.core).l1.isEmpty && (s.part? x.part).all (·.hostCopies.isEmpty) &&
    (List.range n).all fun k => match engXlat s x (va + k) need with
      | .ok r a => decide (r = vault ∧ a = pa + k)
      | _ => false
theorem span_ok {s : State} {x : ECtx} {need : Need} {va n pa : Nat} (h : spanOk s x need va n pa = true) : EngSpan s x need va n vault pa := by
  simp only [spanOk, Bool.and_eq_true, List.isEmpty_iff, List.all_eq_true, List.mem_range] at h
  obtain ⟨⟨⟨⟨⟨h1, h2⟩, h3⟩, h4⟩, h5⟩, h6⟩ := h
  refine ⟨rfl, rfl, h1, fresh_ok ⟨h2, by simp [State.sectorTlb, h3]⟩, by simp [h4], fun p hp y hy => ?_, fun k hk => ?_⟩
  · rw [hp] at h5
    simp_all
  · have := h6 k hk
    split at this <;> simp_all

def coreWith (f : CoreSt → CoreSt) (s : State) : State := s.setCore 0 (f CoreSt.reset)
def copyDesc (dst w4 : W64) : List W64 := [0, dst, 0x100000008, 0, w4, 0]
def copying (o : CopyOp) : State := coreWith (fun c => { c with copies := [o] }) (device nop)
def copy1 : CopyOp := ⟨9, 1, 1, .lin, copyDesc 0x100 (3 * 2 ^ 60), none, none, 1, none, false, none⟩
theorem hyp_CopyAndGatherSteps_copy : let s := copying copy1; let c := copyD copy1.desc
    s.team? (team s).tid = some (team s) ∧ (team s).scratch.wf = true ∧ copyOp? s 0 9 = some copy1 ∧ copy1.finished = false ∧ copyIll copy1.x c copy1.desc = false ∧ copy1.await = none ∧ copy1.ring = none ∧ copy1.tid = (team s).tid ∧ c.ssp = true ∧ c.dsp = true ∧
    c.dring = false ∧ c.src.getLsbD 28 = false ∧ c.dst.getLsbD 28 = false ∧ c.dlen.testBit 28 = false ∧ (dstShape copy1.x c).1 = 1 := by
  refine ⟨by rfl, by decide +kernel, by rfl, by rfl, by decide +kernel, by rfl, by rfl, by rfl, by decide +kernel, by decide +kernel, by decide +kernel, by decide +kernel,
    by decide +kernel, by decide +kernel, by decide +kernel⟩
def ringCopy : CopyOp := ⟨9, 1, 1, .lin, copyDesc 0x40 (5 * 2 ^ 59), some (0x1000, 15), some 0x2078, 1, none, true, none⟩
def publishing : State := coreWith (fun c => { c with copies := [ringCopy] }) (scratchBytes 0x1000 (qBytes { qblk 15 false with resv := 16 }) (device nop))
theorem hyp_CopyAndGatherSteps_publish : let b := qBlkOf (qRead publishing (.scratch (team publishing).tid) 0x1000)
    copyOp? publishing 0 9 = some ringCopy ∧ qBad publishing (.scratch (team publishing).tid) 0x1000 = false ∧ b.tail = 15 ∧ b.resv ≠ b.tail := by
  refine ⟨by rfl, by decide +kernel, by decide +kernel, by decide +kernel⟩
def descWords : List W64 := (List.range 8).map fun k => BitVec.ofNat 64 (leNat ((descBytes.drop (8 * k)).take 8))
def gather1 (scatter : Bool) : GatherOp :=
  ⟨9, 1, 1, scatter, 1, 0x10040, vault, 0x10000000040, descWords, 1, 0x400, [(0, 1, 0x3F800000, true), (63, 3, 0x3F800000, true)], 0, none⟩
def gathering (scatter : Bool) : State := coreWith (fun c => { c with gathers := [gather1 scatter] }) (table (device nop))
theorem hyp_CopyAndGatherSteps_gather : let s := gathering false; let o := gather1 false
    let d := tdescOf (o.desc.flatMap fun w => natLe 8 w.toNat)
    s.engOut = [] ∧ gatherOp? s 0 9 = some o ∧ o.scatter = false ∧ o.scr = (team s).tid ∧ o.await = none ∧ rowsOf d o.lanes = [1, 3] ∧ d.rowlen * fmtBytes d.f = 32 ∧
    (∀ i ∈ rowsOf d o.lanes, EngSpan s (ectx s 0 o.tid o.gid o.opId) needR (rowVa d i) 32 vault (0x10000010000 + 32 * i)) ∧ RouteOk s o.descRoute := by
  refine ⟨by rfl, by rfl, by rfl, by rfl, by rfl, by decide +kernel, by decide +kernel, fun i hi => span_ok ?_, vault_ok (by decide +kernel)⟩
  revert i
  decide +kernel
theorem hyp_CopyAndGatherSteps_scatter : let s := gathering true; let o := gather1 true
    let d := tdescOf (o.desc.flatMap fun w => natLe 8 w.toNat)
    gatherOp? s 0 9 = some o ∧ o.scr = (team s).tid ∧ o.gid = (grp s).gid ∧ o.taken = 0 ∧ o.await = none ∧ s.group? (grp s).gid = some (grp s) ∧ s.allGroups.filter (fun y => y.gid == (grp s).gid) = [grp s] ∧
    scatterBehind s 0 o = false ∧ mergeBytes s 0 + 4 * (d.rowlen * o.lanes.length) ≤ 524288 ∧
    (∀ l ∈ o.lanes, l.2.1.toNat < d.nrows → ∀ k, k < (d.rowlen * fmtBytes d.f + 31) / 32 →
      spanOk s (ectx s 0 o.tid o.gid o.opId) needRW (rowVa d l.2.1.toNat + 32 * k) 1 (0x10000010000 + 32 * l.2.1.toNat + 32 * k) = true) := by
  refine ⟨by rfl, by rfl, by rfl, by rfl, by rfl, by rfl, by rfl, by rfl, by decide +kernel, by decide +kernel⟩
def row1 : MergeRow := ⟨1, 0x10040, 1, 0x20020, .n32, List.replicate 8 0x3F800000, false, 9, 3, none⟩
def merged : State := withG (fun g => { g with merge := [row1], gatherS := { g.gatherS with closed := 1 } }) (device nop)
theorem hyp_CopyAndGatherSteps_apply : merged.anyGroup? (grp merged).gid = some (grp merged) ∧ merged.group? (grp merged).gid = some (grp merged) ∧
    (grp merged).merge = [row1] ∧ applicable merged (grp merged) = some 1 ∧
    row1.await = none ∧ (∀ k, k < (row1.g.length * fmtBytes row1.fmt + 31) / 32 →
      spanOk merged (ectx merged 0 (grp merged).tid (grp merged).gid 0) needRW (row1.rowVa + 32 * k) 1 (0x10000010020 + 32 * k) = true) ∧
    isRemote vault = false ∧ RouteOk merged vault := by
  refine ⟨by rfl, by rfl, by rfl, by rfl, by rfl, by decide +kernel, by rfl, vault_ok (by decide +kernel)⟩

def unit1 (s : State) : Cmd := { cmdOf (grp s) 0xD0 3 (MmaTy.f4.code ++ 0#8 ++ 0#1) shape44 0x00410040 0 50 with scale := some 0x42, scaleOp := 51 }
def ringsDev : State := let s := rings (device nop); { s with teams := s.teams.map fun t => { t with ntiles := 24 } }
def matrixDev (f : CoreSt → CoreSt) : State := coreWith f ringsDev
theorem hyp_MatrixSteps_start : let k := unit1 ringsDev; let s := matrixDev fun c => { c with cmds := [k], tokens := 1 }
    s.team? (team s).tid = some (team s) ∧ (team s).scratch.wf = true ∧ k.tid = (team s).tid ∧ Tab.wf 0 (team s).acc = true ∧ nsWf (team s).accP = true ∧
    (s.core 0).claimedBy ≠ some 0 ∧ (s.core 0).run = none ∧ (s.core 0).claimedBy = none ∧ (s.core 0).cmds = k :: [] ∧ k.isMma = true ∧ k.scale ≠ none ∧
    (if k.f.getLsbD 0 then 2 else 1) ≤ (s.core 0).tokens ∧ k.f.getLsbD 0 = false ∧ s.engOut = [] ∧ partReady s k (cmdStart k).1 (cmdStart k).2.1 (cmdStart k).2.2.isSome = true := by
  refine ⟨by rfl, by decide +kernel, by rfl, by rfl, by rfl, by decide, by rfl, by rfl, by rfl, by decide, by decide, by decide, by decide, by rfl, by decide +kernel⟩
theorem hyp_MatrixSteps_pair : let k := { unit1 ringsDev with f := MmaTy.f4.code ++ 0#8 ++ 1#1 }; let s := matrixDev fun c => { c with cmds := [k] }
    k.isMma = true ∧ k.f.getLsbD 0 = true ∧ (s.core 1).run = none ∧ (s.core 1).claimedBy = none ∧ (s.core 0).tokens < 2 := by
  refine ⟨by decide, by decide, by rfl, by rfl, by decide⟩
def kOk {α : Type} (x : KRes α) : Bool :=
  match x with
  | .ok _ _ => true
  | _ => false
theorem k_ok {α : Type} {x : KRes α} (h : kOk x = true) : ∃ s a, x = .ok s a := by cases x <;> simp_all [kOk]
def execUnit (p : Option (Tab Int)) : State := matrixDev fun c => { c with run := some ⟨unit1 ringsDev, 0, 0, 1, p, none⟩ }
theorem hyp_MatrixSteps_block : let s := execUnit none; let k := unit1 ringsDev
    (s.core 0).run = some ⟨k, 0, 0, 1, none, none⟩ ∧ shapeOf k.aval = some ⟨4, 4, 1⟩ ∧ cmdTy k = some .f4 ∧ 0 < (⟨4, 4, 1⟩ : MShape).halves ∧
    (∃ s1 ra, ringTile s (cmdPart s k) 0 k.tid (ahOf k) 0 = .ok s1 ra) ∧ (∃ s1 ra, ringTile s (cmdPart s k) 0 k.tid (bhOf k) 0 = .ok s1 ra) ∧
    ∃ s1 ra, ringTile s (cmdPart s k) 0 k.tid (shOf k) 0 = .ok s1 ra := by
  refine ⟨by rfl, by rfl, by rfl, by decide, k_ok (by decide +kernel), k_ok (by decide +kernel), k_ok (by decide +kernel)⟩
def execCmd (op : BitVec 8) (f : BitVec 13) (b c : W64) (tag : BitVec 3) : State :=
  let s := tagged 7 1 ringsDev
  coreWith (fun x => { x with run := some ⟨{ cmdOf (grp s) op 3 f shape44 b c 50 with tag := tag, lanes := 3, dreg := 5 }, 0, 0, 0, none, none⟩ }) s
def ran (s : State) : Cmd := ((s.core 0).run.map (·.cmd)).getD (unit1 s)
theorem hyp_MatrixSteps_ends :
    (let s := matrixDev fun c => { c with run := some ⟨unit1 ringsDev, 1, 0, 1, none, none⟩ }
     shapeOf (ran s).aval = some ⟨4, 4, 1⟩ ∧ (ran s).op = 0xD0 ∧ (⟨4, 4, 1⟩ : MShape).halves ≤ 1 ∧ (ran s).tid = (team s).tid) ∧ (ran (execCmd 0xD2 0 0 0 0)).op = 0xD2 ∧
    (let s := execCmd 0xD3 0 0x1FF7F 0 7
     (ran s).op = 0xD3 ∧ (ran s).tag ≠ 0 ∧ s.group? (ran s).gid = some (grp s) ∧ (grp s).tags[(ran s).tag.toNat]?.join = some (pendingTag 1)) ∧
    (let s := execCmd 0xD4 (MFmt.bf16.code ++ 0#5 ++ 0#1 ++ (SRnd.det .rn).code) 0x10000 0x0001010000000200 0; let c := (ran s).cval.toNat
     (ran s).op = 0xD4 ∧ cmdRnd (ran s) = .det .rn ∧ cmdFmt (ran s) ≠ .f4 ∧ 0 < fmtBytes (cmdFmt (ran s)) ∧ bits c 56 48 = 1 ∧ bits c 40 32 = 256 ∧
      EngSpan s (ectx s 0 (ran s).tid (ran s).gid (ran s).opId) needW (ran s).bval.toNat 2 vault 0x10000000000) := by
  refine ⟨⟨by rfl, by rfl, by decide, by rfl⟩, by rfl, ⟨by rfl, by decide, by rfl, by rfl⟩, by rfl, by rfl, by decide, by decide, by decide +kernel, by decide +kernel, span_ok (by decide +kernel)⟩

-- device steps: power, errors, boot, keys

theorem hyp_PowerSteps_visit :
    (let s := matrixDev fun c => { c with cmds := [unit1 ringsDev] }
     0 = 48 * 0 + (s.die 0).pos ∧ tokensWanted s 0 ≠ 0 ∧ tokensWanted s 0 ≤ (s.die 0).count ∧ (s.die 0).resv = none ∧ corePart s 0 = some 0 ∧ s.part? 0 = some (part s)) ∧
    tokensWanted (device nop) 0 = 0 ∧
    (let s := (matrixDev fun c => { c with cmds := [unit1 ringsDev], tokSeen := true }).setDie 0 { DieSt.reset with count := 0 }
     tokensWanted s 0 ≠ 0 ∧ (s.die 0).count < tokensWanted s 0 ∧ (s.core 0).tokSeen = true ∧ (s.die 0).resv = none) := by
  refine ⟨⟨by rfl, by decide, by decide, by rfl, by rfl, by rfl⟩, by rfl, by decide, by decide, by rfl, by rfl⟩
def poweredAt (now : Nat) (d : DieSt) : State := { (device nop).setDie 7 d with now := now }
theorem hyp_PowerSteps_times :
    (let s := poweredAt 34000000 { DieSt.reset with overSince := some 0, minSince := some 0, limit := 8 }
     (s.die 7).overSince = some 0 ∧ (s.die 7).minSince = some 0 ∧ 0 + 34000000 ≤ s.now ∧ (s.die 7).limit ≤ 8) ∧
    (let s := poweredAt 340000000 { DieSt.reset with underSince := some 0, halved := true }
     (s.die 7).underSince = some 0 ∧ 0 + 10 * 34000000 ≤ s.now ∧ (s.die 7).halved = true) ∧
    (let s := poweredAt 374000000 { DieSt.reset with underSince := some 0, limit := 35 }
     let s1 := poweredAt 374000000 { DieSt.reset with restoreAt := some 374000000, limit := 8 }
     (s.die 7).halved = false ∧ (s.die 7).withdraw = 0 ∧ (s.die 7).limit < (if s.boot.tokens = 0 then 36 else s.boot.tokens) ∧
      (s.die 7).restoreAt = none ∧ (s.die 7).underSince = some 0 ∧ 0 + 11 * 34000000 ≤ s.now ∧
      (s1.die 7).halved = false ∧ (s1.die 7).withdraw = 0 ∧ (s1.die 7).limit < (if s1.boot.tokens = 0 then 36 else s1.boot.tokens) ∧
      (s1.die 7).restoreAt = some 374000000 ∧ 374000000 ≤ s1.now) ∧
    (let s := { coreWith (fun c => { c with heat := true, temp := 8799, droop := true, droops := [0] }) (device nop) with now := 68000000 }
     (s.core 0).heat = true ∧ (s.core 0).temp < 8800 ∧ (s.core 0).coolSince + 2 * 34000000 ≤ s.now ∧ (s.core 0).droop = true ∧
      (∀ t ∈ (s.core 0).droops, t + 2 * 34000000 ≤ s.now)) := by
  decide +kernel
/-- A core with state, awake, that waits for a token. -/
theorem hyp_PowerSteps_waiting : let s := (matrixDev fun c => { c with cmds := [unit1 ringsDev] }).modPart 0 fun p => { p with sectors := [0] }
    s.part? (part s).id = some (part s) ∧ s.cores = [(0, s.core 0)] ∧ (part s).sectors.contains (0 / 16) = true ∧ (s.core 0).asleep = false ∧
    0 < tokensWanted s 0 ∧ (s.core 0).claimedBy = none := by
  refine ⟨by rfl, by rfl, by rfl, by rfl, by decide +kernel, by rfl⟩

theorem hyp_ErrorSteps : (let s := device nop; s.part? (part s).id = some (part s) ∧ s.group? (grp s).gid = some (grp s) ∧ (grp s).part = (part s).id ∧
      (s.core 0).fenced = false ∧ corePart s 0 = some (part s).id ∧ (team s).part = (part s).id ∧ 0 < (team s).scratchSize ∧ s.dev.wf = true) ∧
    (let s := (device nop).modPart 0 fun p => { p with sectors := [0], cgroups := [127] }
     ownsMem s (part s) .vault 0x10000000000 = true ∧ ownsMem s (part s) .hbm 0xFFFFFFFFFF = true ∧ s.part? (part s).id = some (part s)) ∧
    (flushing.core 0).l1.find? (fun y => y.line == 0x10000000000 / 128) = some dirtyLine ∧ dirtyLine.dirty ≠ 0 ∧
    (let s := (device nop).setDie 0 { DieSt.reset with chErrs := List.replicate 16 (3, 0) }
     (s.die 0).chFenced.contains 3 = false ∧ 16 ≤ ((s.die 0).chErrs.filter fun e => e.1 == 3 && decide (s.now < e.2 + 34000000000)).length ∧
      s.parts.find? (fun q => q.cgroups.contains (16 * 0 + 3 / 4)) = some (part s) ∧ (part s).failed = false ∧ (part s).sectors.contains (0 / 8) = true) := by
  refine ⟨⟨by rfl, by rfl, by rfl, by rfl, by rfl, by rfl, by decide, by decide +kernel⟩, by decide +kernel, by rfl, by decide, by decide +kernel⟩

def bootRec : List Byte := record [0x4252474100010000, 0xC002, 0, 0, 0, 0, 0, 0]
theorem hyp_BootAndPartitions : bootLegal bootRec = true ∧ State.reset.boot.record = none ∧ ({ State.reset.boot with bad := true } : Boot).bad = true ∧
    (let b : Boot := { State.reset.boot with verified := true, fwLoaded := true, record := some bootRec }; b.verified = true ∧ b.fwLoaded = true ∧ b.tier < 3) ∧
    State.reset.part? 23 = none ∧ (({ State.reset with boot := { State.reset.boot with verified := true } } : State)).boot.verified = true ∧
    [0, 23].Nodup ∧ [127].Nodup ∧ (∀ x ∈ [0, 23], x < 24) ∧ (∀ x ∈ [127], x < 128) ∧ 768 * [0, 23].length ≤ 8192 * [127].length ∧
    (let s := { device nop with parts := (device nop).parts.map fun p => { p with table := [] } }
     s.part? (part s).id = some (part s) ∧ (part s).table = [] ∧ s.dev.wf = true) := by
  refine ⟨by decide +kernel, by rfl, by rfl, by decide, by rfl, by rfl, by decide, by decide, by decide, by decide, by decide, by rfl, by rfl, by decide +kernel⟩
def keyRec (op : Nat) : List Byte := record ([0x594B474100001000 + op * 2 ^ 24 + 510 * 2 ^ 15, 5, 0, 0] ++ List.replicate 8 7) ++ record [1, 2, 3, 4] ++ List.replicate 96 0
def inSession (slots : List (Nat × KeySlot)) : State := { device nop with sessions := [(1, true)], slots := slots }
def slot510 (owner : Nat) : Nat × KeySlot := (510, ⟨owner, 9, [], [], 3, true⟩)
theorem hyp_AttestationAndKeys : (1, true) ∈ (inSession []).sessions ∧ (inSession []).part? (part (inSession [])).id = some (part (inSession [])) ∧
    klLegal (keyRec 1) = true ∧ klLegal (keyRec 2) = true ∧ klSlot (keyRec 1) = 510 ∧ klSlot (keyRec 2) = 510 ∧ klOp (keyRec 1) = 1 ∧ klOp (keyRec 2) = 2 ∧
    (inSession []).slots.any (·.1 == 510) = false ∧ (inSession [slot510 0]).slots.any (·.1 == 510) = true ∧
    (inSession [slot510 3]).slots.find? (·.1 == 510) = some (slot510 3) ∧ (slot510 3).2.owner ≠ (part (inSession [])).id ∧
    (inSession [slot510 0]).slots.find? (·.1 == 510) = some (510, (slot510 0).2) ∧ (slot510 0).2.closed = true ∧ storesThrough (inSession [slot510 0]) 510 (slot510 0).2 = false ∧
    klSlot (keyRec 1) ≠ 511 ∧ (inSession []).boot.bad = false := by
  refine ⟨.head _, by rfl, by decide +kernel, by decide +kernel, by decide +kernel, by decide +kernel, by decide +kernel, by decide +kernel, by rfl, by rfl, by rfl, by decide,
    by rfl, by rfl, by decide +kernel, by decide +kernel, by rfl⟩

-- device steps: the fabric

abbrev here : Endpt := ⟨0, 0, 0⟩
abbrev there : Endpt := ⟨7, 1, 3⟩
/-- A packet from device 7 in class `tc`. -/
def pkt (typ tc seq ns : Nat) (new : Bool) (arg status addr : Nat) (payload : List Byte) : Pkt :=
  ⟨mkDw0 typ tc false false false new here there ns, mkDw1 seq 0 5 2, mkDw2 arg status addr, 0, payload⟩
def sid2 : StreamId := ⟨here, there, 2⟩
def stream (next : Nat) (held : List (Nat × Pkt × Nat)) (s : State) : State :=
  { s with fabric := { s.fabric with dst := [⟨sid2, next, held, [], [], 0, some 0⟩], src := [⟨sid2, 9, false, [(8, pkt 1 2 8 1 false 0 0 0 [], 0, 1)], false⟩] } }
theorem hyp_EgressSteps : portExists 0 = true ∧ Tab.wf 0 (State.reset.port 0).ctrs = true ∧ HasRoom (State.reset.port 0) (pkt 1 2 5 1 false 0 0 0 []) ∧
    (let q := { State.reset.port 0 with queues := (State.reset.port 0).queues.set 2 (List.replicate 300 (⟨pkt 1 2 5 1 false 0 0 0 [], 0, 0⟩ : Hop)) }
     threshold q 2 < qFlits (q.queues[2]?.getD [])) ∧
    (let q := { State.reset.port 0 with queues := (State.reset.port 0).queues.set 7 (List.replicate 64 (⟨pkt 9 7 5 0 false 0 0 0 [], 0, 0⟩ : Hop)) }
     64 < qFlits (q.queues[7]?.getD []) + 1) ∧ (State.reset.port 0).lastBulk ≤ 3 ∧ 4 ≤ (State.reset.port 0).lastSync ∧ (State.reset.port 0).lastSync ≤ 6 ∧
    (∃ h : Hop, h.pkt = pkt 1 2 5 1 false 0 0 0 [] ∧ 0 < 16 ∧ h.out = 0 ∧ h.inp = 0) := by
  refine ⟨by decide, by rfl, ?_, by decide +kernel, by decide +kernel, by decide, by decide, by decide, ⟨pkt 1 2 5 1 false 0 0 0 [], 0, 0⟩, rfl, by decide, rfl, rfl⟩
  simp only [HasRoom]
  decide +kernel
/-- A device 5 whose ports 0 and 1 are partition 0's, port 1 the way to device 0. -/
def transit : State :=
  let s := device nop
  let s := { s with fabric := { s.fabric with devid := 5, routes := [(0, 0x8000000000000002)] } }
  (s.setPort 0 { s.port 0 with assigned := true }).setPort 1 { s.port 1 with assigned := true }
theorem hyp_EgressSteps_transit : let x := pkt 1 2 5 1 false 0 0 0 []
    (transit.port 0).assigned = true ∧ pktBad x = false ∧ (pDst x).dev ≠ transit.fabric.devid ∧ pickPort transit (transit.port 0).owner (pDst x).dev = some 1 := by
  refine ⟨by decide +kernel, by decide +kernel, by decide +kernel, by decide +kernel⟩
theorem hyp_Arrivals_sequenced :
    (let p := pkt 1 2 70 1 false 0 0 0 (List.replicate 32 1); let s := stream 7 [] (device nop)
     Comes s 16 p 1 ∧ pUnord p = false ∧ pNew p = false ∧ (dstOf? s ⟨pDst p, pSrc p, pTC p⟩).map (·.next) = some 7 ∧ (pSeq p + 65536 - 7) % 65536 < 64) ∧
    (let p := pkt 16 2 65535 0 true 0 0 0 []; Comes (device nop) 39 p 16 ∧ pNew p = true ∧ (pSeq p + 65536 - pSeq p) % 65536 < 64) ∧
    (let p := pkt 3 2 6 1 false 0 0 0 []; Comes (stream 7 [] (device nop)) 16 p 3 ∧ 32768 ≤ (pSeq p + 65536 - 7) % 65536) ∧
    (let p := pkt 12 2 6 0 false 0 0 0 []; Comes (device nop) 16 p 12 ∧ dstOf? (device nop) ⟨pDst p, pSrc p, pTC p⟩ = none ∧
      (∀ r ∈ (device nop).fabric.rreqs, r.sid ≠ ⟨pDst p, pSrc p, pTC p⟩)) := by
  refine ⟨⟨⟨?_, ?_, ?_, ?_, ?_⟩, ?_, ?_, ?_, ?_⟩, ⟨⟨?_, ?_, ?_, ?_, ?_⟩, ?_, ?_⟩, ⟨⟨?_, ?_, ?_, ?_, ?_⟩, ?_⟩, ⟨?_, ?_, ?_, ?_, ?_⟩, ?_, ?_⟩ <;> decide +kernel
theorem hyp_Arrivals_trimmed : let p := trimPkt (pkt 1 2 70 1 false 0 0 0 (List.replicate 32 1)); let s := stream 7 [] (device nop); let osid : StreamId := ⟨pDst p, pSrc p, pOtc p⟩
    pTrim p = true ∧ pktBad p = false ∧ (pDst p).dev = s.fabric.devid ∧ unsequenced (pType p) = false ∧ (dstOf? s osid).map (·.next) = some 7 ∧
    (pSeq p + 65536 - 7) % 65536 < 64 ∧ (∀ r ∈ s.fabric.rreqs, r.sid ≠ osid) := by decide +kernel
theorem hyp_Arrivals_control : let s := stream 7 [] (device nop)
    (let p := pkt 7 6 8 0 false 0 1 0 []; Comes s 16 p 7 ∧ pStatus p = 1 ∧ s.part? (pDst p).part = some (part s) ∧ (part s).faberr.getLsbD 63 = false ∧ (part s).id = (pDst p).part) ∧
    (let p := pkt 8 6 9 0 false 0 0 0 []; Comes s 16 p 8 ∧ (srcOf? s ⟨pDst p, pSrc p, pOtc p⟩).isSome = true) ∧
    (let p := pkt 9 7 8 0 false 0 0 0 []; Comes s 16 p 9 ∧
      ((srcOf? s ⟨pDst p, pSrc p, pOtc p⟩).bind fun x => x.unacked.find? (·.1 == pSeq p)) = some (8, pkt 1 2 8 1 false 0 0 0 [], 0, 1)) ∧
    (let p : Pkt := ⟨mkDw0 1 2 false false false false here there 0x80, 0, 0, 0, []⟩; pType p = 1 ∧ pTrim p = false ∧ pktBad p = true ∧ Tab.wf 0 (s.port 39).ctrs = true) := by
  refine ⟨⟨⟨?_, ?_, ?_, ?_, ?_⟩, ?_, ?_, ?_, ?_⟩, ⟨⟨?_, ?_, ?_, ?_, ?_⟩, ?_⟩, ⟨⟨?_, ?_, ?_, ?_, ?_⟩, ?_⟩, ?_⟩ <;> decide +kernel

/-- What PacketsApplied asks of the stream and the packet in its turn. -/
def turnHyps (s : State) (p : Pkt) : Bool :=
  (s.fabric.dst.find? (decide <| ·.sid = sid2)).any (fun d => d.applied.isEmpty && decide (d.held.find? (·.1 == d.next) = some (d.next, p, 16) ∧ pSeq p = d.next ∧ d.sinceAck + 1 < 16)) &&
    decide (sid2.tc < 8 ∧ chainLeft s p = 0) && canSend s (answerClass sid2) 1
def turn (p : Pkt) (s : State) : State := stream 7 [(7, p, 16)] s
abbrev va0 : Nat := 0x10000000000
/-- The device with a key in slot 510 whose key id is 0. -/
def key0 : Nat × KeySlot := (510, ⟨0, 0, List.replicate 64 5, [], 3, false⟩)
def keyed : State := { device nop with slots := [key0] }
theorem hyp_PacketsApplied_writes :
    (let p := pkt 1 2 7 1 false 0 0 va0 (List.replicate 32 1); let s := turn p keyed; turnHyps s p = true ∧ pType p = 1 ∧ destRoute s p = some vault ∧ RouteOk s vault) ∧
    (let p := { pkt 2 2 7 1 false 0 0 va0 (List.replicate 32 1) with dw3 := 0x0000000100000001 }; let s := turn p keyed
     turnHyps s p = true ∧ pType p = 2 ∧ destRoute s p = some vault) ∧
    (let p := pkt 1 2 7 1 false 0 0 (va0 + 2 ^ 30) (List.replicate 32 1); let s := turn p keyed; turnHyps s p = true ∧ destRoute s p = none) ∧
    (let p := pkt 3 2 7 64 false 0 0 va0 []; let s := turn p keyed; turnHyps s p = true ∧ pType p = 3 ∧ destRoute s p = some vault ∧ pNsect p ≤ 64) := by
  refine ⟨⟨by decide +kernel, by decide +kernel, by decide +kernel, vault_ok (by decide +kernel)⟩, by decide +kernel, by decide +kernel, by decide +kernel⟩
theorem hyp_PacketsApplied_atomic : let p := pkt 5 2 7 1 false 0 0 va0 (sealBytes (slotTag key0 0) va0 (natLe 8 3 ++ natLe 24 0)); let s := turn p keyed
    turnHyps s p = true ∧ pType p = 5 ∧ destRoute s p = some vault ∧ (argAtom (pArg p)).2 = false ∧ (openPkt s 0 0 p).payload.take 24 = natLe 8 3 ++ natLe 16 0 := by decide +kernel
def request1 : RemReq := ⟨5, sid2, 1, 7, .n32, [], none, false, 0, none, none, 0, 0⟩
theorem hyp_PacketsApplied_responses :
    (let p := pkt 4 2 7 1 false 0 0 0 (List.replicate 32 1); let s := turn p (tagged 7 1 (device nop)); let s := { s with fabric := { s.fabric with reqs := [request1] } }
     turnHyps s p = true ∧ pType p = 4 ∧ s.fabric.reqs.find? (·.tag == pTag p) = some request1 ∧ request1.eng = none ∧
      s.fabric.reqs.filter (fun x => x.batch == request1.batch || x.tag == pTag p) = [request1] ∧ s.group? (grp s).gid = some (grp s) ∧ request1.gid = (grp s).gid ∧
      (grp s).tags[request1.ttag.toNat]?.join = some (pendingTag 1)) ∧
    (let p := pkt 10 2 7 0 false 1 0 va0 []; let s := turn p (vaultBytes 0 (natLe 8 (2 * 2 ^ 32 + 1)) keyed)
     turnHyps s p = true ∧ pType p = 10 ∧ pArg p = 1 ∧ destRoute s p = some vault ∧ barBad (homeNat s vault va0 8) = false) ∧
    (let p := pkt 10 2 7 1 false 6 0 va0 (sealBytes (slotTag key0 0) va0 (natLe 8 0x10040 ++ natLe 24 0x10080)); let s := turn p (vaultBytes 0 (natLe 8 0x10040) keyed)
     turnHyps s p = true ∧ pType p = 10 ∧ pArg p = 6 ∧ destRoute s p = some vault ∧
      homeNat s vault va0 8 % 2 ^ 55 = leNat ((openPkt s 0 0 p).payload.take 8) % 2 ^ 55) ∧
    (let p := pkt 11 2 7 0 false 1 0 0 []; let s := turn p (withG (fun g => { g with remOp := some (sid2, 5, none) }) (device nop))
     turnHyps s p = true ∧ pType p = 11 ∧ pStatus p = 0 ∧ (grp s).remOp = some (sid2, pTag p, none)) ∧
    (let p := pkt 16 2 7 0 false 0 0 0 []; turnHyps (turn p (device nop)) p = true ∧ pType p = 16) := by
  refine ⟨⟨by decide +kernel, by decide +kernel, by decide +kernel, by rfl, by decide +kernel, by rfl, by rfl, by rfl⟩, by decide +kernel, by decide +kernel, by decide +kernel, by decide +kernel⟩
theorem hyp_PacketsApplied_timers :
    (let s := { device nop with fabric := { (device nop).fabric with rreqs := [⟨sid2, 6, 0, false, some 3⟩], rreqLast := [(7, 1)] }, now := 34 * 64 }
     s.fabric.rreqs.find? (·.sid.peer.dev == 7) = some ⟨sid2, 6, 0, false, some 3⟩ ∧ Tab.get 0 s.fabric.rreqLast 7 + 64 ≤ s.ns + 1) ∧
    (let s := { stream 7 [] (device nop) with now := 34 * 256 * 32 }
     0 + 256 ≤ s.ns ∧ ((srcOf? s sid2).bind fun x => x.unacked.find? (·.1 == 8)) = some (8, pkt 1 2 8 1 false 0 0 0 [], 0, 1) ∧ 0 + 256 * max s.fabric.rto 1 ≤ s.ns ∧
      1 < max s.fabric.maxrs 1) := by
  decide +kernel

-- the invariant

theorem hyp_BootOkKept : BootOk State.reset.boot ∧ (match step State.reset with
    | .next _ => true
    | _ => false) = true := by
  refine ⟨by simp [BootOk, State.reset, Boot.reset], by rfl⟩

-- the memory's cipher

/-- FIPS 197, appendix C.3. -/
theorem test_aes256 : Aes.encrypt (Aes.schedule (List.range 32)) ((List.range 16).map (· * 17)) =
    [0x8e, 0xa2, 0xb7, 0xca, 0x51, 0x67, 0x45, 0xbf, 0xea, 0xfc, 0x49, 0x90, 0x4b, 0x49, 0x60, 0x89] := by decide +kernel
/-- IEEE 1619, vector 10: its first 32 bytes. -/
def xtsKey : List Byte :=
  [0x27, 0x18, 0x28, 0x18, 0x28, 0x45, 0x90, 0x45, 0x23, 0x53, 0x60, 0x28, 0x74, 0x71, 0x35, 0x26, 0x62, 0x49, 0x77, 0x57, 0x24, 0x70, 0x93, 0x69, 0x99, 0x59,
    0x57, 0x49, 0x66, 0x96, 0x76, 0x27, 0x31, 0x41, 0x59, 0x26, 0x53, 0x58, 0x97, 0x93, 0x23, 0x84, 0x62, 0x64, 0x33, 0x83, 0x27, 0x95, 0x02, 0x88, 0x41, 0x97,
    0x16, 0x93, 0x99, 0x37, 0x51, 0x05, 0x82, 0x09, 0x74, 0x94, 0x45, 0x92]
theorem test_xts : Aes.encSector xtsKey 255 ((List.range 32).map (BitVec.ofNat 8)) =
    [0x1c, 0x3b, 0x3a, 0x10, 0x2f, 0x77, 0x03, 0x86, 0xe4, 0x83, 0x6c, 0x99, 0xe3, 0x70, 0xcf, 0x9b, 0xea, 0x00, 0x80, 0x3f, 0x5e, 0x48, 0x23, 0x57, 0xa4, 0xae,
      0x12, 0xd4, 0x14, 0xa3, 0xe6, 0x3b] := by decide +kernel

-- witnesses for further clauses

/-- Two A elements and two scale elements are published. -/
def ringsPair : State :=
  scratchBytes 0x1000 (qBytes (ringBlk 11 1 2 0x2000)) (scratchBytes 0x1080 (qBytes (ringBlk 9 1 2 0x6000)) ringsDev)
def unitPair : Cmd := { unit1 ringsDev with aval := 0x0000000100040081, f := MmaTy.f4.code ++ 0#8 ++ 1#1 }
def next2 (x : KRes (Array Byte × Array Bool)) (k : State → KRes (Array Byte × Array Bool)) : Bool :=
  match x with
  | .ok s _ => kOk (k s)
  | _ => false
/-- The elements of a unit's block, of a pair's, and of its scaling part, one after another. -/
def blockHyps (s : State) (k : Cmd) (pair : Bool) : Bool :=
  let tile := fun (h idx : Nat) (s : State) => ringTile s (cmdPart s k) 0 k.tid h idx
  let second := fun (h : Nat) (s : State) => if pair then tile h 1 s else .ok s (#[], #[])
  next2 (tile (ahOf k) 0 s) (fun s => if next2 (second (ahOf k) s) (tile (bhOf k) 0) then .ok s (#[], #[]) else .wait s) &&
    next2 (tile (shOf k) 0 s) (second (shOf k)) && decide (ahOf k ≠ bhOf k)
theorem hyp_MatrixSteps_elements : blockHyps (execUnit none) (unit1 ringsDev) false = true ∧ blockHyps ringsPair unitPair true = true ∧
    shapeOf unitPair.aval = some ⟨129, 4, 1⟩ ∧ (⟨129, 4, 1⟩ : MShape).halves = 2 ∧ cmdTy unitPair = some .f4 ∧ unitPair.isMma = true ∧ unitPair.f.getLsbD 0 = true := by
  refine ⟨by decide +kernel, by decide +kernel, by rfl, by decide, by rfl, by decide, by decide⟩
theorem hyp_BlockSums : Fl.fin true 0 = .fin true 0 ∧ Fl.nan ∈ [Fl.fin false 1, .nan] ∧ Fl.nan ∉ [Fl.fin false 1, .inf true] ∧ Fl.inf true ∈ [Fl.fin false 1, .inf true] ∧
    Fl.inf false ∉ [Fl.fin false 1, .inf true] ∧ (f32 0x7FC00000).isNan = true ∧ f32 0xFF800000 = .inf true ∧ f32 0x80000000 = .fin true 0 := by
  refine ⟨rfl, by decide, by decide, by decide, by decide, by decide +kernel, by decide +kernel, by decide +kernel⟩

/-- A page of device 7 at VA 0x10000, its descriptor's record read under operation 9; a pin taken, and a swap whose answers have come. -/
def farRec : Route × Nat := (.glob .remote .hw .clear 0 7, 0x40)
def pinnedAt (st : RecStage) (op : Option (StreamId × Nat × Option Nat)) (s : State) : State :=
  { withG (fun g => { g with recStep := some ⟨0x10000, (vault, 0x10000000000), 0x10040, farRec, st⟩, remOp := op, markOp := some 9 }) s with
    engIn := [(9, .sect 7 2 (descBytes.take 32) false), (9, .sect 7 3 (descBytes.drop 32) false)] }
def isData (x : ERead) (l : List Byte) : Bool :=
  match x with
  | .data bs _ => decide (bs = l)
  | _ => false
theorem hyp_GatherCommands_away :
    (let i := Instr.egath H (S 2) (S 1) .lane (.u (.k .one)) 0 1; let s := pinnedAt .pinned none (table (device i))
     runs i s ∧ (performAll s (grp s) true).isSome = true ∧ handleCur s (vault, 0x10000000000) = 0x10040 ∧ isData (recRead s (grp s) farRec) descBytes = true ∧
      descBad descBytes = false) ∧
    (let i := Instr.eswap H (S 1) (S 3); let s := pinnedAt .swapped (some (sid2, 4, some 0)) (table (device i))
     runs i s ∧ (performAll s (grp s) true).isSome = true ∧ isRemote farRec.1 = true ∧ (grp s).remOp = some (sid2, 4, some 0)) := by
  refine ⟨⟨by rfl, by rfl, by decide +kernel, by decide +kernel, by decide⟩, by rfl, by rfl, by rfl, by rfl⟩
/-- A device that waits for a boot record; a dirty line of the vault's frame held under slot 510; a record for the slot that cannot be named. -/
def badBoot : State := { device nop with boot := { (device nop).boot with bad := true } }
def underSlot : State :=
  { inSession [slot510 0] with cores := [(0, { CoreSt.reset with l1 := [{ dirtyLine with tier := .hbm, line := 5, key := .slot 510 3 [] 0, part := (part (inSession [])).id }] })] }
def record511 : List Byte := record ([0x594B474100001000 + 2 ^ 24 + 511 * 2 ^ 15, 5, 0, 0] ++ List.replicate 8 7) ++ record [1, 2, 3, 4] ++ List.replicate 96 0
theorem hyp_AttestationAndKeys_more : badBoot.boot.bad = true ∧ klLegal record511 = true ∧ klSlot record511 = 511 ∧ klOp record511 = 1 ∧ klLegal (keyRec 3) = false ∧
    (inSession []).slots.find? (·.1 == 510) = none ∧ underSlot.dev.wf = true ∧ underSlot.host.wf = true ∧
    (underSlot.core 0).l1.all (fun x => decide (x.part = (slot510 0).2.owner) && x.key.isLoad 510 3 && !chanFenced underSlot x.tier (128 * x.line)) = true ∧
    (underSlot.core 0).l1.length = 1 ∧ storesThrough underSlot 510 (slot510 0).2 = false := by
  refine ⟨by rfl, by decide +kernel, by decide +kernel, by decide +kernel, by decide +kernel, by rfl, by decide +kernel, by decide +kernel, by decide +kernel, by rfl, by decide +kernel⟩
theorem hyp_EgressSteps_more :
    (let q := { State.reset.port 0 with queues := (State.reset.port 0).queues.set 4 [(⟨pkt 3 4 5 1 false 0 0 0 [], 0, 0⟩ : Hop)] }
     (q.queues[4]?.getD []).length = 1 ∧ ((List.range 3).all fun k => (q.queues[5 + k]?.getD []).isEmpty) = true) ∧
    pickPort transit 0 0 = some 1 ∧ ((List.range 32).all fun b => b == 0 || (pickPort transit b 0).isNone) = true ∧
    (pSrc (pkt 1 2 5 1 false 0 0 0 [])).dev ≠ transit.fabric.devid := by
  refine ⟨⟨by decide +kernel, by decide +kernel⟩, by decide +kernel, by decide +kernel, by decide +kernel⟩
theorem hyp_VectorStores_narrow : f32 0x7FC00000 = .nan ∧ f32 0xFF800000 = .inf true ∧ f32 0x00000001 = .fin false 1 ∧ 2 ^ 22 ≤ 2 ^ 149 := by
  refine ⟨by decide +kernel, by decide +kernel, by decide +kernel, by decide⟩
end Sys2Proof.Tests
end

/-! Proofs. The bit operations of SBIT and VBIT (R178, R210): the words that are illegal, what each operation computes at a width, and the
retirement of the two instructions with that value. -/

namespace Sys2Proof.Machine

open Sys2Proof

-- the counts and the reversal, on a number below 2^w

theorem popcNat_le (w x : Nat) : popcNat w x ≤ w := by
  simpa [popcNat] using List.countP_le_length (p := x.testBit) (l := List.range w)

theorem clzNat_le (w x : Nat) : clzNat w x ≤ w := by
  unfold clzNat; split <;> omega

theorem testBit_eq_false_of_clzNat {w x n : Nat} (hx : x < 2 ^ w) (hn : w ≤ n + clzNat w x) : x.testBit n = false := by
  by_cases h0 : x = 0
  · simp [h0]
  · have hlog : x.log2 < w := (Nat.log2_lt h0).2 hx
    rw [clzNat, if_neg h0] at hn
    exact Nat.testBit_lt_two_pow ((Nat.log2_lt h0).1 (by omega))

theorem testBit_of_clzNat_lt {w x : Nat} (hx : x < 2 ^ w) (h : clzNat w x < w) : x.testBit (w - 1 - clzNat w x) = true := by
  have h0 : x ≠ 0 := fun h0 => by simp [clzNat, h0] at h
  have hlog : x.log2 < w := (Nat.log2_lt h0).2 hx
  have htop : w - 1 - clzNat w x = x.log2 := by rw [clzNat, if_neg h0]; omega
  rw [htop]
  exact Nat.testBit_log2 h0

/-- Either the search meets its first one bit, or there is none below w. -/
theorem ctzNat_cases (w x : Nat) :
    (ctzNat w x < w ∧ x.testBit (ctzNat w x) = true ∧ ∀ n < ctzNat w x, x.testBit n = false) ∨
    (ctzNat w x = w ∧ ∀ n < w, x.testBit n = false) := by
  unfold ctzNat
  cases hf : (List.range w).find? x.testBit with
  | none => exact .inr ⟨rfl, by simpa using List.find?_range_eq_none.1 hf⟩
  | some k =>
    obtain ⟨hk, hmem, hlow⟩ := List.find?_range_eq_some.1 hf
    exact .inl ⟨List.mem_range.1 hmem, hk, by simpa using hlow⟩

/-- After k bits of the reversal the sum is a multiple of 2^(w - k), and its quotient holds those bits in the opposite order. -/
theorem brevNat_prefix {w x k : Nat} (hk : k ≤ w) :
    ∃ q, (List.range k).foldl (fun y i => if x.testBit i then y + 2 ^ (w - 1 - i) else y) 0 = 2 ^ (w - k) * q ∧
      ∀ j, q.testBit j = (decide (j < k) && x.testBit (k - 1 - j)) := by
  induction k with
  | zero => exact ⟨0, by simp⟩
  | succ k ih =>
    obtain ⟨q, hsum, hbits⟩ := ih (by omega)
    refine ⟨Nat.bit (x.testBit k) q, ?_, fun j => ?_⟩
    · have hpow : 2 ^ (w - k) = 2 ^ (w - (k + 1)) * 2 := by rw [← pow_succ]; congr 1; omega
      have hexp : w - 1 - k = w - (k + 1) := by omega
      rw [List.range_succ, List.foldl_append, hsum, List.foldl_cons, List.foldl_nil, hpow, hexp, Nat.bit_val]
      cases x.testBit k <;> simp <;> ring
    · cases j with
      | zero => simp
      | succ j =>
        have hidx : k + 1 - 1 - (j + 1) = k - 1 - j := by omega
        rw [Nat.testBit_bit_succ, hbits, hidx]
        simp

theorem testBit_brevNat {w x n : Nat} (hn : n < w) : (brevNat w x).testBit n = x.testBit (w - 1 - n) := by
  obtain ⟨q, hsum, hbits⟩ := brevNat_prefix (x := x) (le_refl w)
  have hq : brevNat w x = q := by simpa [brevNat] using hsum
  rw [hq, hbits, decide_eq_true hn, Bool.true_and]

-- the width of a type

theorem tyWidth_le (t : VTy) : tyWidth t ≤ 64 := by cases t <;> decide

theorem tyWrap_getLsbD (t : VTy) (z : Int) {k : Nat} (hk : k < tyWidth t) : (tyWrap t z).getLsbD k = (BitVec.ofInt (tyWidth t) z).getLsbD k := by
  have hk64 : k < 64 := hk.trans_le (tyWidth_le t)
  unfold tyWrap tyWidth
  cases t.wide <;> simp [hk64]

theorem ofNat64_toNat_of_le {c : Nat} (t : VTy) (h : c ≤ tyWidth t) : (BitVec.ofNat 64 c).toNat = c := by
  have := tyWidth_le t
  rw [BitVec.toNat_ofNat]; exact Nat.mod_eq_of_lt (by omega)

/-- The field of .BFX is a number of n' bits, read as the type says, at the width of the type. -/
theorem bfxTy_eq_tyWrap {t : VTy} {x p n : Nat} (h : 0 < min n (tyWidth t - p)) :
    let y := BitVec.ofNat (min n (tyWidth t - p)) (x / 2 ^ p)
    bfxTy t x p n = tyWrap t (if t.signed then y.toInt else y.toNat) := by
  intro y
  have hguard : ¬(n = 0 ∨ tyWidth t ≤ p) := by omega
  have hy : x / 2 ^ p % 2 ^ min n (tyWidth t - p) = y.toNat := (BitVec.toNat_ofNat ..).symm
  rw [bfxTy, if_neg hguard]
  simp only [hy, BitVec.toInt_eq_msb_cond, BitVec.msb_eq_getLsbD_last, BitVec.testBit_toNat]
  cases t.signed <;> simp

-- the bit operations at the width of a type

section
variable {α : Type} {t : VTy} {w : Nat} {a : W64} (pn : α → Nat) (hw : tyWidth t = w) (ha : a.toNat < 2 ^ w)
include hw ha

theorem bitTy_popc : (bitTy t .popc a pn).toNat = ((List.range w).filter fun n => a.getLsbD n).length := by
  subst hw
  simp only [bitTy, Nat.mod_eq_of_lt ha, ofNat64_toNat_of_le t (popcNat_le _ _)]
  exact List.countP_eq_length_filter

theorem bitTy_clz :
    let v := (bitTy t .clz a pn).toNat
    v ≤ w ∧ (∀ n, n < w → w ≤ n + v → a.getLsbD n = false) ∧ (v < w → a.getLsbD (w - 1 - v) = true) := by
  subst hw
  simp only [bitTy, Nat.mod_eq_of_lt ha, ofNat64_toNat_of_le t (clzNat_le _ _)]
  exact ⟨clzNat_le _ _, fun _ _ hn => testBit_eq_false_of_clzNat ha hn, testBit_of_clzNat_lt ha⟩

theorem bitTy_ctz :
    let v := (bitTy t .ctz a pn).toNat
    v ≤ w ∧ (∀ n, n < v → a.getLsbD n = false) ∧ (v < w → a.getLsbD v = true) := by
  subst hw
  have hcases := ctzNat_cases (tyWidth t) a.toNat
  have hle : ctzNat (tyWidth t) a.toNat ≤ tyWidth t := by omega
  simp only [bitTy, Nat.mod_eq_of_lt ha, ofNat64_toNat_of_le t hle]
  obtain ⟨_, hone, hlow⟩ | ⟨hnone, hlow⟩ := hcases
  · exact ⟨hle, hlow, fun _ => hone⟩
  · rw [hnone]
    exact ⟨le_rfl, hlow, fun h => absurd h (lt_irrefl _)⟩

theorem bitTy_brev : ∀ n, n < w → (bitTy t .brev a pn).getLsbD n = a.getLsbD (w - 1 - n) := by
  subst hw
  intro n hn
  have hn64 : n < 64 := hn.trans_le (tyWidth_le t)
  simp only [bitTy, Nat.mod_eq_of_lt ha, BitVec.getLsbD_ofNat, hn64, decide_true, Bool.true_and, testBit_brevNat hn]
  exact BitVec.testBit_toNat a

/-- The field, extended by its own top bit under a signed type. -/
theorem bitTy_bfx (p n : α) :
    let n' := min (pn n) (w - pn p)
    let v := bitTy t (.bfx p n) a pn
    (n' = 0 → v = 0) ∧
    (0 < n' → ∀ k, k < w → v.getLsbD k = if k < n' then a.getLsbD (pn p + k) else (t.signed && a.getLsbD (pn p + n' - 1))) := by
  subst hw
  simp only [bitTy, Nat.mod_eq_of_lt ha]
  refine ⟨fun h => if_pos (by omega), fun h k hk => ?_⟩
  have hbit : ∀ m j, (BitVec.ofNat m (a.toNat / 2 ^ pn p)).getLsbD j = (decide (j < m) && a.getLsbD (pn p + j)) := fun m j => by
    rw [BitVec.getLsbD_ofNat, Nat.testBit_div_two_pow, BitVec.testBit_toNat, Nat.add_comm]
  rw [bfxTy_eq_tyWrap h, tyWrap_getLsbD t _ hk]
  generalize min (pn n) (tyWidth t - pn p) = m at h ⊢
  cases t.signed with
  | false =>
    rw [if_neg Bool.false_ne_true, BitVec.ofInt_natCast, BitVec.getLsbD_ofNat, BitVec.testBit_toNat, hbit]
    by_cases hm : k < m <;> simp [hk, hm]
  | true =>
    have htop : pn p + (m - 1) = pn p + m - 1 := by omega
    have hlt : m - 1 < m := by omega
    rw [if_pos rfl, ← BitVec.signExtend, BitVec.getLsbD_signExtend, BitVec.msb_eq_getLsbD_last, hbit, hbit, htop]
    by_cases hm : k < m <;> simp [hk, hm, hlt]
end

-- retirement with a result

/-- A scalar instruction none of whose operands is poisoned retires with its value. -/
theorem scalarOp_retires {i : Instr} {s : State} {g : Group} (d : Option SDst) (f : (UOp → W64) → W64) (h : Issued i s g)
    (hp : poisonU (srcOf s g) (iUs i) = false) :
    let v := f fun u => (rdU (srcOf s g) u).1
    ∃ t, issue i (scalarOp i d f) s = .next t ∧ Retired i (writeS s g d v).1 (writeS s g d v).2 (.scalar v false) t ∧ SameMemory s t := by
  intro v
  have hbody : scalarOp i d f s g = .done (writeS s g d v).1 (writeS s g d v).2 (.scalar v false) := by simp [scalarOp, hp, v]
  have hfound : ((writeS s g d v).1.group? (writeS s g d v).2.gid).isSome := by rw [writeS_gid, writeS_group?]; exact h.found
  exact ⟨_, issue_done h hbody, retired_of _ hfound, (SameMemory.writeS s g d v).trans (.setGroup _ _)⟩

/-- A vector instruction with no poisoned element in an active lane retires with its value in the active lanes. -/
theorem vecOp_retires {i : Instr} {s : State} {g : Group} (d : Option VReg) (sel : BitVec 3) (wide : Bool) (f : Src → Lane → W64)
    (h : Issued i s g) (hp : poisonLanes (srcOf s g) (iOs i) (active g.regs sel) = 0) :
    let r := writeVW wide g d (active g.regs sel) (f (srcOf s g))
    ∃ t, issue i (vecOp i d sel wide f) s = .next t ∧ SameMemory s t ∧ Retired i s r.1 r.2 t := by
  intro r
  have hbody : vecOp i d sel wide f s g = .done s r.1 r.2 := by simp [vecOp, hp, r]
  have hfound : (s.group? r.1.gid).isSome := by rw [writeVW_gid]; exact h.found
  exact ⟨_, issue_done h hbody, .setGroup _ _, retired_of _ hfound⟩

-- the instructions

theorem rdW_toNat_lt (t : VTy) (x : Src) (o : OOp) (l : Lane) : (rdW t.wide x o l).1.toNat < 2 ^ tyWidth t := by
  unfold rdW tyWidth
  cases t.wide with
  | true => exact BitVec.isLt _
  | false =>
    rw [if_neg Bool.false_ne_true, if_neg Bool.false_ne_true, BitVec.toNat_setWidth]
    exact (Nat.mod_le _ _).trans_lt (rd32 x o l).1.isLt

theorem tyWidth_styTy (ty : STy) : tyWidth (styTy ty) = 64 := by cases ty <;> rfl

theorem styTy_signed (ty : STy) : (styTy ty).signed = (ty == .i64) := by cases ty <;> rfl

theorem scalarBitOperations : Claims.ScalarBitOperations := by
  intro h d a op ty s g hi hp
  obtain ⟨t, ht, hret, hmem⟩ := scalarOp_retires d (fun r => bitTy (styTy ty) op (r a) fun u => (r u).toNat) hi hp
  refine ⟨t, _, ht, hret, hmem, ?_⟩
  have hw := tyWidth_styTy ty
  have ha := (rdU (srcOf s g) a).1.isLt
  cases op with
  | popc => exact bitTy_popc _ hw ha
  | clz => exact bitTy_clz _ hw ha
  | ctz => exact bitTy_ctz _ hw ha
  | brev => exact bitTy_brev _ hw ha
  | bfx p n => rw [← styTy_signed]; exact bitTy_bfx (fun u => (rdU (srcOf s g) u).1.toNat) hw ha p n

theorem vectorBitOperations : Claims.VectorBitOperations := by
  intro h d a op sel ty s g hi hp
  obtain ⟨t, ht, hmem, hret⟩ :=
    vecOp_retires d sel ty.wide (fun x l => bitTy ty op (vx ty x a l) fun o => (vx ty x o l).toNat) hi hp
  refine ⟨t, _, ht, hmem, hret, fun l => ?_⟩
  have ha := rdW_toNat_lt ty (srcOf s g) a l
  cases op with
  | popc => exact bitTy_popc _ rfl ha
  | clz => exact bitTy_clz _ rfl ha
  | ctz => exact bitTy_ctz _ rfl ha
  | brev => exact bitTy_brev _ rfl ha
  | bfx p n => exact bitTy_bfx (fun o => (vx ty (srcOf s g) o l).toNat) rfl ha p n

-- the words of SBIT

/-- Bits 5:0 of a word are its SUB. -/
theorem sub_ofWord (w : W64) : (Raw.ofWord w).sub = w.extractLsb' 0 6 := by
  apply BitVec.eq_of_toNat_eq
  simp only [Raw.sub, Raw.ofWord, BitVec.extractLsb'_toNat, Nat.shiftRight_zero]
  omega

/-- Bits 31:16 of a word are its fields B and C. -/
theorem b_append_c_ofWord (w : W64) : (Raw.ofWord w).b ++ (Raw.ofWord w).c = w.extractLsb' 16 16 := by
  ext k hk
  simp only [Raw.b, Raw.c, Raw.ofWord, BitVec.getElem_append, BitVec.getElem_extractLsb', BitVec.getLsbD_extractLsb']
  split
  · have hlt : 16 + k < 32 := by omega
    simp [hlt]
  · have hidx : 24 + (k - 8) = 16 + k := by omega
    have hlt : 16 + k < 32 := by omega
    simp [hidx, hlt]

theorem bitopOk_ofWord_eq_false {w : W64}
    (h : 5 ≤ (w.extractLsb' 0 6).toNat ∨ ((w.extractLsb' 0 6).toNat < 4 ∧ w.extractLsb' 16 16 ≠ 0)) : bitopOk (Raw.ofWord w) = false := by
  rw [← sub_ofWord, ← b_append_c_ofWord] at h
  have hsub : (Raw.ofWord w).sub ≠ 4 := fun h4 => by simp [h4] at h
  have hbc : (Raw.ofWord w).sub.toNat < 4 → ¬((Raw.ofWord w).b = 0 ∧ (Raw.ofWord w).c = 0) := by
    rintro hlt ⟨hb, hc⟩
    obtain h5 | ⟨_, hne⟩ := h
    · omega
    · exact hne (by rw [hb, hc]; rfl)
  unfold bitopOk Raw.b0 Raw.c0
  simpa using And.intro hsub fun hlt hb hc => hbc hlt ⟨hb, hc⟩

/-- R178: the check of SUB, B and C comes before any operand is read, so that its failure is ILL. -/
theorem decodeScalar_sbit_ill {r : Raw} (lit : W64) (hop : r.op = 0x1F) (h : bitopOk r = false) : decodeScalar r lit = .error .ill := by
  have hneed : need (r.val && r.sel == 0 && r.mode == 0 && bitopOk r) = .error .ill := by simp [need, h]
  simp only [decodeScalar, hop, hneed]
  cases sty? r.ty <;> rfl

theorem sbitWords : Claims.SbitWords := by
  intro w rest hop h
  have hraw : (Raw.ofWord w).op = 0x1F := hop
  have hscalar : decodeRaw (Raw.ofWord w) (rest.headD 0) = decodeScalar (Raw.ofWord w) (rest.headD 0) := by simp [decodeRaw, hraw]
  rw [decodeWords, decode, hscalar, decodeScalar_sbit_ill _ hraw (bitopOk_ofWord_eq_false h)]
  rfl

/-- Settles O16: the operations at the width of a type, the shared retirement of scalar and vector results, and the check of SUB, B and C. -/
theorem bitOperations : Obligations.BitOperations := ⟨scalarBitOperations, sbitWords, vectorBitOperations⟩

end Sys2Proof.Machine

/-! Proofs. The entry into a trap handler and the return from it (R414, R420). -/

namespace Sys2Proof.Machine

open Sys2Proof

-- the entry into the handler

/-- Settles O6: with a handler and INH = 0 a stop takes the entry of R414, not the kill of R415. -/
theorem stopEntersHandler : Obligations.StopEntersHandler := by
  intro s g l h c m a lw hl hh hinh
  have hhandler : ∀ x : Group, x.lid = g.lid → handlerOf s x = some h := fun x hx => by simp [handlerOf, hx, hl, hh]
  simp [groupStop, dropRun, hhandler, hinh]

-- the return from the handler

theorem returnFromHandler : Claims.ReturnFromHandler := by
  intro h s g hi hinh
  have hexec : exec (.rte h) s = .next (s.setGroup (returnFromTrap g)) := issue_halt hi (if_pos hinh)
  rw [hexec]
  simp only [returnFromTrap, newRun, countRetired, dropRun, setExm]

theorem rteOutsideHandlerStops : Claims.RteOutsideHandlerStops := by
  intro h s g hi hr hinh
  have hbody : ¬g.trap.inh = true := by simp [hinh]
  exact issue_stop hi hr (st := stopAll g .ill 0) (if_neg hbody)

-- the words of RTE

theorem ofBool_getLsbD_eq_extractLsb' (w : W64) (k : Nat) : BitVec.ofBool (w.getLsbD k) = w.extractLsb' k 1 := by
  ext i hi
  obtain rfl : i = 0 := by omega
  simp

/-- The fields of a word, put together again, are the word. -/
theorem toWord_ofWord (w : W64) : (Raw.ofWord w).toWord = w := by
  simp only [Raw.toWord, Raw.ofWord, ofBool_getLsbD_eq_extractLsb', BitVec.extractLsb'_append_extractLsb'_eq_extractLsb']
  exact BitVec.extractLsb'_eq_self

theorem ofWord_inj {w w' : W64} : Raw.ofWord w = Raw.ofWord w' ↔ w = w' :=
  ⟨fun h => by rw [← toWord_ofWord w, h, toWord_ofWord], congrArg _⟩

/-- What R420 asks of the fields beside the opcode: K = 0, TA = 0, E set, and D, A and bits 31:0 zero; TC is free. -/
def bareE (r : Raw) : Bool := r.plain && r.e && r.d == 0 && r.a == 0 && r.lo == 0

theorem bareE_ofWord_iff (w : W64) :
    bareE (Raw.ofWord w) = true ↔ w &&& 0x00F8FFFFFFFFFFFF = 0x0080000000000000 := by
  have hta : w.extractLsb' 51 3 &&& 0x7#3 = w.extractLsb' 51 3 := BitVec.and_allOnes
  have hd : w.extractLsb' 40 8 &&& 0xFF#8 = w.extractLsb' 40 8 := BitVec.and_allOnes
  have ha : w.extractLsb' 32 8 &&& 0xFF#8 = w.extractLsb' 32 8 := BitVec.and_allOnes
  have hlo : w.extractLsb' 0 32 &&& 0xFFFFFFFF#32 = w.extractLsb' 0 32 := BitVec.and_allOnes
  rw [← ofWord_inj]
  simp [bareE, Raw.plain, Raw.ofWord, BitVec.extractLsb'_and, hta, hd, ha, hlo, and_assoc, and_comm]

theorem decodeCtl_rte {r : Raw} (lit : W64) (hop : r.op = 0x0D) :
    decodeCtl r lit = if bareE r then .ok (.rte ⟨true, r.tc⟩) else .error .ill := by
  have hdec : decodeCtl r lit = (need (bareE r)).bind fun _ => .ok (.rte r.hdr) := by simp only [decodeCtl, hop]; rfl
  rw [hdec]
  by_cases hb : bareE r = true
  · have he : r.e = true := by simp_all [bareE]
    simp [need, hb, he, Raw.hdr, Except.bind]
  · simp [need, hb, Except.bind]

theorem rteWords : Claims.RteWords := by
  intro w rest hop
  have hraw : (Raw.ofWord w).op = 0x0D := hop
  have hlit : hasLiteral w = false := by simp [hasLiteral, operandFields, hraw]
  have hctl : decode w (rest.headD 0) = decodeCtl (Raw.ofWord w) (rest.headD 0) := by simp [decode, decodeRaw, hraw]
  rw [decodeWords, hctl, decodeCtl_rte _ hraw, hlit]
  simp only [bareE_ofWord_iff, Bool.false_eq_true, if_false]
  split <;> rfl

/-- Settles O9: the return is the state `returnFromTrap` gives, the stop is ILL of the whole group, and the check of RTE's fields is the
mask of its word. -/
theorem handlerReturns : Obligations.HandlerReturns := ⟨returnFromHandler, rteOutsideHandlerStops, rteWords⟩

end Sys2Proof.Machine
